-- ==== Sys2Proof/Word.lean ====
section
/-!
DEFINITION. The word types of the Myzaend M6 (Dexnan 2). Bytes, 32-bit lanes and parcels, 64-bit scalars
(R5, R51, R60), and 48-bit accumulator entries (R31).
-/
namespace Sys2Proof

/-- One byte of memory. -/
abbrev Byte := BitVec 8

/-- A 32-bit parcel, or one lane of a vector register (R51, R60). -/
abbrev W32 := BitVec 32

/-- A scalar register, an address, or a lane mask (R60). -/
abbrev W64 := BitVec 64

/-- One AX48 accumulator entry (R31). -/
abbrev W48 := BitVec 48

end Sys2Proof
end

