-- ==== Sys2Proof/Config.lean ====
section
/-!
DEFINITION. What the manual leaves to the part or to the outside, as constants without a body: nothing in Lean can
evaluate them, so a claim holds whatever they are. Each is named in the assumption log.
-/
namespace Sys2Proof.Config

/-- The reply to an MCTP control message, which the manual leaves to MCTP (R423; log entry 8). -/
opaque mctpReply : List Byte → List Byte

/-- Core cycles a step takes beyond the first, for the n-th step (log entry 7). -/
opaque stallCycles : Nat → Nat

/-- Whether the public key of a firmware image matches the fused hash (R424; log entry 8). -/
opaque firmwareKeyOk : List Byte → Bool

/-- Whether the signature of a firmware image verifies (R424; log entry 8). -/
opaque firmwareSignatureOk : List Byte → Bool

/-- The version a firmware image states (R424; log entry 8). -/
opaque firmwareVersion : List Byte → Nat

/-- The boot ROM, and the fuses as bytes, by rollback counter and next-leaf counter: what ATTEST measures beside the firmware
image (R424, R425; log entry 8). -/
opaque rom : List Byte
opaque fuses (rollback leaf : Nat) : List Byte

/-- The HSS signature by the identity key with leaf `n` over measurements and nonce (R425; log entry 8). -/
opaque attestSignature : Nat → BitVec 768 → BitVec 256 → List Byte

/-- The identity key's public key (R425; log entry 8). -/
opaque identityKey : List Byte

/-- The value of an access that the manual leaves open (n counts such values; log entry 10). -/
opaque freeValue : Nat → W64

/-- Whether another package has a context bound to a job, at a cycle: the other packages are outside the model (R400,
R410; log entry 24). -/
opaque peerMember (cycle job pkg : Nat) : Bool

/-- What the job's earlier members say of a barrier table at BIND: 0 or 1 agrees, 2 differs, 3 tick length differs (R401;
log entry 24). -/
opaque jobVerdict (cycle job : Nat) : Nat

/-- Whether the anchor area of a job whose anchor is another package lacks room (R400; log entry 24). -/
opaque anchorFull (cycle job : Nat) : Bool

/-- Whether a line of another member of a multicast group is unacknowledged (R410; log entry 46). -/
opaque peerLine (cycle job group : Nat) : Bool

end Sys2Proof.Config
end

