-- ==== Sys2Proof/Syntax.lean ====
section
/-!
DEFINITION. The syntax of the Myzaend M6: the operand forms of the instruction encodings (R53–R55, R67, R68) and
the one inductive `Instr`, with a constructor for every row of the opcode table. Rows 0–222 are encoded instructions;
the later rows are the steps of the part's own units, of the host and of the fabric, which have no encoding and
carry what the outside supplies.
-/
namespace Sys2Proof

/-- The compatibility-guard descriptor of parcel 2 under xsel = 1 (R67, Table 3.10). -/
structure CompatGuard where
  bit  : BitVec 6
  reg  : BitVec 8
  /-- file: false an s register, true a v register. -/
  vec  : Bool
  neg  : Bool
  deriving DecidableEq, Repr

/-- What follows the first two parcels (R55): nothing in the 64-bit form; a literal or a compatibility guard in the
96-bit form. -/
inductive Ext where
  | none
  | lit (value : W32)
  | compat (g : CompatGuard)
  deriving DecidableEq, Repr

/-- The fields of a 64- or 96-bit instruction (R54, Table 3.3), the opcode left out. -/
structure Form where
  guard : BitVec 4
  gneg  : Bool
  d     : BitVec 8
  a     : BitVec 8
  b     : BitVec 8
  c     : BitVec 8
  /-- Modifiers, bits 62:49 (R56); bit 0 here is bit 49. -/
  mod   : BitVec 14
  ext   : Ext
  deriving DecidableEq, Repr

/-- The fields of a 32-bit short form (R53, Table 3.2). -/
structure Short where
  d : BitVec 8
  a : BitVec 8
  b : BitVec 6
  deriving DecidableEq, Repr

/-- A clause header (R68, Table 3.11). -/
structure Clause where
  len  : BitVec 6
  set2 : BitVec 4
  set1 : BitVec 4
  wait : BitVec 12
  deriving DecidableEq, Repr

/-- The atomic operations of Table 11.3 and R197. -/
inductive AtomOp where
  | add | min | max | and | or | xor | xchg | cas | inc
  deriving DecidableEq, Repr

/-- The element types of Table 3.5 (R57). -/
inductive ElemType where
  | f32 | f16 | bf16 | e4m3 | e5m2 | q4
  | i8 | i16 | i32 | i64 | n8 | n16 | n32 | n64 | b32 | b64 | ax48
  deriving DecidableEq, Repr, Inhabited

/-- A deque step (R321). -/
inductive DeqOp where
  | push (tile : W32) | reset | pop | claim | run (slot : Nat) | done (slot : Nat)
  deriving DecidableEq, Repr

/-- What a package asks of another package's memory (R402, R405). -/
inductive PeerOp where
  | load (bytes : Nat)
  | store (cells : List (Nat × Byte))
  | atomic (op : AtomOp) (t : ElemType) (x y : W64)
  | sems (count : W64)
  | semw (count : W64)
  | deque (op : DeqOp)
  /-- A line of an `mcast.st` for this package's member (R411). -/
  | mcast (group off : Nat) (cells : List (Nat × Byte))
  /-- The actions of `mgrp` by another package, as the group's entry receives them (R410). -/
  | groupDef (group lines : Nat) (members : List Nat)
  | groupBind (group : Nat) (bound : Bool)
  | groupFree (group : Nat)
  /-- A request of a kind that carries no operation of the package (R392). -/
  | foreign (kind : Nat)
  deriving DecidableEq, Repr

/-- A request that arrives from another package (R402): its sender, the job of the sender's context, the sender's own
number for it, and the device physical address it names here. -/
structure PeerReq where
  sender : Nat
  job    : Option Nat
  id     : Nat
  pa     : Nat
  op     : PeerOp
  deriving DecidableEq, Repr

/-- The answer to a request of this package (R405): the value read, a refusal (R402), the loss of every route (R415),
or bad data. -/
inductive PeerAnswer where
  | value (v : W64)
  | done
  | refused
  | lost
  /-- The error response to a request of another kind (R392). -/
  | error
  /-- Uncorrectable data at an address there, for the consumer (R111, R430). -/
  | bad (pa : Nat)
  deriving DecidableEq, Repr

/-- A response to this package's request `id`. -/
structure PeerResp where
  sender : Nat
  id     : Nat
  answer : PeerAnswer
  deriving DecidableEq, Repr

/-- The operation of an `allred` (R412). -/
inductive AllredOp where
  | add | min | max
  deriving DecidableEq, Repr

/-- A member's contribution to a collective, as the switch receives it (R413). -/
structure Contribution where
  job    : Nat
  group  : Nat
  member : Nat
  op     : AllredOp
  t      : ElemType
  elems  : List W64
  deriving DecidableEq, Repr

/-- The states of the host link (R399). -/
inductive HostLink where
  | down | training | up
  deriving DecidableEq, Repr

/-- The memory arrays of `dv.errlog.source` (R430). -/
inductive MemArray where
  | hbm | l2 | scratchpad | accumulator | registerFile | fabric
  deriving DecidableEq, Repr

/-- A host access through the CXL.mem window (R250): a load, or a store of bytes. -/
inductive HostOp where
  | load (pa bytes : Nat)
  | store (cells : List (Nat × Byte))
  deriving DecidableEq, Repr


/-- The instructions and the indivisible steps of the part: one constructor per row of the opcode table, in its order.
The rule that gives each its meaning stands beside it. -/
inductive Instr where
  /-- ADD (R172). -/
  | add (f : Form)
  /-- SUB (R172). -/
  | sub (f : Form)
  /-- MUL (R172). -/
  | mul (f : Form)
  /-- MULH (R172). -/
  | mulh (f : Form)
  /-- DIV (R172). -/
  | div (f : Form)
  /-- REM (R172). -/
  | rem (f : Form)
  /-- AND (R172). -/
  | bitAnd (f : Form)
  /-- OR (R172). -/
  | bitOr (f : Form)
  /-- XOR (R172). -/
  | xor (f : Form)
  /-- ANDN (R172). -/
  | andn (f : Form)
  /-- SHL (R172). -/
  | shl (f : Form)
  /-- SHR (R172). -/
  | shr (f : Form)
  /-- SAR (R172). -/
  | sar (f : Form)
  /-- MIN (R172). -/
  | min (f : Form)
  /-- MAX (R172). -/
  | max (f : Form)
  /-- SEL (R177). -/
  | sel (f : Form)
  /-- CMP (R178). -/
  | cmp (f : Form)
  /-- LEA (R174). -/
  | lea (f : Form)
  /-- MOV (R173). -/
  | mov (f : Form)
  /-- LDI (R173). -/
  | ldi (f : Form)
  /-- LDI_HI (R173). -/
  | ldiHi (f : Form)
  /-- POPC (R175). -/
  | popc (f : Form)
  /-- CLZ (R175). -/
  | clz (f : Form)
  /-- BFX (R176). -/
  | bfx (f : Form)
  /-- BFI (R176). -/
  | bfi (f : Form)
  /-- BR (R179). -/
  | br (f : Form)
  /-- BC (R180). -/
  | bc (f : Form)
  /-- BRV (R181). -/
  | brv (f : Form)
  /-- CALL (R179). -/
  | call (f : Form)
  /-- RET (R179). -/
  | ret (f : Form)
  /-- JR (R179). -/
  | jr (f : Form)
  /-- LOOP (R179). -/
  | loopTo (f : Form)
  /-- CLAUSE_HEADER (R69). -/
  | clauseHeader (f : Clause)
  /-- VRUN (R183). -/
  | vrun (f : Form)
  /-- MPUSH (R184). -/
  | mpush (f : Form)
  /-- MELSE (R184). -/
  | melse (f : Form)
  /-- MPOP (R184). -/
  | mpop (f : Form)
  /-- VANY (R185). -/
  | vany (f : Form)
  /-- VALL (R185). -/
  | vall (f : Form)
  /-- BQRD (R186). -/
  | bqrd (f : Form)
  /-- LSER (R187). -/
  | lser (f : Form)
  /-- LSEND (R187). -/
  | lsend (f : Form)
  /-- CREW (R190). -/
  | crew (f : Form)
  /-- GNODE (R192). -/
  | gnode (f : Form)
  /-- GRUN (R193). -/
  | grun (f : Form)
  /-- SEMW (R196). -/
  | semw (f : Form)
  /-- SEMS (R196). -/
  | sems (f : Form)
  /-- SLD (R197). -/
  | sld (f : Form)
  /-- SST (R197). -/
  | sst (f : Form)
  /-- SATOM_ADD (R197). -/
  | satomAdd (f : Form)
  /-- SATOM_MIN (R197). -/
  | satomMin (f : Form)
  /-- SATOM_MAX (R197). -/
  | satomMax (f : Form)
  /-- SATOM_AND (R197). -/
  | satomAnd (f : Form)
  /-- SATOM_OR (R197). -/
  | satomOr (f : Form)
  /-- SATOM_XOR (R197). -/
  | satomXor (f : Form)
  /-- SATOM_XCHG (R197). -/
  | satomXchg (f : Form)
  /-- SATOM_CAS (R197). -/
  | satomCas (f : Form)
  /-- SATOM_INC (R197). -/
  | satomInc (f : Form)
  /-- FENCE_CTRL (R272). -/
  | fenceCtrl (f : Form)
  /-- TRAP (R199). -/
  | trapTo (f : Form)
  /-- ERET (R107). -/
  | eret (f : Form)
  /-- CSRR (R199). -/
  | csrr (f : Form)
  /-- CSRW (R199). -/
  | csrw (f : Form)
  /-- ACQ (R159). -/
  | acq (f : Form)
  /-- YIELD (R108). -/
  | yield (f : Form)
  /-- EXIT (R168). -/
  | exitWave (f : Form)
  /-- NOP (R199). -/
  | nop (f : Form)
  /-- CLK (R199). -/
  | clk (f : Form)
  /-- TICK (R199). -/
  | tick (f : Form)
  /-- LDW (R292). -/
  | ldw (f : Form)
  /-- MMA (R293). -/
  | mma (f : Form)
  /-- MMA_SP (R294). -/
  | mmaSp (f : Form)
  /-- MMA_SR (R295). -/
  | mmaSr (f : Form)
  /-- SCAC (R296). -/
  | scac (f : Form)
  /-- ZCLR (R297). -/
  | zclr (f : Form)
  /-- ZCLR_PIN (R297). -/
  | zclrPin (f : Form)
  /-- ZCLR_UNPIN (R297). -/
  | zclrUnpin (f : Form)
  /-- ZDRAIN (R298). -/
  | zdrain (f : Form)
  /-- BAR_WG (R308). -/
  | barWg (f : Form)
  /-- BAR_M (R309). -/
  | barM (f : Form)
  /-- BAR_GANG (R308). -/
  | barGang (f : Form)
  /-- BAR_DEV (R311). -/
  | barDev (f : Form)
  /-- FBAR (R313). -/
  | fbar (f : Form)
  /-- CHAN_PUSH (R318). -/
  | chanPush (f : Form)
  /-- CHAN_POP (R318). -/
  | chanPop (f : Form)
  /-- DEQ_PUSH (R321). -/
  | deqPush (f : Form)
  /-- DEQ_PUSH_RESET (R321). -/
  | deqPushReset (f : Form)
  /-- DEQ_POP (R321). -/
  | deqPop (f : Form)
  /-- DEQ_STEAL_CLAIM (R321). -/
  | deqStealClaim (f : Form)
  /-- DEQ_STEAL_RUN (R321). -/
  | deqStealRun (f : Form)
  /-- DEQ_STEAL_DONE (R321). -/
  | deqStealDone (f : Form)
  /-- EVICT (R343). -/
  | evict (f : Form)
  /-- PGQ (R345). -/
  | pgq (f : Form)
  /-- TSPAN (R364). -/
  | tspan (f : Form)
  /-- TSPAN_REFILL (R351). -/
  | tspanRefill (f : Form)
  /-- TSPEND (R364). -/
  | tspend (f : Form)
  /-- TSTAT (R365). -/
  | tstat (f : Form)
  /-- RAST (R376). -/
  | rast (f : Form)
  /-- ALLRED (R412). -/
  | allred (f : Form)
  /-- MGRP_DEF (R409). -/
  | mgrpDef (f : Form)
  /-- MGRP_BIND (R409). -/
  | mgrpBind (f : Form)
  /-- MGRP_REVOKE (R409). -/
  | mgrpRevoke (f : Form)
  /-- MGRP_FREE (R409). -/
  | mgrpFree (f : Form)
  /-- FADD (R207). -/
  | fadd (f : Form)
  /-- FSUB (R207). -/
  | fsub (f : Form)
  /-- FMUL (R207). -/
  | fmul (f : Form)
  /-- FMA (R207). -/
  | fma (f : Form)
  /-- FMIN (R209). -/
  | fmin (f : Form)
  /-- FMAX (R209). -/
  | fmax (f : Form)
  /-- FDIV (R207). -/
  | fdiv (f : Form)
  /-- FRCP (R208). -/
  | frcp (f : Form)
  /-- FRSQ (R208). -/
  | frsq (f : Form)
  /-- FSQRT (R207). -/
  | fsqrt (f : Form)
  /-- EXP2 (R47). -/
  | exp2 (f : Form)
  /-- LOG2 (R208). -/
  | log2 (f : Form)
  /-- SINPI (R208). -/
  | sinpi (f : Form)
  /-- COSPI (R208). -/
  | cospi (f : Form)
  /-- FCLASS (R210). -/
  | fclass (f : Form)
  /-- FCMP (R212). -/
  | fcmp (f : Form)
  /-- FSEL (R211). -/
  | fsel (f : Form)
  /-- IADD (R214). -/
  | iadd (f : Form)
  /-- ISUB (R214). -/
  | isub (f : Form)
  /-- IMUL (R214). -/
  | imul (f : Form)
  /-- IMAD (R214). -/
  | imad (f : Form)
  /-- IMULH (R214). -/
  | imulh (f : Form)
  /-- IABS (R214). -/
  | iabs (f : Form)
  /-- IAND (R214). -/
  | iand (f : Form)
  /-- IOR (R214). -/
  | ior (f : Form)
  /-- IXOR (R214). -/
  | ixor (f : Form)
  /-- ISHL (R214). -/
  | ishl (f : Form)
  /-- ISHR (R214). -/
  | ishr (f : Form)
  /-- ISAR (R214). -/
  | isar (f : Form)
  /-- IMIN (R214). -/
  | imin (f : Form)
  /-- IMAX (R214). -/
  | imax (f : Form)
  /-- ICMP (R212). -/
  | icmp (f : Form)
  /-- IPOPC (R214). -/
  | ipopc (f : Form)
  /-- ICLZ (R214). -/
  | iclz (f : Form)
  /-- IBFX (R215). -/
  | ibfx (f : Form)
  /-- IBFI (R215). -/
  | ibfi (f : Form)
  /-- CVT (R216). -/
  | cvt (f : Form)
  /-- PACK (R217). -/
  | pack (f : Form)
  /-- UNPACK (R218). -/
  | unpack (f : Form)
  /-- QNT (R219). -/
  | qnt (f : Form)
  /-- DQNT (R221). -/
  | dqnt (f : Form)
  /-- MOV_V (R223). -/
  | movV (f : Form)
  /-- MOVK (R223). -/
  | movk (f : Form)
  /-- LANE (R224). -/
  | laneRank (f : Form)
  /-- PERM (R224). -/
  | perm (f : Form)
  /-- BCAST (R224). -/
  | bcast (f : Form)
  /-- COMPRESS (R224). -/
  | compress (f : Form)
  /-- EXPAND (R224). -/
  | expand (f : Form)
  /-- SLIDEUP (R224). -/
  | slideup (f : Form)
  /-- SLIDEDN (R224). -/
  | slidedn (f : Form)
  /-- MATCH (R225). -/
  | matchLanes (f : Form)
  /-- BALLOT (R226). -/
  | ballot (f : Form)
  /-- RED (R228). -/
  | redLanes (f : Form)
  /-- SCAN (R228). -/
  | scanLanes (f : Form)
  /-- PAND (R213). -/
  | pand (f : Form)
  /-- POR (R213). -/
  | por (f : Form)
  /-- PXOR (R213). -/
  | pxor (f : Form)
  /-- PNOT (R213). -/
  | pnot (f : Form)
  /-- ADAMW (R230). -/
  | adamw (f : Form)
  /-- LD_G (R258). -/
  | ldG (f : Form)
  /-- LD_L (R258). -/
  | ldL (f : Form)
  /-- ST_G (R258). -/
  | stG (f : Form)
  /-- ST_L (R258). -/
  | stL (f : Form)
  /-- LDG (R261). -/
  | ldg (f : Form)
  /-- STG (R262). -/
  | stg (f : Form)
  /-- RED_O (R267). -/
  | redO (f : Form)
  /-- MCAST_ST (R270). -/
  | mcastSt (f : Form)
  /-- FENCE_VEC (R272). -/
  | fenceVec (f : Form)
  /-- PREF (R273). -/
  | pref (f : Form)
  /-- ATOM_ADD (R266). -/
  | atomAdd (f : Form)
  /-- ATOM_MIN (R266). -/
  | atomMin (f : Form)
  /-- ATOM_MAX (R266). -/
  | atomMax (f : Form)
  /-- ATOM_AND (R266). -/
  | atomAnd (f : Form)
  /-- ATOM_OR (R266). -/
  | atomOr (f : Form)
  /-- ATOM_XOR (R266). -/
  | atomXor (f : Form)
  /-- ATOM_XCHG (R266). -/
  | atomXchg (f : Form)
  /-- ATOM_CAS (R266). -/
  | atomCas (f : Form)
  /-- ATOM_INC (R266). -/
  | atomInc (f : Form)
  /-- ZCOPY (R300). -/
  | zcopy (f : Form)
  /-- ATTN_STEP (R341). -/
  | attnStep (f : Form)
  /-- ATTN_MASS (R342). -/
  | attnMass (f : Form)
  /-- TREC (R361). -/
  | trec (f : Form)
  /-- TPOP (R362). -/
  | tpop (f : Form)
  /-- TCKPT (R363). -/
  | tckpt (f : Form)
  /-- TCKPT_GET (R363). -/
  | tckptGet (f : Form)
  /-- TEX (R381). -/
  | tex (f : Form)
  /-- TEXADJ (R387). -/
  | texadj (f : Form)
  /-- TRAV (R384). -/
  | trav (f : Form)
  /-- ISECT (R385). -/
  | isect (f : Form)
  /-- ISECTADJ (R388). -/
  | isectadj (f : Form)
  /-- BARY (R377). -/
  | bary (f : Form)
  /-- BARYADJ (R386). -/
  | baryadj (f : Form)
  /-- ESMP (R389). -/
  | esmp (f : Form)
  /-- ADD_I64_SHORT (R76). -/
  | addI64Short (f : Short)
  /-- SUB_I64_SHORT (R76). -/
  | subI64Short (f : Short)
  /-- AND_B64_SHORT (R76). -/
  | andB64Short (f : Short)
  /-- OR_B64_SHORT (R76). -/
  | orB64Short (f : Short)
  /-- XOR_B64_SHORT (R76). -/
  | xorB64Short (f : Short)
  /-- SHL_B64_SHORT (R76). -/
  | shlB64Short (f : Short)
  /-- SHR_B64_SHORT (R76). -/
  | shrB64Short (f : Short)
  /-- SAR_I64_SHORT (R76). -/
  | sarI64Short (f : Short)
  /-- MOV_B64_SHORT (R76). -/
  | movB64Short (f : Short)
  /-- MIN_I64_SHORT (R76). -/
  | minI64Short (f : Short)
  /-- MAX_I64_SHORT (R76). -/
  | maxI64Short (f : Short)
  /-- NOP_SHORT (R76). -/
  | nopShort
  /-- FADD_F32_SHORT (R76). -/
  | faddF32Short (f : Short)
  /-- FSUB_F32_SHORT (R76). -/
  | fsubF32Short (f : Short)
  /-- FMUL_F32_SHORT (R76). -/
  | fmulF32Short (f : Short)
  /-- FMIN_F32_SHORT (R76). -/
  | fminF32Short (f : Short)
  /-- FMAX_F32_SHORT (R76). -/
  | fmaxF32Short (f : Short)
  /-- IADD_I32_SHORT (R76). -/
  | iaddI32Short (f : Short)
  /-- ISUB_I32_SHORT (R76). -/
  | isubI32Short (f : Short)
  /-- IMUL_I32_SHORT (R76). -/
  | imulI32Short (f : Short)
  /-- IAND_B32_SHORT (R76). -/
  | iandB32Short (f : Short)
  /-- IOR_B32_SHORT (R76). -/
  | iorB32Short (f : Short)
  /-- IXOR_B32_SHORT (R76). -/
  | ixorB32Short (f : Short)
  /-- ISHL_B32_SHORT (R76). -/
  | ishlB32Short (f : Short)
  /-- ISHR_B32_SHORT (R76). -/
  | ishrB32Short (f : Short)
  /-- ISAR_I32_SHORT (R76). -/
  | isarI32Short (f : Short)
  /-- MOV_B32_SHORT (R76). -/
  | movB32Short (f : Short)
  /-- VRUN_TOKEN (R183). -/
  | vrunToken
  /-- MASK_TOKEN (R164). -/
  | maskToken
  /-- REQUEST_TOKEN (R188). -/
  | requestToken
  /-- BACK_QUEUE_ANSWER (R185). -/
  | backQueueAnswer
  /-- OPERATION_COMPLETE (R69). -/
  | operationComplete (id : Nat)
  /-- LDG_ELEMENT_ARRIVAL (R260). -/
  | ldgElementArrival (id lane : Nat)
  /-- ORDERED_ADD_ARRIVAL (R359). -/
  | orderedAddArrival (id : Nat)
  /-- CREATE (R89). -/
  | create (ctx : Nat) (arg : BitVec 52)
  /-- SUSPEND (R100). -/
  | suspend (ctx : Nat)
  /-- SUSPEND_RELEASE (R98). -/
  | suspendRelease (ctx : Nat)
  /-- RESUME (R89). -/
  | resume (ctx : Nat) (arg : BitVec 52)
  /-- RELEASE (R89). -/
  | releaseCtx (ctx : Nat)
  /-- DESTROY (R89). -/
  | destroy (ctx : Nat)
  /-- FROZEN_OR_SAVED (R89). -/
  | frozenOrSaved (ctx : Nat)
  /-- RESTORE_COMPLETE (R103). -/
  | restoreComplete (ctx : Nat) (badBlock : Option (BitVec 64))
  /-- QUIESCED (R89). -/
  | quiesced (ctx : Nat)
  /-- OVERRUN_STOP (R102). -/
  | overrunStop (gang wg : Nat)
  /-- HANG (R316). -/
  | hang (ctx wave : Nat)
  /-- MATRIX_RESET (R302). -/
  | matrixReset (core : Nat) (pc : BitVec 64)
  /-- QUEUE_ENABLE (R122). -/
  | queueEnable (ctx q : Nat) (prio : BitVec 3)
  /-- QUEUE_DISABLE (R122). -/
  | queueDisable (ctx q : Nat) (prio : BitVec 3)
  /-- ERRPEND_CLEAR (R122). -/
  | errpendClear (ctx q : Nat)
  /-- TAIL_ADVANCE (R125). -/
  | tailAdvance (ctx q : Nat)
  /-- LAUNCH (R129). -/
  | launchPkt (ctx q : Nat)
  /-- GRAPH (R129). -/
  | graphPkt (ctx q : Nat)
  /-- SIGNAL (R130). -/
  | signalPkt (ctx q : Nat)
  /-- WAIT (R130). -/
  | waitPkt (ctx q : Nat)
  /-- CONDITION_HOLDS (R122). -/
  | conditionHolds (ctx q : Nat)
  /-- WAIT_TIMEOUT (R130). -/
  | waitTimeout (ctx q : Nat)
  /-- FENCE (R130). -/
  | fencePkt (ctx q : Nat)
  /-- FENCE_COMPLETE (R130). -/
  | fenceComplete (ctx q : Nat)
  /-- LEVEL (R131). -/
  | levelPkt (ctx q : Nat)
  /-- LEVEL_COMPLETE (R131). -/
  | levelComplete (ctx : Nat)
  /-- PLACE (R153). -/
  | placeGang (kernel core split : Nat)
  /-- GRANT (R159). -/
  | grantGang (gang : Nat)
  /-- DRAINED (R155). -/
  | drainedGang (gang : Nat)
  /-- COMMIT_COMPLETE (R136). -/
  | commitComplete (kernel : Nat)
  /-- COPY (R193). -/
  | copyNode (graph node : Nat)
  /-- LAUNCH_NODE (R194). -/
  | launchNode (graph node : Nat)
  /-- SIGNAL_NODE (R193). -/
  | signalNode (graph node : Nat)
  /-- NOP_NODE (R193). -/
  | nopNode (graph node : Nat)
  /-- GRAPH_NODE_COMPLETE (R193). -/
  | graphNodeComplete (graph node : Nat)
  /-- BARRIER_TIMEOUT (R315). -/
  | barrierTimeout (wave : Nat)
  /-- FBAR_ARRIVAL (R313). -/
  | fbarArrival (job id member : Nat) (time : BitVec 64)
  /-- FBAR_RELEASE (R313). -/
  | fbarRelease (job id : Nat)
  /-- LEASE_EXPIRY (R321). -/
  | leaseExpiry (header slot : Nat)
  /-- INGRESS_LEASE_EXPIRY (R249). -/
  | ingressLeaseExpiry (line : Nat)
  /-- WCB_ENTRY_DRAIN (R248). -/
  | wcbEntryDrain (core entry : Nat)
  /-- PEER_REQUEST (R402). -/
  | peerRequest (req : PeerReq)
  /-- PEER_RESPONSE (R405). -/
  | peerResponse (resp : PeerResp)
  /-- MCAST_REPLICATE (R411). -/
  | mcastReplicate (id : Nat)
  /-- MCAST_ACK (R270). -/
  | mcastAck (id : Nat)
  /-- ALLRED_CONTRIBUTION (R413). -/
  | allredContribution (con : Contribution)
  /-- ALLRED_RESULT (R413). -/
  | allredResult (job group k : Nat)
  /-- TICK_BOUNDARY (R405). -/
  | tickBoundary
  /-- TICK_CLOSE (R406). -/
  | tickClose (pkg tick : Nat)
  /-- TIMING_MESSAGE (R404). -/
  | timingMessage (aligned : Bool)
  /-- EPOCH_ADVANCE (R333). -/
  | epochAdvance
  /-- COOLING_END (R334). -/
  | coolingEnd (ctx frame : Nat)
  /-- INV (R331). -/
  | inv (ctx : Nat)
  /-- INVALL (R331). -/
  | invall (ctx : Nat)
  /-- INV_COMPLETE (R331). -/
  | invComplete (ctx : Nat)
  /-- MIGRATE (R335). -/
  | migrate (ctx : Nat)
  /-- MIGRATE_COMPLETE (R335). -/
  | migrateComplete (ctx : Nat)
  /-- PORT_ENABLE (R396). -/
  | portEnable (port : Nat)
  /-- PORT_DISABLE (R396). -/
  | portDisable (port : Nat)
  /-- TRAINING_SUCCEEDS (R396). -/
  | trainingSucceeds (port : Nat) (width : BitVec 2) (peer : BitVec 10)
  /-- TRAINING_FAILS (R396). -/
  | trainingFails (port : Nat)
  /-- LANE_FAILS (R396). -/
  | laneFails (port : Nat) (width : BitVec 2)
  /-- LANE_RECOVERY (R396). -/
  | laneRecovery (port : Nat)
  /-- LOSS (R396). -/
  | loss (port : Nat)
  /-- RETRAIN (R396). -/
  | retrain (port : Nat)
  /-- HOST_LINK_STATE_CHANGE (R399). -/
  | hostLinkStateChange (st : HostLink)
  /-- LINK_DOWN (R415). -/
  | linkDown (pkg tick : Nat)
  /-- MIRROR_RELOAD (R417). -/
  | mirrorReload (ctx : Nat) (cells : List (Nat × BitVec 8))
  /-- BIND (R400). -/
  | bind (ctx : Nat) (value : BitVec 64)
  /-- UNBIND (R400). -/
  | unbind (ctx : Nat)
  /-- LK_PKGID_WRITE (R394). -/
  | lkPkgidWrite (value : BitVec 64)
  /-- REGISTER_WRITE (R8). -/
  | registerWrite (off n : Nat) (value : BitVec 64)
  /-- DEVICE_RESET (R421). -/
  | deviceReset
  /-- READY_BIT_SET (R421). -/
  | readyBitSet (bit : Nat)
  /-- READ64 (R423). -/
  | read64 (region off : Nat)
  /-- WRITE64 (R423). -/
  | write64 (region off : Nat) (value : BitVec 64)
  /-- LOG (R423). -/
  | logReq
  /-- ATTEST (R425). -/
  | attest (nonce : BitVec 256)
  /-- POWER (R423). -/
  | power (cap : Nat)
  /-- MCTP_CONTROL (R423). -/
  | mctpControl (msg : List (BitVec 8))
  /-- JUNCTION_LIMIT (R427). -/
  | junctionLimit
  /-- THERMAL_RESUME (R427). -/
  | thermalResume
  /-- COOLANT_INLET (R426). -/
  | coolantInlet (celsius : Nat)
  /-- SCRUB (R430). -/
  | scrub (src : MemArray) (granule : Nat)
  /-- CXL_MEM_ACCESS (R250). -/
  | cxlMemAccess (op : HostOp)
  /-- CXL_CACHE_SNOOP (R232). -/
  | cxlCacheSnoop (line : Nat)
  /-- SOFT_ERROR (R430). -/
  | softError (src : MemArray) (granule : Nat) (correctable : Bool)
  /-- STANDBY_POWER_LOSS (R420). -/
  | standbyPowerLoss
  /-- LINK_LEVEL_REPLAY (R396). -/
  | linkLevelReplay (port : Nat) (delivered : Bool)
  /-- ISSUE_GATING (R427). -/
  | issueGating (held : Bool)
  deriving DecidableEq, Repr

end Sys2Proof
end

