-- ==== Sys2Proof/Machine/Fields.lean ====
section
/-!
DEFINITION. The fields of an instruction read by name: element types (R57), modifier classes (R56), conditions and
combining types (R59, R66), scopes and orders (R58), rounding modes (R34), and source operands by their kind bit (R61).
-/
namespace Sys2Proof

/-- The code of an element type (Table 3.5). -/
def ElemType.code : ElemType → Nat
  | .f32 => 0 | .f16 => 1 | .bf16 => 2 | .e4m3 => 3 | .e5m2 => 4 | .q4 => 5
  | .i8 => 6 | .i16 => 7 | .i32 => 8 | .i64 => 9 | .n8 => 10 | .n16 => 11
  | .n32 => 12 | .n64 => 13 | .b32 => 14 | .b64 => 15 | .ax48 => 16

/-- The element type of a code; none from 17 on (Table 3.5). -/
def ElemType.ofCode : Nat → Option ElemType
  | 0 => some .f32 | 1 => some .f16 | 2 => some .bf16 | 3 => some .e4m3 | 4 => some .e5m2 | 5 => some .q4
  | 6 => some .i8 | 7 => some .i16 | 8 => some .i32 | 9 => some .i64 | 10 => some .n8 | 11 => some .n16
  | 12 => some .n32 | 13 => some .n64 | 14 => some .b32 | 15 => some .b64 | 16 => some .ax48
  | _ => none

/-- Width of an element in bits (R21, R24, R26, R31). -/
def ElemType.width : ElemType → Nat
  | .f32 => 32 | .f16 => 16 | .bf16 => 16 | .e4m3 => 8 | .e5m2 => 8 | .q4 => 4
  | .i8 => 8 | .i16 => 16 | .i32 => 32 | .i64 => 64 | .n8 => 8 | .n16 => 16
  | .n32 => 32 | .n64 => 64 | .b32 => 32 | .b64 => 64 | .ax48 => 48

/-- Width of an element in bytes of memory. -/
def ElemType.bytes (t : ElemType) : Nat := t.width / 8

/-- Signed integers (R24). -/
def ElemType.signed : ElemType → Bool
  | .i8 | .i16 | .i32 | .i64 => true
  | _ => false

/-- The floating types of R21. -/
def ElemType.isFloat : ElemType → Bool
  | .f32 | .f16 | .bf16 | .e4m3 | .e5m2 => true
  | _ => false

/-- Types that occupy an even/odd register pair (R24). -/
def ElemType.is64 : ElemType → Bool
  | .i64 | .n64 | .b64 => true
  | _ => false

/-- Types whose literal is defined by R62. -/
def ElemType.takesLiteral : ElemType → Bool
  | .q4 | .ax48 => false
  | _ => true

/-- Rounding modes (R34, Table 2.4). -/
inductive Rounding where
  | rne | rz | ru | rd | sr
  deriving DecidableEq, Repr

/-- The rounding mode of a code (Table 2.4). -/
def Rounding.ofCode : Nat → Option Rounding
  | 0 => some .rne | 1 => some .rz | 2 => some .ru | 3 => some .rd | 4 => some .sr
  | _ => none

/-- Compare conditions (R59, Table 3.6). -/
inductive Cond where
  | eq | ne | lt | le | gt | ge | ord | uno
  deriving DecidableEq, Repr

/-- The condition of a code (Table 3.6). -/
def Cond.ofCode : Nat → Option Cond
  | 0 => some .eq | 1 => some .ne | 2 => some .lt | 3 => some .le | 4 => some .gt | 5 => some .ge
  | 6 => some .ord | 7 => some .uno
  | _ => none

/-- The gathering modes of a compare (R66). -/
inductive CMode where
  | set | all | any | odd
  deriving DecidableEq, Repr

/-- A combining type: its mode, and zero-fill (R66). -/
structure CType where
  mode : CMode
  zero : Bool
  deriving DecidableEq, Repr

/-- The combining type of a 3-bit code (Table 3.9). -/
def CType.ofCode (n : Nat) : CType :=
  { mode := match n % 4 with
      | 0 => .set
      | 1 => .all
      | 2 => .any
      | _ => .odd
    zero := n / 4 % 2 == 1 }

/-- Scopes (R58). -/
inductive Scope where
  | wave | core | pair | die | pkg | fab
  deriving DecidableEq, Repr

/-- The scope of a code (R58). -/
def Scope.ofCode : Nat → Option Scope
  | 0 => some .wave | 1 => some .core | 2 => some .pair | 3 => some .die | 4 => some .pkg | 5 => some .fab
  | _ => none

/-- Orders (R58). -/
inductive Order where
  | rlx | acq | rel | ar
  deriving DecidableEq, Repr

/-- The order of a 2-bit code (R58). -/
def Order.ofCode (n : Nat) : Order :=
  match n % 4 with
  | 0 => .rlx
  | 1 => .acq
  | 2 => .rel
  | _ => .ar

/-- Bits `hi..lo` of a bit vector as a number. -/
def bitsOf {w : Nat} (x : BitVec w) (hi lo : Nat) : Nat := (x.toNat >>> lo) % 2 ^ (hi - lo + 1)

/-- One bit as a Bool. -/
def bitOf {w : Nat} (x : BitVec w) (n : Nat) : Bool := x.getLsbD n

/-! ### Modifier subfields (Table 3.4); bit n of an instruction is bit n − 49 of `mod`. -/

/-- The type code, bits 53:49. -/
def Form.typeCode (f : Form) : Nat := bitsOf f.mod 4 0
/-- The element type; f32 where the code is no type (the decoder refuses those). -/
def Form.type (f : Form) : ElemType := (ElemType.ofCode f.typeCode).getD .f32
/-- The rounding code, or the scope, bits 56:54. -/
def Form.low3 (f : Form) : Nat := bitsOf f.mod 7 5
/-- Rounding mode (class A). -/
def Form.rounding (f : Form) : Rounding := (Rounding.ofCode f.low3).getD .rne
/-- `.sat` (class A, bit 57). -/
def Form.sat (f : Form) : Bool := bitOf f.mod 8
/-- Kind of a, class A (bit 58). -/
def Form.kindA (f : Form) : Bool := bitOf f.mod 9
/-- Kind of b, class A (bit 59). -/
def Form.kindB (f : Form) : Bool := bitOf f.mod 10
/-- Kind of c, class A (bit 60). -/
def Form.kindC (f : Form) : Bool := bitOf f.mod 11
/-- Variant, class A (bits 62:61). -/
def Form.variant (f : Form) : Nat := bitsOf f.mod 13 12
/-- Condition code, class C (bits 57:54). -/
def Form.condCode (f : Form) : Nat := bitsOf f.mod 8 5
/-- Combining type, class C (bits 60:58). -/
def Form.ctype (f : Form) : CType := CType.ofCode (bitsOf f.mod 11 9)
/-- Kind of a, class C (bit 61). -/
def Form.ckindA (f : Form) : Bool := bitOf f.mod 12
/-- Kind of b, class C (bit 62). -/
def Form.ckindB (f : Form) : Bool := bitOf f.mod 13
/-- Scope, class M. -/
def Form.scope (f : Form) : Scope := (Scope.ofCode f.low3).getD .pkg
/-- Order code, class M (bits 58:57). -/
def Form.orderCode (f : Form) : Nat := bitsOf f.mod 9 8
/-- Order, class M. -/
def Form.order (f : Form) : Order := Order.ofCode f.orderCode
/-- Whether an access is a release (R58). -/
def Form.releases (f : Form) : Bool := f.order == .rel || f.order == .ar
/-- Whether an access has an order at `.pair` scope or wider, which goes past the L1; and whether it acquires there (R233,
R243). -/
def Form.pastL1 (f : Form) : Bool := f.order != .rlx && f.scope != .wave && f.scope != .core
/-- Whether an access is a release that reaches agents outside the core (Table 10.3). -/
def Form.publishes (f : Form) : Bool := f.releases && f.pastL1
def Form.acquires (f : Form) : Bool := (f.order == .acq || f.order == .ar) && f.pastL1
/-- Index shift, class M (bits 60:59). -/
def Form.scale (f : Form) : Nat := bitsOf f.mod 11 10
/-- Base kind, class M (bit 61). -/
def Form.baseKind (f : Form) : Bool := bitOf f.mod 12
/-- Index present, class M (bit 62). -/
def Form.indexed (f : Form) : Bool := bitOf f.mod 13
/-- The nine opt bits, class X (bits 62:54). -/
def Form.opt (f : Form) : Nat := bitsOf f.mod 13 5
/-- One opt bit. -/
def Form.optBit (f : Form) (n : Nat) : Bool := bitOf f.mod (n + 5)
/-- A subfield of opt. -/
def Form.optBits (f : Form) (hi lo : Nat) : Nat := bitsOf f.mod (hi + 5) (lo + 5)
/-- Condition, class C, and `bc` (opt bits 3:0), which stand at the same bits. -/
def Form.cond (f : Form) : Cond := (Cond.ofCode f.condCode).getD .eq
/-- The literal parcel, when the form has one (R55). -/
def Form.lit? (f : Form) : Option W32 :=
  match f.ext with
  | .lit v => some v
  | _ => none
/-- Number of parcels (R51). -/
def Form.parcels (f : Form) : Nat :=
  match f.ext with
  | .none => 2
  | _ => 3

/-! ### Source operands (R61) -/

/-- A source operand: a register, or a special source of Table 3.8. -/
inductive Src where
  | reg (n : Nat)
  | kconst (n : Nat)
  | lit (v : W32)
  | lane
  | iter
  | imm (v : Int)
  deriving DecidableEq, Repr

/-- The source a field names under its kind bit, in the vector or the control stream; none is an encoding error
(Table 3.8). -/
def Src.of (vec kind : Bool) (field : BitVec 8) (ext : Ext) : Option Src :=
  let n := field.toNat
  if !kind then some (.reg n)
  else if n ≥ 0x80 then some (.imm (if n ≥ 0xC0 then (n : Int) - 0x100 else (n : Int) - 0x80))
  else if n = 0x08 then
    match ext with
    | .lit v => some (.lit v)
    | _ => none
  else if !vec then none
  else if n < 8 then some (.kconst n)
  else if n = 0x10 then some .lane
  else if n = 0x11 then some .iter
  else none

/-- Source a of a class A form. -/
def Form.srcA (f : Form) (vec : Bool) : Src := (Src.of vec f.kindA f.a f.ext).getD (.imm 0)
/-- Source b of a class A form. -/
def Form.srcB (f : Form) (vec : Bool) : Src := (Src.of vec f.kindB f.b f.ext).getD (.imm 0)
/-- Source c of a class A form. -/
def Form.srcC (f : Form) (vec : Bool) : Src := (Src.of vec f.kindC f.c f.ext).getD (.imm 0)
/-- Source a of a class C form. -/
def Form.csrcA (f : Form) (vec : Bool) : Src := (Src.of vec f.ckindA f.a f.ext).getD (.imm 0)
/-- Source b of a class C form. -/
def Form.csrcB (f : Form) (vec : Bool) : Src := (Src.of vec f.ckindB f.b f.ext).getD (.imm 0)

end Sys2Proof
end

