-- ==== Sys2Proof/Machine/Rows.lean ====
section
/-!
DEFINITION. The encoding rows of the 64- and 96-bit forms, as the manual's opcode maps and encoding tables give them
(Tables 3.12, 3.13, 8.1–8.3, 9.1–9.5, 11.1, 11.2, 12.3, 13.1, 15.4, 16.2): opcode, stream, modifier class, types and the
role of each field; and the check of a form against its row (R10, R56–R67, R76, R77).
-/
namespace Sys2Proof

/-- What a field may hold (R60, R61): zero; a number in a range; an s register; a typed source under its kind bit; a
source read as 32 bits whatever the type; a vector register, even under a 64-bit type, always even, or bounded; a
predicate; a pair of predicates (R66); or what the row's own condition says. -/
inductive Role where
  | zero | any | num (lo hi : Nat) | s | src | src32 | v | vT | vEven | vMax (n : Nat) | p | predPair
  deriving DecidableEq, Repr

/-- A modifier class with what it allows: A variants, number of rounding codes, `.sat`; C number of conditions; M orders
and scopes; X the opt bits that may be set. -/
inductive Cls where
  | A (variants : List Nat) (roundings : Nat) (sat : Bool)
  | C (conds : Nat)
  | M (orders scopes : List Nat)
  | X (opts : Nat)
  deriving DecidableEq, Repr

/-- One row of the opcode maps. -/
structure Row where
  op    : Nat
  vec   : Bool
  cls   : Cls
  types : List ElemType
  d     : Role
  a     : Role
  b     : Role
  c     : Role
  extra : Form → Bool

/-- A literal fits a type: 8- and 16-bit types leave its high bits zero (R62). -/
def litFits (t : ElemType) (v : W32) : Bool :=
  t.takesLiteral && (decide (32 ≤ t.width) || decide (v.toNat < 2 ^ t.width))

/-- A source operand as R61 and R62 allow it under a type. -/
def srcOk (vec kind : Bool) (t : ElemType) (x : BitVec 8) (ext : Ext) : Bool :=
  match Src.of vec kind x ext with
  | some (.reg n) => if vec then !t.is64 || decide (n % 2 = 0) else decide (n < 64)
  | some (.lit v) => litFits t v
  | some _ => true
  | none => false

/-- A field against its role. -/
def Role.ok (r : Role) (vec kind : Bool) (t : ElemType) (x : BitVec 8) (ext : Ext) : Bool :=
  match r with
  | .any => true
  | .src => srcOk vec kind t x ext
  | .src32 => srcOk vec kind .b32 x ext
  | .zero => !kind && x == 0
  | .num lo hi => !kind && decide (lo ≤ x.toNat) && decide (x.toNat ≤ hi)
  | .s => !kind && decide (x.toNat < 64)
  | .v => !kind
  | .vT => !kind && (!t.is64 || decide (x.toNat % 2 = 0))
  | .vEven => !kind && decide (x.toNat % 2 = 0)
  | .vMax n => !kind && decide (x.toNat ≤ n)
  | .p => !kind && decide (x.toNat < 16)
  | .predPair =>
    let P := x.toNat % 16
    let Q := x.toNat / 16
    (vec || (decide (P < 8) && decide (Q < 8))) && (decide (P ≠ Q) || decide (P = 0))

/-- The type subfield (R57): a listed type; where at most one is listed, code 0 as well. -/
def typeOk (types : List ElemType) (code : Nat) : Bool :=
  match types with
  | [] => decide (code = 0)
  | [t] => decide (code = t.code) || decide (code = 0)
  | ts => ts.any fun t => decide (code = t.code)

/-- The modifiers outside type and kinds against their class. -/
def Cls.ok (c : Cls) (f : Form) : Bool :=
  match c with
  | .A variants roundings sat =>
    variants.contains f.variant && decide (f.low3 < roundings) && (sat || !f.sat)
  | .C conds => decide (f.condCode < conds)
  | .M orders scopes => orders.contains f.orderCode && scopes.contains f.low3
  | .X opts => decide (f.opt &&& opts = f.opt)

/-- The kind bit a class gives a field: a, b and c under A; a and b under C. -/
def Cls.kind (c : Cls) (f : Form) (field : Nat) : Bool :=
  match c, field with
  | .A .., 0 => f.kindA
  | .A .., 1 => f.kindB
  | .A .., 2 => f.kindC
  | .C _, 0 => f.ckindA
  | .C _, 1 => f.ckindB
  | _, _ => false

/-- Guard and compatibility guard (R55, R65, R67). -/
def guardOk (vec : Bool) (f : Form) : Bool :=
  (vec || decide (f.guard.toNat < 8)) && !(f.guard == 0 && f.gneg) &&
  match f.ext with
  | .compat g => f.guard == 0 && !f.gneg && (g.vec == vec) &&
      (if vec then decide (g.bit.toNat < 32) else decide (g.reg.toNat < 64))
  | _ => true

/-- The whole check of a form against its row (R77). DESIGN CHOICE (log entry 68): the literal parcel of a 96-bit form (R55)
that no operand of the instruction names may hold any value, and is no encoding error. -/
def Row.ok (r : Row) (f : Form) : Bool :=
  guardOk r.vec f && typeOk r.types f.typeCode && r.cls.ok f &&
  r.d.ok r.vec false f.type f.d f.ext && r.a.ok r.vec (r.cls.kind f 0) f.type f.a f.ext &&
  r.b.ok r.vec (r.cls.kind f 1) f.type f.b f.ext && r.c.ok r.vec (r.cls.kind f 2) f.type f.c f.ext && r.extra f

/-! ### Conditions of single rows -/

/-- A code-address instruction: 96-bit form with a literal whose bits 1:0 are zero (R64). -/
def codeAddress (f : Form) : Bool :=
  match f.lit? with
  | some v => decide (v.toNat % 4 = 0)
  | none => false

/-- Scalar memory fields (R63, R197): base kind 0; with an index an s register and a scale; without one, b is 0 or the
local-space bit and the scale is 0. -/
def scalarMem (f : Form) : Bool :=
  !f.baseKind && if f.indexed then decide (f.b.toNat < 64)
    else (f.b == 0 || f.b == 0x80) && decide (f.scale = 0)

/-- c is free for the displacement only where no literal gives it (R63). -/
def dispOk (f : Form) : Bool := f.lit?.isNone || f.c == 0

/-- The base of a vector memory instruction (R254): k0–k7; or a v register, even in global space. -/
def vbaseOk (f : Form) (loc : Bool) : Bool :=
  if f.baseKind then decide (f.a.toNat < 8) else loc || decide (f.a.toNat % 2 = 0)

/-- Index, displacement and base of `ld`, `st`, `ldg`, `stg`, `red.o` and `pref` (R254). -/
def vecMem (f : Form) (loc : Bool) : Bool :=
  vbaseOk f loc && dispOk f && (f.indexed || (f.b == 0 && decide (f.scale = 0)))

/-- `atom`: no index; b is 0 or the local-space bit (R254). -/
def atomOk (f : Form) : Bool :=
  !f.indexed && decide (f.scale = 0) && (f.b == 0 || f.b == 0x80) && vbaseOk f (f.b == 0x80)

/-- `mcast.st`: no index; the acknowledgement pair does not overlap the data (R254, R269). -/
def mcastOk (f : Form) : Bool :=
  !f.indexed && decide (f.scale = 0) && vbaseOk f false &&
  (if f.type.is64 then f.b != f.d else f.b.toNat / 2 != f.d.toNat / 2)

/-- `fence` uses order and scope alone (R272). -/
def fenceBits (f : Form) : Bool := !f.indexed && !f.baseKind && decide (f.scale = 0)

/-- The state-register number of `csrr` and `csrw` (R60). -/
def Form.csr (f : Form) : Nat := f.a.toNat + 256 * f.b.toNat

/-- `csrr` and `csrw` name only the numbers of Table 4.6 (R112, R200). -/
def csrNumber (f : Form) : Bool :=
  [0x01, 0x02, 0x03, 0x04, 0x08, 0x09, 0x10, 0x11, 0x12, 0x14, 0x15, 0x16, 0x17].contains f.csr

/-- Layouts (R288): layout 3 is none; q4 needs one; only e4m3, e5m2 and q4 take one. -/
def layoutOk (f : Form) : Bool :=
  let lay := f.optBits 2 1
  decide (lay ≠ 3) && (f.type != .q4 || decide (lay ≠ 0)) &&
  (decide (lay = 0) || [ElemType.e4m3, .e5m2, .q4].contains f.type)

/-- `mma` and `mma.sp` (R288): tr excludes frag; c serves only q4 fragments; a is a reference 0–62 in memory form. -/
def mmaOk (f : Form) : Bool :=
  !(f.optBit 0 && f.optBit 3) && (f.c == 0 || (f.optBit 3 && f.type == .q4)) &&
  (f.optBit 3 || decide (f.a.toNat ≤ 62))

/-- `mma.sr` (R288): semiring 3 is none; `orand` takes b32 and the others do not. -/
def mmaSrOk (f : Form) : Bool :=
  decide (f.optBits 8 7 ≠ 3) && (decide (f.optBits 8 7 = 2) == (f.type == .b32)) &&
  (f.optBit 3 || decide (f.a.toNat ≤ 62))

/-- `zcopy` (R288): writing takes f32 and ax48; ax48 needs an even d. -/
def zcopyOk (f : Form) : Bool :=
  (!f.optBit 0 || f.type == .f32 || f.type == .ax48) &&
  (f.type != .ax48 || decide (f.d.toNat % 2 = 0))

/-- The source type `cvt` names in c (R216). -/
def Form.stype (f : Form) : ElemType := (ElemType.ofCode f.c.toNat).getD .f32

/-- The types `cvt` converts between (R216). -/
def cvtTypes : List ElemType :=
  [.f32, .f16, .bf16, .e4m3, .e5m2, .i8, .i16, .i32, .i64, .n8, .n16, .n32, .n64]

/-- `cvt`: c is a type code, not dtype; a is a source of that type (R216). -/
def cvtOk (f : Form) : Bool :=
  !f.kindC && (match ElemType.ofCode f.c.toNat with
    | some t => cvtTypes.contains t && t != f.type && srcOk true f.kindA t f.a f.ext
    | none => false)

/-- `pack`: a half only for 8-bit types; integer types take no rounding (R217). -/
def packOk (f : Form) : Bool :=
  (decide (f.type.width = 8) || decide (f.variant = 0)) && (f.type.isFloat || decide (f.low3 = 0))

/-- `unpack`: idx within the word; qt only for q4 (R218). -/
def unpackOk (f : Form) : Bool :=
  !f.kindC && decide (f.c.toNat < 32 / f.type.width) && (f.type == .q4 || decide (f.variant = 0))

/-- The scale byte of `qnt` and `dqnt`: a register, a block constant, an immediate or the literal, no special source (R219,
R221). -/
def scaleOk (f : Form) : Bool := !f.kindC || (f.c != 0x10 && f.c != 0x11)

/-- `qnt`: b only with smoothing; `.sat` not for q4 (R219). -/
def qntOk (f : Form) : Bool :=
  (decide (f.variant = 1) || f.b == 0) && (f.type != .q4 || !f.sat) && scaleOk f

/-- `red` and `scan`: types and rounding of each operation (R227). -/
def redOk (f : Form) : Bool :=
  (if f.c.toNat < 3 then !([ElemType.b32, .b64].contains f.type) else [ElemType.b32, .b64].contains f.type) &&
  (decide (f.low3 = 0) || (f.c == 0 && f.type.isFloat))

/-- `bary`: sample 0–16; n only with `attr`; the results end within v255 (R369). -/
def baryOk (f : Form) : Bool :=
  decide (f.optBits 4 0 ≤ 16) &&
  (if f.optBit 5 then decide (f.d.toNat + f.optBits 8 6 ≤ 255) else decide (f.optBits 8 6 = 0) && decide (f.d.toNat ≤ 253))


/-- The row of an instruction of the 64- and 96-bit forms; none for the other constructors. -/
def Instr.row : Instr → Option Row
  | .add _ => some ⟨0x001, false, .A [0] 1 true, [.i64, .i32, .n64, .n32], .s, .src, .src, .zero, fun _ => true⟩
  | .sub _ => some ⟨0x002, false, .A [0] 1 true, [.i64, .i32, .n64, .n32], .s, .src, .src, .zero, fun _ => true⟩
  | .mul _ => some ⟨0x003, false, .A [0] 1 true, [.i64, .i32, .n64, .n32], .s, .src, .src, .zero, fun _ => true⟩
  | .mulh _ => some ⟨0x004, false, .A [0] 1 false, [.i64, .i32, .n64, .n32], .s, .src, .src, .zero, fun _ => true⟩
  | .div _ => some ⟨0x005, false, .A [0] 1 false, [.i64, .i32, .n64, .n32], .s, .src, .src, .zero, fun _ => true⟩
  | .rem _ => some ⟨0x006, false, .A [0] 1 false, [.i64, .i32, .n64, .n32], .s, .src, .src, .zero, fun _ => true⟩
  | .bitAnd _ => some ⟨0x007, false, .A [0] 1 false, [.b64, .b32], .s, .src, .src, .zero, fun _ => true⟩
  | .bitOr _ => some ⟨0x008, false, .A [0] 1 false, [.b64, .b32], .s, .src, .src, .zero, fun _ => true⟩
  | .xor _ => some ⟨0x009, false, .A [0] 1 false, [.b64, .b32], .s, .src, .src, .zero, fun _ => true⟩
  | .andn _ => some ⟨0x00A, false, .A [0] 1 false, [.b64, .b32], .s, .src, .src, .zero, fun _ => true⟩
  | .shl _ => some ⟨0x00B, false, .A [0] 1 false, [.b64, .b32], .s, .src, .src, .zero, fun _ => true⟩
  | .shr _ => some ⟨0x00C, false, .A [0] 1 false, [.b64, .b32], .s, .src, .src, .zero, fun _ => true⟩
  | .sar _ => some ⟨0x00D, false, .A [0] 1 false, [.i64, .i32], .s, .src, .src, .zero, fun _ => true⟩
  | .min _ => some ⟨0x00E, false, .A [0] 1 false, [.i64, .i32, .n64, .n32], .s, .src, .src, .zero, fun _ => true⟩
  | .max _ => some ⟨0x00F, false, .A [0] 1 false, [.i64, .i32, .n64, .n32], .s, .src, .src, .zero, fun _ => true⟩
  | .sel _ => some ⟨0x010, false, .A [0] 1 false, [.i64, .n64], .s, .src, .src, .num 0 7, fun _ => true⟩
  | .cmp _ => some ⟨0x011, false, .C 6, [.i64, .i32, .n64, .n32, .b64, .b32], .predPair, .src, .src, .zero, fun _ => true⟩
  | .lea _ => some ⟨0x012, false, .A [0, 1, 2, 3] 1 false, [.n64], .s, .s, .s, .src, fun _ => true⟩
  | .mov _ => some ⟨0x013, false, .A [0] 1 false, [.b64, .i64, .n64, .b32, .i32, .n32], .s, .src, .zero, .zero, fun _ => true⟩
  | .ldi _ => some ⟨0x014, false, .A [0] 1 false, [.i64, .n64], .s, .src, .zero, .zero, fun f => f.kindA⟩
  | .ldiHi _ => some ⟨0x014, false, .A [1] 1 false, [], .s, .any, .zero, .zero, fun f => f.kindA && f.a == 8 && f.lit?.isSome⟩
  | .popc _ => some ⟨0x015, false, .A [0] 1 false, [.b64, .b32], .s, .src, .zero, .zero, fun _ => true⟩
  | .clz _ => some ⟨0x016, false, .A [0] 1 false, [.b64, .b32], .s, .src, .zero, .zero, fun _ => true⟩
  | .bfx _ => some ⟨0x017, false, .A [0] 1 false, [.b64, .b32, .i64, .i32], .s, .src, .src, .src, fun _ => true⟩
  | .bfi _ => some ⟨0x018, false, .A [0] 1 false, [.b64, .b32], .s, .src, .src, .src, fun _ => true⟩
  | .br _ => some ⟨0x020, false, .X 0, [], .zero, .zero, .zero, .zero, fun f => codeAddress f⟩
  | .bc _ => some ⟨0x021, false, .X 0xF, [.i64, .i32, .n64, .n32], .zero, .s, .s, .zero, fun f => codeAddress f && decide (f.optBits 3 0 < 6)⟩
  | .brv _ => some ⟨0x022, false, .X 1, [], .zero, .zero, .p, .v, fun f => codeAddress f && (f.optBit 0 || f.c == 0)⟩
  | .call _ => some ⟨0x023, false, .X 0, [], .zero, .zero, .zero, .zero, fun f => codeAddress f⟩
  | .ret _ => some ⟨0x024, false, .X 0, [], .zero, .s, .zero, .zero, fun _ => true⟩
  | .jr _ => some ⟨0x025, false, .X 0, [], .s, .s, .zero, .zero, fun _ => true⟩
  | .loopTo _ => some ⟨0x026, false, .X 0, [], .zero, .s, .zero, .zero, fun f => codeAddress f && f.a != 0⟩
  | .vrun _ => some ⟨0x030, false, .X 0xF, [], .s, .s, .p, .zero, fun f => codeAddress f && decide (f.optBits 2 0 ≤ 4) && decide (f.d.toNat + f.optBits 2 0 ≤ 64)⟩
  | .mpush _ => some ⟨0x031, false, .X 0, [], .zero, .zero, .p, .zero, fun _ => true⟩
  | .melse _ => some ⟨0x032, false, .X 0, [], .zero, .zero, .zero, .zero, fun _ => true⟩
  | .mpop _ => some ⟨0x033, false, .X 0, [], .zero, .zero, .zero, .zero, fun _ => true⟩
  | .vany _ => some ⟨0x034, false, .X 0, [], .num 0 7, .zero, .p, .zero, fun _ => true⟩
  | .vall _ => some ⟨0x035, false, .X 0, [], .num 0 7, .zero, .p, .zero, fun _ => true⟩
  | .bqrd _ => some ⟨0x036, false, .X 1, [.b32, .n32, .i32, .b64], .s, .vT, .zero, .any, fun f => (!f.optBit 0 || f.c == 0)⟩
  | .lser _ => some ⟨0x037, false, .X 0, [], .s, .zero, .zero, .zero, fun _ => true⟩
  | .lsend _ => some ⟨0x038, false, .X 0, [], .zero, .zero, .zero, .zero, fun _ => true⟩
  | .crew _ => some ⟨0x040, false, .X 0, [], .zero, .s, .zero, .zero, fun _ => true⟩
  | .gnode _ => some ⟨0x041, false, .X 0, [], .s, .s, .s, .zero, fun _ => true⟩
  | .grun _ => some ⟨0x042, false, .X 0, [], .zero, .s, .s, .s, fun _ => true⟩
  | .semw _ => some ⟨0x043, false, .X 0x1FF, [], .zero, .s, .s, .zero, fun f => decide (f.optBits 2 0 < 6) && (f.b == 0 || decide (f.optBits 8 3 = 0))⟩
  | .sems _ => some ⟨0x044, false, .X 0x1FF, [], .zero, .s, .s, .zero, fun f => decide (f.optBits 2 0 < 6) && (f.b == 0 || decide (f.optBits 8 3 = 0))⟩
  | .sld _ => some ⟨0x048, false, .M [0, 1] [0, 1, 2, 3, 4, 5], [.n64, .i64, .b64, .n32, .i32, .b32, .n16, .i16, .n8, .i8], .s, .s, .any, .any, fun f => scalarMem f && dispOk f⟩
  | .sst _ => some ⟨0x049, false, .M [0, 2] [0, 1, 2, 3, 4, 5], [.n64, .i64, .b64, .n32, .i32, .b32, .n16, .i16, .n8, .i8], .s, .s, .any, .any, fun f => scalarMem f && dispOk f⟩
  | .satomAdd _ => some ⟨0x050, false, .M [0, 1, 2, 3] [0, 1, 2, 3, 4, 5], [.i64, .i32, .n64, .n32], .s, .s, .any, .s, fun f => scalarMem f⟩
  | .satomMin _ => some ⟨0x051, false, .M [0, 1, 2, 3] [0, 1, 2, 3, 4, 5], [.i64, .i32, .n64, .n32], .s, .s, .any, .s, fun f => scalarMem f⟩
  | .satomMax _ => some ⟨0x052, false, .M [0, 1, 2, 3] [0, 1, 2, 3, 4, 5], [.i64, .i32, .n64, .n32], .s, .s, .any, .s, fun f => scalarMem f⟩
  | .satomAnd _ => some ⟨0x053, false, .M [0, 1, 2, 3] [0, 1, 2, 3, 4, 5], [.b64, .b32, .i64, .i32, .n64, .n32], .s, .s, .any, .s, fun f => scalarMem f⟩
  | .satomOr _ => some ⟨0x054, false, .M [0, 1, 2, 3] [0, 1, 2, 3, 4, 5], [.b64, .b32, .i64, .i32, .n64, .n32], .s, .s, .any, .s, fun f => scalarMem f⟩
  | .satomXor _ => some ⟨0x055, false, .M [0, 1, 2, 3] [0, 1, 2, 3, 4, 5], [.b64, .b32, .i64, .i32, .n64, .n32], .s, .s, .any, .s, fun f => scalarMem f⟩
  | .satomXchg _ => some ⟨0x056, false, .M [0, 1, 2, 3] [0, 1, 2, 3, 4, 5], [.b64, .b32, .i64, .i32, .n64, .n32], .s, .s, .any, .s, fun f => scalarMem f⟩
  | .satomCas _ => some ⟨0x057, false, .M [0, 1, 2, 3] [0, 1, 2, 3, 4, 5], [.b64, .b32, .i64, .i32, .n64, .n32], .s, .s, .any, .num 0 62, fun f => scalarMem f⟩
  | .satomInc _ => some ⟨0x058, false, .M [0, 1, 2, 3] [0, 1, 2, 3, 4, 5], [.n64, .n32], .s, .s, .any, .s, fun f => scalarMem f⟩
  | .fenceCtrl _ => some ⟨0x05F, false, .M [0, 1, 2, 3] [0, 1, 2, 3, 4, 5], [], .zero, .zero, .zero, .zero, fun f => fenceBits f⟩
  | .trapTo _ => some ⟨0x060, false, .X 0x1FF, [], .zero, .s, .zero, .zero, fun f => (f.a == 0 || decide (f.opt = 0))⟩
  | .eret _ => some ⟨0x061, false, .X 0, [], .zero, .zero, .zero, .zero, fun _ => true⟩
  | .csrr _ => some ⟨0x062, false, .X 0, [], .s, .any, .any, .zero, fun f => csrNumber f⟩
  | .csrw _ => some ⟨0x063, false, .X 0, [], .zero, .any, .any, .s, fun f => csrNumber f⟩
  | .acq _ => some ⟨0x064, false, .X 0, [], .zero, .zero, .zero, .zero, fun _ => true⟩
  | .yield _ => some ⟨0x065, false, .X 0, [], .zero, .zero, .zero, .zero, fun _ => true⟩
  | .exitWave _ => some ⟨0x066, false, .X 0, [], .zero, .zero, .zero, .zero, fun _ => true⟩
  | .nop _ => some ⟨0x067, false, .X 0, [], .zero, .zero, .zero, .zero, fun _ => true⟩
  | .clk _ => some ⟨0x068, false, .X 0, [], .s, .zero, .zero, .zero, fun _ => true⟩
  | .tick _ => some ⟨0x069, false, .X 0, [], .s, .zero, .zero, .zero, fun _ => true⟩
  | .ldw _ => some ⟨0x080, false, .X 0xF, [.f16, .bf16, .e4m3, .e5m2, .q4, .i8, .n8, .i16, .b32], .zero, .num 0 62, .zero, .s, fun f => layoutOk f && (!f.optBit 3 || [.f16, .bf16, .e4m3, .e5m2].contains f.type) && (f.optBit 3 || f.c == 0)⟩
  | .mma _ => some ⟨0x081, false, .X 0x7F, [.f16, .bf16, .e4m3, .e5m2, .q4, .i8, .n8, .i16], .any, .any, .zero, .s, fun f => layoutOk f && mmaOk f⟩
  | .mmaSp _ => some ⟨0x082, false, .X 0x1FF, [.f16, .bf16, .e4m3, .e5m2, .q4, .i8, .n8, .i16], .any, .any, .s, .s, fun f => layoutOk f && mmaOk f⟩
  | .mmaSr _ => some ⟨0x083, false, .X 0x1F8, [.bf16, .i16, .b32], .any, .any, .zero, .zero, fun f => mmaSrOk f⟩
  | .scac _ => some ⟨0x084, false, .X 0xC0, [], .any, .any, .s, .s, fun _ => true⟩
  | .zclr _ => some ⟨0x085, false, .X 0x43, [], .any, .zero, .zero, .zero, fun f => decide (f.optBits 1 0 = 0)⟩
  | .zclrPin _ => some ⟨0x085, false, .X 0x43, [], .any, .zero, .zero, .any, fun f => decide (f.optBits 1 0 = 1) && !f.optBit 6⟩
  | .zclrUnpin _ => some ⟨0x085, false, .X 0x43, [], .any, .zero, .zero, .zero, fun f => decide (f.optBits 1 0 = 2) && f.optBit 6⟩
  | .zdrain _ => some ⟨0x086, false, .X 0x5F, [.f32, .f16, .bf16, .ax48], .zero, .any, .s, .s, fun f => (!f.optBit 0 || (f.type == .f32 && decide (f.optBits 4 3 = 0)))⟩
  | .barWg _ => some ⟨0x090, false, .X 0xF0, [], .zero, .zero, .zero, .zero, fun _ => true⟩
  | .barM _ => some ⟨0x091, false, .X 0xFF, [], .zero, .s, .zero, .zero, fun _ => true⟩
  | .barGang _ => some ⟨0x092, false, .X 0xF0, [], .zero, .zero, .zero, .zero, fun _ => true⟩
  | .barDev _ => some ⟨0x093, false, .X 0xF0, [], .s, .s, .zero, .zero, fun _ => true⟩
  | .fbar _ => some ⟨0x094, false, .X 0xF0, [], .s, .s, .zero, .zero, fun _ => true⟩
  | .chanPush _ => some ⟨0x095, false, .X 0xF1, [], .zero, .s, .s, .s, fun f => (!f.optBit 0 || decide (f.optBits 7 4 = 0))⟩
  | .chanPop _ => some ⟨0x096, false, .X 0xF1, [], .s, .s, .zero, .s, fun f => (!f.optBit 0 || decide (f.optBits 7 4 = 0))⟩
  | .deqPush _ => some ⟨0x097, false, .X 1, [], .s, .s, .s, .zero, fun f => !f.optBit 0⟩
  | .deqPushReset _ => some ⟨0x097, false, .X 1, [], .s, .s, .s, .zero, fun f => f.optBit 0⟩
  | .deqPop _ => some ⟨0x098, false, .X 0, [], .s, .s, .zero, .zero, fun _ => true⟩
  | .deqStealClaim _ => some ⟨0x099, false, .X 3, [], .s, .s, .zero, .zero, fun f => decide (f.optBits 1 0 = 0)⟩
  | .deqStealRun _ => some ⟨0x099, false, .X 3, [], .s, .s, .s, .zero, fun f => decide (f.optBits 1 0 = 1) && f.b != 0⟩
  | .deqStealDone _ => some ⟨0x099, false, .X 3, [], .s, .s, .s, .zero, fun f => decide (f.optBits 1 0 = 2) && f.b != 0⟩
  | .evict _ => some ⟨0x0A0, false, .X 0, [], .zero, .s, .s, .zero, fun _ => true⟩
  | .pgq _ => some ⟨0x0A1, false, .X 1, [], .s, .zero, .zero, .zero, fun _ => true⟩
  | .tspan _ => some ⟨0x0A8, false, .X 1, [], .s, .zero, .zero, .zero, fun _ => true⟩
  | .tspanRefill _ => some ⟨0x0A8, false, .X 2, [], .s, .zero, .zero, .zero, fun f => f.optBit 1⟩
  | .tspend _ => some ⟨0x0A9, false, .X 0, [], .zero, .zero, .zero, .zero, fun _ => true⟩
  | .tstat _ => some ⟨0x0AA, false, .X 7, [], .s, .zero, .zero, .zero, fun f => decide (f.optBits 2 0 ≤ 4)⟩
  | .rast _ => some ⟨0x0B0, false, .X 0xF, [], .s, .s, .s, .s, fun f => decide (f.optBits 1 0 ≠ 3)⟩
  | .allred _ => some ⟨0x0B8, false, .X 3, [.f32, .i32, .n32, .i64, .n64], .s, .s, .s, .s, fun f => decide (f.optBits 1 0 ≠ 3)⟩
  | .mgrpDef _ => some ⟨0x0B9, false, .X 3, [], .s, .s, .zero, .s, fun f => decide (f.optBits 1 0 = 0)⟩
  | .mgrpBind _ => some ⟨0x0B9, false, .X 3, [], .s, .s, .s, .s, fun f => decide (f.optBits 1 0 = 1)⟩
  | .mgrpRevoke _ => some ⟨0x0B9, false, .X 3, [], .s, .zero, .zero, .s, fun f => decide (f.optBits 1 0 = 2)⟩
  | .mgrpFree _ => some ⟨0x0B9, false, .X 3, [], .s, .zero, .zero, .s, fun f => decide (f.optBits 1 0 = 3)⟩
  | .fadd _ => some ⟨0x201, true, .A [0] 4 false, [.f32, .f16, .bf16], .v, .src, .src, .zero, fun _ => true⟩
  | .fsub _ => some ⟨0x202, true, .A [0] 4 false, [.f32, .f16, .bf16], .v, .src, .src, .zero, fun _ => true⟩
  | .fmul _ => some ⟨0x203, true, .A [0] 4 false, [.f32, .f16, .bf16], .v, .src, .src, .zero, fun _ => true⟩
  | .fma _ => some ⟨0x204, true, .A [0] 4 false, [.f32, .f16, .bf16], .v, .src, .src, .src, fun _ => true⟩
  | .fmin _ => some ⟨0x205, true, .A [0] 1 false, [.f32, .f16, .bf16], .v, .src, .src, .zero, fun _ => true⟩
  | .fmax _ => some ⟨0x206, true, .A [0] 1 false, [.f32, .f16, .bf16], .v, .src, .src, .zero, fun _ => true⟩
  | .fdiv _ => some ⟨0x207, true, .A [0] 4 false, [.f32, .f16, .bf16], .v, .src, .src, .zero, fun _ => true⟩
  | .frcp _ => some ⟨0x208, true, .A [0] 1 false, [.f32, .f16, .bf16], .v, .src, .zero, .zero, fun _ => true⟩
  | .frsq _ => some ⟨0x209, true, .A [0] 1 false, [.f32, .f16, .bf16], .v, .src, .zero, .zero, fun _ => true⟩
  | .fsqrt _ => some ⟨0x20A, true, .A [0] 4 false, [.f32, .f16, .bf16], .v, .src, .zero, .zero, fun _ => true⟩
  | .exp2 _ => some ⟨0x20B, true, .A [0] 1 false, [.f32, .f16, .bf16], .v, .src, .zero, .zero, fun _ => true⟩
  | .log2 _ => some ⟨0x20C, true, .A [0] 1 false, [.f32, .f16, .bf16], .v, .src, .zero, .zero, fun _ => true⟩
  | .sinpi _ => some ⟨0x20D, true, .A [0] 1 false, [.f32, .f16, .bf16], .v, .src, .zero, .zero, fun _ => true⟩
  | .cospi _ => some ⟨0x20E, true, .A [0] 1 false, [.f32, .f16, .bf16], .v, .src, .zero, .zero, fun _ => true⟩
  | .fclass _ => some ⟨0x20F, true, .A [0] 1 false, [.f32, .f16, .bf16], .v, .src, .zero, .zero, fun _ => true⟩
  | .fcmp _ => some ⟨0x210, true, .C 8, [.f32, .f16, .bf16], .predPair, .src, .src, .zero, fun _ => true⟩
  | .fsel _ => some ⟨0x211, true, .A [0] 1 false, [.b32, .f32, .f16, .bf16, .b64], .vT, .src, .src, .p, fun _ => true⟩
  | .iadd _ => some ⟨0x220, true, .A [0] 1 true, [.i32, .i8, .i16, .i64, .n8, .n16, .n32, .n64], .vT, .src, .src, .zero, fun _ => true⟩
  | .isub _ => some ⟨0x221, true, .A [0] 1 true, [.i32, .i8, .i16, .i64, .n8, .n16, .n32, .n64], .vT, .src, .src, .zero, fun _ => true⟩
  | .imul _ => some ⟨0x222, true, .A [0] 1 true, [.i32, .i8, .i16, .i64, .n8, .n16, .n32, .n64], .vT, .src, .src, .zero, fun _ => true⟩
  | .imad _ => some ⟨0x223, true, .A [0] 1 true, [.i32, .i8, .i16, .i64, .n8, .n16, .n32, .n64], .vT, .src, .src, .src, fun _ => true⟩
  | .imulh _ => some ⟨0x224, true, .A [0] 1 false, [.i32, .i64, .n32, .n64], .vT, .src, .src, .zero, fun _ => true⟩
  | .iabs _ => some ⟨0x225, true, .A [0] 1 true, [.i32, .i8, .i16, .i64], .vT, .src, .zero, .zero, fun _ => true⟩
  | .iand _ => some ⟨0x226, true, .A [0] 1 false, [.b32, .b64], .vT, .src, .src, .zero, fun _ => true⟩
  | .ior _ => some ⟨0x227, true, .A [0] 1 false, [.b32, .b64], .vT, .src, .src, .zero, fun _ => true⟩
  | .ixor _ => some ⟨0x228, true, .A [0] 1 false, [.b32, .b64], .vT, .src, .src, .zero, fun _ => true⟩
  | .ishl _ => some ⟨0x229, true, .A [0] 1 false, [.b32, .b64], .vT, .src, .src32, .zero, fun _ => true⟩
  | .ishr _ => some ⟨0x22A, true, .A [0] 1 false, [.b32, .b64], .vT, .src, .src32, .zero, fun _ => true⟩
  | .isar _ => some ⟨0x22B, true, .A [0] 1 false, [.i32, .i64], .vT, .src, .src32, .zero, fun _ => true⟩
  | .imin _ => some ⟨0x22C, true, .A [0] 1 false, [.i32, .i8, .i16, .i64, .n8, .n16, .n32, .n64], .vT, .src, .src, .zero, fun _ => true⟩
  | .imax _ => some ⟨0x22D, true, .A [0] 1 false, [.i32, .i8, .i16, .i64, .n8, .n16, .n32, .n64], .vT, .src, .src, .zero, fun _ => true⟩
  | .icmp _ => some ⟨0x22E, true, .C 6, [.i32, .i8, .i16, .i64, .n8, .n16, .n32, .n64, .b32, .b64], .predPair, .src, .src, .zero, fun _ => true⟩
  | .ipopc _ => some ⟨0x22F, true, .A [0] 1 false, [.b32, .b64], .v, .src, .zero, .zero, fun _ => true⟩
  | .iclz _ => some ⟨0x230, true, .A [0] 1 false, [.b32, .b64], .v, .src, .zero, .zero, fun _ => true⟩
  | .ibfx _ => some ⟨0x231, true, .A [0] 1 false, [.b32, .b64, .i32, .i64], .vT, .src, .src32, .src32, fun _ => true⟩
  | .ibfi _ => some ⟨0x232, true, .A [0] 1 false, [.b32, .b64], .vT, .src, .src32, .src32, fun _ => true⟩
  | .cvt _ => some ⟨0x240, true, .A [0] 5 true, [.f32, .f16, .bf16, .e4m3, .e5m2, .i8, .i16, .i32, .i64, .n8, .n16, .n32, .n64], .vT, .any, .zero, .any, fun f => cvtOk f⟩
  | .pack _ => some ⟨0x241, true, .A [0, 1] 5 true, [.f16, .bf16, .e4m3, .e5m2, .i16, .n16, .i8, .n8], .v, .src32, .src32, .zero, fun f => packOk f⟩
  | .unpack _ => some ⟨0x242, true, .A [0, 1, 2, 3] 1 false, [.f16, .bf16, .e4m3, .e5m2, .i16, .i8, .n16, .n8, .q4], .v, .src32, .zero, .any, fun f => unpackOk f⟩
  | .qnt _ => some ⟨0x243, true, .A [0, 1] 5 true, [.e4m3, .e5m2, .q4], .v, .src32, .v, .src32, fun f => qntOk f⟩
  | .dqnt _ => some ⟨0x244, true, .A [0] 1 false, [.e4m3, .e5m2, .q4], .v, .src32, .zero, .src32, fun f => scaleOk f⟩
  | .movV _ => some ⟨0x248, true, .A [0] 1 false, [.b32, .b64, .f32, .f16, .bf16, .i32, .n32, .i64, .n64, .i16, .n16, .i8, .n8], .vT, .src, .zero, .zero, fun _ => true⟩
  | .movk _ => some ⟨0x249, true, .A [0, 1] 1 false, [.b32, .b64], .vT, .any, .zero, .zero, fun f => f.kindA && decide (f.a.toNat ≤ 7) && (f.type == .b32 || decide (f.variant = 0))⟩
  | .laneRank _ => some ⟨0x24A, true, .A [0] 1 false, [.n32], .v, .zero, .p, .zero, fun _ => true⟩
  | .perm _ => some ⟨0x24B, true, .A [0] 1 false, [.b32, .b64], .vT, .src, .src32, .zero, fun _ => true⟩
  | .bcast _ => some ⟨0x24C, true, .A [0] 1 false, [.b32, .b64], .vT, .src, .src32, .zero, fun _ => true⟩
  | .compress _ => some ⟨0x24D, true, .A [0] 1 false, [.b32, .b64], .vT, .src, .p, .zero, fun _ => true⟩
  | .expand _ => some ⟨0x24E, true, .A [0] 1 false, [.b32, .b64], .vT, .src, .p, .zero, fun _ => true⟩
  | .slideup _ => some ⟨0x24F, true, .A [0] 1 false, [.b32, .b64], .vT, .src, .src32, .zero, fun _ => true⟩
  | .slidedn _ => some ⟨0x250, true, .A [0] 1 false, [.b32, .b64], .vT, .src, .src32, .zero, fun _ => true⟩
  | .matchLanes _ => some ⟨0x251, true, .A [0] 1 false, [.b32, .b64], .vEven, .src, .zero, .zero, fun _ => true⟩
  | .ballot _ => some ⟨0x252, true, .A [0] 1 false, [.b64], .vEven, .zero, .p, .zero, fun _ => true⟩
  | .redLanes _ => some ⟨0x258, true, .A [0] 4 false, [.f32, .f16, .bf16, .i32, .n32, .i64, .n64, .b32, .b64], .vT, .src, .zero, .num 0 5, fun f => redOk f⟩
  | .scanLanes _ => some ⟨0x259, true, .A [0] 4 false, [.f32, .f16, .bf16, .i32, .n32, .i64, .n64, .b32, .b64], .vT, .src, .zero, .num 0 5, fun f => redOk f⟩
  | .pand _ => some ⟨0x25C, true, .X 0, [], .p, .p, .p, .zero, fun _ => true⟩
  | .por _ => some ⟨0x25D, true, .X 0, [], .p, .p, .p, .zero, fun _ => true⟩
  | .pxor _ => some ⟨0x25E, true, .X 0, [], .p, .p, .p, .zero, fun _ => true⟩
  | .pnot _ => some ⟨0x25F, true, .X 0, [], .p, .p, .zero, .zero, fun _ => true⟩
  | .adamw _ => some ⟨0x260, true, .A [0] 1 false, [.f32], .v, .src, .v, .v, fun f => f.d != f.b && f.d != f.c && f.b != f.c⟩
  | .ldG _ => some ⟨0x280, true, .M [0, 1] [0, 1, 2, 3, 4, 5], [.b32, .f32, .i32, .n32, .f16, .bf16, .i16, .n16, .e4m3, .e5m2, .i8, .n8, .i64, .n64, .b64], .vT, .any, .any, .any, fun f => vecMem f false⟩
  | .ldL _ => some ⟨0x281, true, .M [0, 1] [0, 1, 2, 3, 4, 5], [.b32, .f32, .i32, .n32, .f16, .bf16, .i16, .n16, .e4m3, .e5m2, .i8, .n8, .i64, .n64, .b64], .vT, .any, .any, .any, fun f => vecMem f true⟩
  | .stG _ => some ⟨0x282, true, .M [0, 2] [0, 1, 2, 3, 4, 5], [.b32, .f32, .i32, .n32, .f16, .bf16, .i16, .n16, .e4m3, .e5m2, .i8, .n8, .i64, .n64, .b64], .vT, .any, .any, .any, fun f => vecMem f false⟩
  | .stL _ => some ⟨0x283, true, .M [0, 2] [0, 1, 2, 3, 4, 5], [.b32, .f32, .i32, .n32, .f16, .bf16, .i16, .n16, .e4m3, .e5m2, .i8, .n8, .i64, .n64, .b64], .vT, .any, .any, .any, fun f => vecMem f true⟩
  | .ldg _ => some ⟨0x284, true, .M [0, 1] [0, 1, 2, 3, 4, 5], [.b32, .f32, .i32, .n32, .f16, .bf16, .i16, .n16, .e4m3, .e5m2, .i8, .n8, .i64, .n64, .b64], .vT, .any, .any, .any, fun f => vecMem f false⟩
  | .stg _ => some ⟨0x285, true, .M [0, 2] [0, 1, 2, 3, 4, 5], [.b32, .f32, .i32, .n32, .f16, .bf16, .i16, .n16, .e4m3, .e5m2, .i8, .n8, .i64, .n64, .b64], .vT, .any, .any, .any, fun f => vecMem f false⟩
  | .redO _ => some ⟨0x286, true, .M [0] [4], [.f32], .v, .any, .any, .any, fun f => vecMem f false⟩
  | .mcastSt _ => some ⟨0x287, true, .M [0, 2] [5], [.b32, .b64], .vT, .any, .vEven, .v, fun f => mcastOk f⟩
  | .fenceVec _ => some ⟨0x288, true, .M [0, 1, 2, 3] [0, 1, 2, 3, 4, 5], [], .zero, .any, .zero, .zero, fun f => fenceBits f && f.a == 0 && f.guard == 0 && !f.gneg⟩
  | .pref _ => some ⟨0x289, true, .M [0] [1, 4], [], .zero, .any, .any, .any, fun f => vecMem f false⟩
  | .atomAdd _ => some ⟨0x290, true, .M [0, 1, 2, 3] [0, 1, 2, 3, 4, 5], [.i32, .n32, .i64, .n64, .f32], .vT, .any, .any, .vT, fun f => atomOk f⟩
  | .atomMin _ => some ⟨0x291, true, .M [0, 1, 2, 3] [0, 1, 2, 3, 4, 5], [.i32, .n32, .i64, .n64, .f32], .vT, .any, .any, .vT, fun f => atomOk f⟩
  | .atomMax _ => some ⟨0x292, true, .M [0, 1, 2, 3] [0, 1, 2, 3, 4, 5], [.i32, .n32, .i64, .n64, .f32], .vT, .any, .any, .vT, fun f => atomOk f⟩
  | .atomAnd _ => some ⟨0x293, true, .M [0, 1, 2, 3] [0, 1, 2, 3, 4, 5], [.b32, .b64, .i32, .i64, .n32, .n64], .vT, .any, .any, .vT, fun f => atomOk f⟩
  | .atomOr _ => some ⟨0x294, true, .M [0, 1, 2, 3] [0, 1, 2, 3, 4, 5], [.b32, .b64, .i32, .i64, .n32, .n64], .vT, .any, .any, .vT, fun f => atomOk f⟩
  | .atomXor _ => some ⟨0x295, true, .M [0, 1, 2, 3] [0, 1, 2, 3, 4, 5], [.b32, .b64, .i32, .i64, .n32, .n64], .vT, .any, .any, .vT, fun f => atomOk f⟩
  | .atomXchg _ => some ⟨0x296, true, .M [0, 1, 2, 3] [0, 1, 2, 3, 4, 5], [.b32, .b64, .i32, .i64, .n32, .n64], .vT, .any, .any, .vT, fun f => atomOk f⟩
  | .atomCas _ => some ⟨0x297, true, .M [0, 1, 2, 3] [0, 1, 2, 3, 4, 5], [.b32, .b64, .i32, .i64, .n32, .n64], .vT, .any, .any, .vT, fun f => atomOk f && decide (f.c.toNat ≤ (if f.type.is64 then 252 else 254))⟩
  | .atomInc _ => some ⟨0x298, true, .M [0, 1, 2, 3] [0, 1, 2, 3, 4, 5], [.n32, .n64], .vT, .any, .any, .vT, fun f => atomOk f⟩
  | .zcopy _ => some ⟨0x2A0, true, .X 0x59, [.f32, .f16, .bf16, .ax48], .v, .any, .num 0 63, .num 1 64, fun f => zcopyOk f⟩
  | .attnStep _ => some ⟨0x2A8, true, .X 0, [], .vMax 253, .v, .vEven, .vEven, fun _ => true⟩
  | .attnMass _ => some ⟨0x2A9, true, .X 0, [], .vMax 253, .v, .vEven, .vEven, fun _ => true⟩
  | .trec _ => some ⟨0x2B0, true, .X 0, [.b32, .b64], .zero, .vT, .zero, .zero, fun _ => true⟩
  | .tpop _ => some ⟨0x2B1, true, .X 0, [.b32, .b64], .vT, .zero, .p, .zero, fun _ => true⟩
  | .tckpt _ => some ⟨0x2B2, true, .X 1, [.b32, .b64], .zero, .vT, .zero, .zero, fun f => !f.optBit 0⟩
  | .tckptGet _ => some ⟨0x2B2, true, .X 1, [.b32, .b64], .vT, .zero, .zero, .num 0 15, fun f => f.optBit 0⟩
  | .tex _ => some ⟨0x2C0, true, .X 1, [], .v, .vMax 254, .vEven, .v, fun f => (f.optBit 0 || decide (f.c.toNat ≤ 252))⟩
  | .texadj _ => some ⟨0x2C1, true, .X 1, [], .vMax 254, .vMax 254, .vEven, .v, fun f => (f.optBit 0 || decide (f.c.toNat ≤ 252))⟩
  | .trav _ => some ⟨0x2C2, true, .X 0x1F, [], .vMax 252, .vMax 248, .vEven, .zero, fun _ => true⟩
  | .isect _ => some ⟨0x2C3, true, .X 0xF, [], .vMax 253, .vMax 248, .vEven, .v, fun _ => true⟩
  | .isectadj _ => some ⟨0x2C4, true, .X 0xF, [], .vMax 250, .vMax 248, .vEven, .vMax 253, fun _ => true⟩
  | .bary _ => some ⟨0x2C5, true, .X 0x1FF, [], .v, .v, .vEven, .v, fun f => baryOk f⟩
  | .baryadj _ => some ⟨0x2C6, true, .X 0x1DF, [], .v, .v, .vEven, .v, fun f => decide (f.optBits 4 0 ≤ 16) && decide (f.d.toNat + f.optBits 8 6 ≤ 255)⟩
  | .esmp _ => some ⟨0x2C7, true, .X 1, [], .vMax 252, .v, .vEven, .v, fun _ => true⟩
  | _ => none

/-- The fields of an instruction of the 64- and 96-bit forms. -/
def Instr.form? : Instr → Option Form
  | .add f => some f
  | .sub f => some f
  | .mul f => some f
  | .mulh f => some f
  | .div f => some f
  | .rem f => some f
  | .bitAnd f => some f
  | .bitOr f => some f
  | .xor f => some f
  | .andn f => some f
  | .shl f => some f
  | .shr f => some f
  | .sar f => some f
  | .min f => some f
  | .max f => some f
  | .sel f => some f
  | .cmp f => some f
  | .lea f => some f
  | .mov f => some f
  | .ldi f => some f
  | .ldiHi f => some f
  | .popc f => some f
  | .clz f => some f
  | .bfx f => some f
  | .bfi f => some f
  | .br f => some f
  | .bc f => some f
  | .brv f => some f
  | .call f => some f
  | .ret f => some f
  | .jr f => some f
  | .loopTo f => some f
  | .vrun f => some f
  | .mpush f => some f
  | .melse f => some f
  | .mpop f => some f
  | .vany f => some f
  | .vall f => some f
  | .bqrd f => some f
  | .lser f => some f
  | .lsend f => some f
  | .crew f => some f
  | .gnode f => some f
  | .grun f => some f
  | .semw f => some f
  | .sems f => some f
  | .sld f => some f
  | .sst f => some f
  | .satomAdd f => some f
  | .satomMin f => some f
  | .satomMax f => some f
  | .satomAnd f => some f
  | .satomOr f => some f
  | .satomXor f => some f
  | .satomXchg f => some f
  | .satomCas f => some f
  | .satomInc f => some f
  | .fenceCtrl f => some f
  | .trapTo f => some f
  | .eret f => some f
  | .csrr f => some f
  | .csrw f => some f
  | .acq f => some f
  | .yield f => some f
  | .exitWave f => some f
  | .nop f => some f
  | .clk f => some f
  | .tick f => some f
  | .ldw f => some f
  | .mma f => some f
  | .mmaSp f => some f
  | .mmaSr f => some f
  | .scac f => some f
  | .zclr f => some f
  | .zclrPin f => some f
  | .zclrUnpin f => some f
  | .zdrain f => some f
  | .barWg f => some f
  | .barM f => some f
  | .barGang f => some f
  | .barDev f => some f
  | .fbar f => some f
  | .chanPush f => some f
  | .chanPop f => some f
  | .deqPush f => some f
  | .deqPushReset f => some f
  | .deqPop f => some f
  | .deqStealClaim f => some f
  | .deqStealRun f => some f
  | .deqStealDone f => some f
  | .evict f => some f
  | .pgq f => some f
  | .tspan f => some f
  | .tspanRefill f => some f
  | .tspend f => some f
  | .tstat f => some f
  | .rast f => some f
  | .allred f => some f
  | .mgrpDef f => some f
  | .mgrpBind f => some f
  | .mgrpRevoke f => some f
  | .mgrpFree f => some f
  | .fadd f => some f
  | .fsub f => some f
  | .fmul f => some f
  | .fma f => some f
  | .fmin f => some f
  | .fmax f => some f
  | .fdiv f => some f
  | .frcp f => some f
  | .frsq f => some f
  | .fsqrt f => some f
  | .exp2 f => some f
  | .log2 f => some f
  | .sinpi f => some f
  | .cospi f => some f
  | .fclass f => some f
  | .fcmp f => some f
  | .fsel f => some f
  | .iadd f => some f
  | .isub f => some f
  | .imul f => some f
  | .imad f => some f
  | .imulh f => some f
  | .iabs f => some f
  | .iand f => some f
  | .ior f => some f
  | .ixor f => some f
  | .ishl f => some f
  | .ishr f => some f
  | .isar f => some f
  | .imin f => some f
  | .imax f => some f
  | .icmp f => some f
  | .ipopc f => some f
  | .iclz f => some f
  | .ibfx f => some f
  | .ibfi f => some f
  | .cvt f => some f
  | .pack f => some f
  | .unpack f => some f
  | .qnt f => some f
  | .dqnt f => some f
  | .movV f => some f
  | .movk f => some f
  | .laneRank f => some f
  | .perm f => some f
  | .bcast f => some f
  | .compress f => some f
  | .expand f => some f
  | .slideup f => some f
  | .slidedn f => some f
  | .matchLanes f => some f
  | .ballot f => some f
  | .redLanes f => some f
  | .scanLanes f => some f
  | .pand f => some f
  | .por f => some f
  | .pxor f => some f
  | .pnot f => some f
  | .adamw f => some f
  | .ldG f => some f
  | .ldL f => some f
  | .stG f => some f
  | .stL f => some f
  | .ldg f => some f
  | .stg f => some f
  | .redO f => some f
  | .mcastSt f => some f
  | .fenceVec f => some f
  | .pref f => some f
  | .atomAdd f => some f
  | .atomMin f => some f
  | .atomMax f => some f
  | .atomAnd f => some f
  | .atomOr f => some f
  | .atomXor f => some f
  | .atomXchg f => some f
  | .atomCas f => some f
  | .atomInc f => some f
  | .zcopy f => some f
  | .attnStep f => some f
  | .attnMass f => some f
  | .trec f => some f
  | .tpop f => some f
  | .tckpt f => some f
  | .tckptGet f => some f
  | .tex f => some f
  | .texadj f => some f
  | .trav f => some f
  | .isect f => some f
  | .isectadj f => some f
  | .bary f => some f
  | .baryadj f => some f
  | .esmp f => some f
  | _ => none

end Sys2Proof
end

