-- ==== Sys2Proof/WellFormed.lean ====
section
/-!
DEFINITION. Well-formed instructions: the encodings that R51 to R76 assign. A form meets its row; a clause header meets
R68; a short form meets R76. The steps without an encoding name objects that exist: a context slot, a queue, a port.
-/
namespace Sys2Proof


/-- A short form names registers of its stream (R76): control fields up to 63; `mov` has no b. -/
def Instr.shortOk : Instr → Bool
  | .addI64Short f => decide (f.d.toNat < 64) && decide (f.a.toNat < 64)
  | .subI64Short f => decide (f.d.toNat < 64) && decide (f.a.toNat < 64)
  | .andB64Short f => decide (f.d.toNat < 64) && decide (f.a.toNat < 64)
  | .orB64Short f => decide (f.d.toNat < 64) && decide (f.a.toNat < 64)
  | .xorB64Short f => decide (f.d.toNat < 64) && decide (f.a.toNat < 64)
  | .shlB64Short f => decide (f.d.toNat < 64) && decide (f.a.toNat < 64)
  | .shrB64Short f => decide (f.d.toNat < 64) && decide (f.a.toNat < 64)
  | .sarI64Short f => decide (f.d.toNat < 64) && decide (f.a.toNat < 64)
  | .movB64Short f => decide (f.d.toNat < 64) && decide (f.a.toNat < 64) && f.b == 0
  | .minI64Short f => decide (f.d.toNat < 64) && decide (f.a.toNat < 64)
  | .maxI64Short f => decide (f.d.toNat < 64) && decide (f.a.toNat < 64)
  | .faddF32Short _ => true
  | .fsubF32Short _ => true
  | .fmulF32Short _ => true
  | .fminF32Short _ => true
  | .fmaxF32Short _ => true
  | .iaddI32Short _ => true
  | .isubI32Short _ => true
  | .imulI32Short _ => true
  | .iandB32Short _ => true
  | .iorB32Short _ => true
  | .ixorB32Short _ => true
  | .ishlB32Short _ => true
  | .ishrB32Short _ => true
  | .isarI32Short _ => true
  | .movB32Short f => f.b == 0
  | .nopShort => true
  | _ => false

/-- A flag field of a clause header: 0–11, or 0xF for none (R68). -/
def flagField (x : BitVec 4) : Bool := decide (x.toNat < 12) || x == 0xF

/-- A clause header (R68). -/
def Clause.ok (c : Clause) : Bool := decide (1 ≤ c.len.toNat) && flagField c.set1 && flagField c.set2

/-- What a step without an encoding names must exist: 256 context slots (R87), 16 queues of each (R119), 16 fabric
ports (R391), 1,536 cores of 32 wave slots (R3), 32 ready bits (R421). -/
def Instr.eventOk : Instr → Bool
  | .create c _ | .suspend c | .suspendRelease c | .resume c _ | .releaseCtx c | .destroy c | .frozenOrSaved c
  | .restoreComplete c _ | .quiesced c | .levelComplete c | .coolingEnd c _ | .inv c | .invall c | .invComplete c
  | .migrate c | .migrateComplete c | .mirrorReload c _ | .bind c _ | .unbind c => decide (c < 256)
  | .hang c w => decide (c < 256) && decide (w < 49152)
  | .queueEnable c q _ | .queueDisable c q _ => decide (c < 256) && decide (q < 16)
  | .errpendClear c q | .tailAdvance c q | .launchPkt c q | .graphPkt c q | .signalPkt c q | .waitPkt c q
  | .conditionHolds c q | .waitTimeout c q | .fencePkt c q | .fenceComplete c q | .levelPkt c q =>
    decide (c < 256) && decide (q < 16)
  | .portEnable p | .portDisable p | .trainingSucceeds p _ _ | .trainingFails p | .laneFails p _ | .laneRecovery p
  | .loss p | .retrain p | .linkLevelReplay p _ => decide (p < 16)
  | .matrixReset core _ => decide (core < 1536)
  | .barrierTimeout w => decide (w < 49152)
  | .readyBitSet b => decide (b < 32)
  | _ => true

/-- The constructors that have no encoding: the later rows of the opcode table. -/
def Instr.isEvent (i : Instr) : Bool :=
  i.row.isNone && !i.shortOk &&
  match i with
  | .clauseHeader _ => false
  | .addI64Short _ | .subI64Short _ | .andB64Short _ | .orB64Short _ | .xorB64Short _ | .shlB64Short _
  | .shrB64Short _ | .sarI64Short _ | .movB64Short _ | .minI64Short _ | .maxI64Short _ | .movB32Short _ => false
  | _ => true

/-- Well-formedness of an instruction or step. -/
def Instr.wf (i : Instr) : Bool :=
  match i.row, i.form? with
  | some r, some f => r.ok f
  | _, _ =>
    match i with
    | .clauseHeader c => c.ok
    | i => if i.isEvent then i.eventOk else i.shortOk

end Sys2Proof
end

