-- ==== Sys2Proof/Decode.lean ====
section
/-!
DEFINITION. The decoder (R51–R55, R68, R73–R77), total on any bytes and rejecting by name, and the encoder written from
the same tables.
-/
namespace Sys2Proof

/-- Why bytes are not an instruction (R77). -/
inductive DecodeError where
  /-- The bytes end inside an instruction. -/
  | short
  /-- The opcode is not listed for the stream. -/
  | opcode
  /-- xsel = 1 in a 64-bit instruction, or reserved bits of a descriptor or header set. -/
  | reserved
  /-- A field, type, modifier or guard outside its entry. -/
  | field
  /-- A block header where an instruction is decoded, or a clause header in the vector stream. -/
  | header
  deriving DecidableEq, Repr

/-- A parcel from four bytes, little-endian (R5). -/
def parcelOf (b0 b1 b2 b3 : Byte) : W32 := b3 ++ b2 ++ b1 ++ b0

/-- The parcels of a byte string; bytes after the last whole parcel are left. -/
def parcelsOf : List Byte → List W32
  | b0 :: b1 :: b2 :: b3 :: rest => parcelOf b0 b1 b2 b3 :: parcelsOf rest
  | _ => []

/-- The bytes of a parcel, little-endian (R5). -/
def bytesOfParcel (p : W32) : List Byte :=
  [p.extractLsb' 0 8, p.extractLsb' 8 8, p.extractLsb' 16 8, p.extractLsb' 24 8]

/-- The fields of the first two parcels (R54, Table 3.3). -/
def formOf (p0 p1 : W32) (ext : Ext) : Form where
  guard := p0.extractLsb' 12 4
  gneg  := p0.getLsbD 16
  d     := p0.extractLsb' 17 8
  a     := p1.extractLsb' 0 1 ++ p0.extractLsb' 25 7
  b     := p1.extractLsb' 1 8
  c     := p1.extractLsb' 9 8
  mod   := p1.extractLsb' 17 14
  ext   := ext

/-- The compatibility-guard descriptor (R67, Table 3.10); none where bits 31:16 are not zero. -/
def compatOf (p : W32) : Option CompatGuard :=
  if p.extractLsb' 16 16 = 0 then
    some { bit := p.extractLsb' 10 6, reg := p.extractLsb' 2 8, vec := p.getLsbD 1, neg := p.getLsbD 0 }
  else none

/-- The fields of a short form (R53). -/
def shortOf (p : W32) : Short := { d := p.extractLsb' 10 8, a := p.extractLsb' 18 8, b := p.extractLsb' 26 6 }

/-- The fields of a clause header (R68). -/
def clauseOf (p : W32) : Clause :=
  { len := p.extractLsb' 22 6, set2 := p.extractLsb' 18 4, set1 := p.extractLsb' 14 4, wait := p.extractLsb' 2 12 }


/-- The control-stream instruction of an op10 (R74, Table 3.12). -/
def controlOp (op : Nat) (f : Form) : Option Instr :=
  match op with
  | 0x001 => some (.add f)
  | 0x002 => some (.sub f)
  | 0x003 => some (.mul f)
  | 0x004 => some (.mulh f)
  | 0x005 => some (.div f)
  | 0x006 => some (.rem f)
  | 0x007 => some (.bitAnd f)
  | 0x008 => some (.bitOr f)
  | 0x009 => some (.xor f)
  | 0x00A => some (.andn f)
  | 0x00B => some (.shl f)
  | 0x00C => some (.shr f)
  | 0x00D => some (.sar f)
  | 0x00E => some (.min f)
  | 0x00F => some (.max f)
  | 0x010 => some (.sel f)
  | 0x011 => some (.cmp f)
  | 0x012 => some (.lea f)
  | 0x013 => some (.mov f)
  | 0x014 => if f.variant = 1 then some (.ldiHi f) else some (.ldi f)
  | 0x015 => some (.popc f)
  | 0x016 => some (.clz f)
  | 0x017 => some (.bfx f)
  | 0x018 => some (.bfi f)
  | 0x020 => some (.br f)
  | 0x021 => some (.bc f)
  | 0x022 => some (.brv f)
  | 0x023 => some (.call f)
  | 0x024 => some (.ret f)
  | 0x025 => some (.jr f)
  | 0x026 => some (.loopTo f)
  | 0x030 => some (.vrun f)
  | 0x031 => some (.mpush f)
  | 0x032 => some (.melse f)
  | 0x033 => some (.mpop f)
  | 0x034 => some (.vany f)
  | 0x035 => some (.vall f)
  | 0x036 => some (.bqrd f)
  | 0x037 => some (.lser f)
  | 0x038 => some (.lsend f)
  | 0x040 => some (.crew f)
  | 0x041 => some (.gnode f)
  | 0x042 => some (.grun f)
  | 0x043 => some (.semw f)
  | 0x044 => some (.sems f)
  | 0x048 => some (.sld f)
  | 0x049 => some (.sst f)
  | 0x050 => some (.satomAdd f)
  | 0x051 => some (.satomMin f)
  | 0x052 => some (.satomMax f)
  | 0x053 => some (.satomAnd f)
  | 0x054 => some (.satomOr f)
  | 0x055 => some (.satomXor f)
  | 0x056 => some (.satomXchg f)
  | 0x057 => some (.satomCas f)
  | 0x058 => some (.satomInc f)
  | 0x05F => some (.fenceCtrl f)
  | 0x060 => some (.trapTo f)
  | 0x061 => some (.eret f)
  | 0x062 => some (.csrr f)
  | 0x063 => some (.csrw f)
  | 0x064 => some (.acq f)
  | 0x065 => some (.yield f)
  | 0x066 => some (.exitWave f)
  | 0x067 => some (.nop f)
  | 0x068 => some (.clk f)
  | 0x069 => some (.tick f)
  | 0x080 => some (.ldw f)
  | 0x081 => some (.mma f)
  | 0x082 => some (.mmaSp f)
  | 0x083 => some (.mmaSr f)
  | 0x084 => some (.scac f)
  | 0x085 => match f.optBits 1 0 with
    | 0 => some (.zclr f)
    | 1 => some (.zclrPin f)
    | 2 => some (.zclrUnpin f)
    | _ => none
  | 0x086 => some (.zdrain f)
  | 0x090 => some (.barWg f)
  | 0x091 => some (.barM f)
  | 0x092 => some (.barGang f)
  | 0x093 => some (.barDev f)
  | 0x094 => some (.fbar f)
  | 0x095 => some (.chanPush f)
  | 0x096 => some (.chanPop f)
  | 0x097 => if f.optBit 0 then some (.deqPushReset f) else some (.deqPush f)
  | 0x098 => some (.deqPop f)
  | 0x099 => match f.optBits 1 0 with
    | 0 => some (.deqStealClaim f)
    | 1 => some (.deqStealRun f)
    | 2 => some (.deqStealDone f)
    | _ => none
  | 0x0A0 => some (.evict f)
  | 0x0A1 => some (.pgq f)
  | 0x0A8 => if f.optBit 1 then some (.tspanRefill f) else some (.tspan f)
  | 0x0A9 => some (.tspend f)
  | 0x0AA => some (.tstat f)
  | 0x0B0 => some (.rast f)
  | 0x0B8 => some (.allred f)
  | 0x0B9 => match f.optBits 1 0 with
    | 0 => some (.mgrpDef f)
    | 1 => some (.mgrpBind f)
    | 2 => some (.mgrpRevoke f)
    | _ => some (.mgrpFree f)
  | _ => none

/-- The vector-stream instruction of an op10 (R75, Table 3.13). -/
def vectorOp (op : Nat) (f : Form) : Option Instr :=
  match op with
  | 0x201 => some (.fadd f)
  | 0x202 => some (.fsub f)
  | 0x203 => some (.fmul f)
  | 0x204 => some (.fma f)
  | 0x205 => some (.fmin f)
  | 0x206 => some (.fmax f)
  | 0x207 => some (.fdiv f)
  | 0x208 => some (.frcp f)
  | 0x209 => some (.frsq f)
  | 0x20A => some (.fsqrt f)
  | 0x20B => some (.exp2 f)
  | 0x20C => some (.log2 f)
  | 0x20D => some (.sinpi f)
  | 0x20E => some (.cospi f)
  | 0x20F => some (.fclass f)
  | 0x210 => some (.fcmp f)
  | 0x211 => some (.fsel f)
  | 0x220 => some (.iadd f)
  | 0x221 => some (.isub f)
  | 0x222 => some (.imul f)
  | 0x223 => some (.imad f)
  | 0x224 => some (.imulh f)
  | 0x225 => some (.iabs f)
  | 0x226 => some (.iand f)
  | 0x227 => some (.ior f)
  | 0x228 => some (.ixor f)
  | 0x229 => some (.ishl f)
  | 0x22A => some (.ishr f)
  | 0x22B => some (.isar f)
  | 0x22C => some (.imin f)
  | 0x22D => some (.imax f)
  | 0x22E => some (.icmp f)
  | 0x22F => some (.ipopc f)
  | 0x230 => some (.iclz f)
  | 0x231 => some (.ibfx f)
  | 0x232 => some (.ibfi f)
  | 0x240 => some (.cvt f)
  | 0x241 => some (.pack f)
  | 0x242 => some (.unpack f)
  | 0x243 => some (.qnt f)
  | 0x244 => some (.dqnt f)
  | 0x248 => some (.movV f)
  | 0x249 => some (.movk f)
  | 0x24A => some (.laneRank f)
  | 0x24B => some (.perm f)
  | 0x24C => some (.bcast f)
  | 0x24D => some (.compress f)
  | 0x24E => some (.expand f)
  | 0x24F => some (.slideup f)
  | 0x250 => some (.slidedn f)
  | 0x251 => some (.matchLanes f)
  | 0x252 => some (.ballot f)
  | 0x258 => some (.redLanes f)
  | 0x259 => some (.scanLanes f)
  | 0x25C => some (.pand f)
  | 0x25D => some (.por f)
  | 0x25E => some (.pxor f)
  | 0x25F => some (.pnot f)
  | 0x260 => some (.adamw f)
  | 0x280 => some (.ldG f)
  | 0x281 => some (.ldL f)
  | 0x282 => some (.stG f)
  | 0x283 => some (.stL f)
  | 0x284 => some (.ldg f)
  | 0x285 => some (.stg f)
  | 0x286 => some (.redO f)
  | 0x287 => some (.mcastSt f)
  | 0x288 => some (.fenceVec f)
  | 0x289 => some (.pref f)
  | 0x290 => some (.atomAdd f)
  | 0x291 => some (.atomMin f)
  | 0x292 => some (.atomMax f)
  | 0x293 => some (.atomAnd f)
  | 0x294 => some (.atomOr f)
  | 0x295 => some (.atomXor f)
  | 0x296 => some (.atomXchg f)
  | 0x297 => some (.atomCas f)
  | 0x298 => some (.atomInc f)
  | 0x2A0 => some (.zcopy f)
  | 0x2A8 => some (.attnStep f)
  | 0x2A9 => some (.attnMass f)
  | 0x2B0 => some (.trec f)
  | 0x2B1 => some (.tpop f)
  | 0x2B2 => if f.optBit 0 then some (.tckptGet f) else some (.tckpt f)
  | 0x2C0 => some (.tex f)
  | 0x2C1 => some (.texadj f)
  | 0x2C2 => some (.trav f)
  | 0x2C3 => some (.isect f)
  | 0x2C4 => some (.isectadj f)
  | 0x2C5 => some (.bary f)
  | 0x2C6 => some (.baryadj f)
  | 0x2C7 => some (.esmp f)
  | _ => none

/-- The short form of an op8 (R76, Table 3.14). -/
def shortOp (op : Nat) (f : Short) : Option Instr :=
  match op with
  | 0x01 => some (.addI64Short f)
  | 0x02 => some (.subI64Short f)
  | 0x03 => some (.andB64Short f)
  | 0x04 => some (.orB64Short f)
  | 0x05 => some (.xorB64Short f)
  | 0x06 => some (.shlB64Short f)
  | 0x07 => some (.shrB64Short f)
  | 0x08 => some (.sarI64Short f)
  | 0x09 => some (.movB64Short f)
  | 0x0A => some (.minI64Short f)
  | 0x0B => some (.maxI64Short f)
  | 0x0F => some .nopShort
  | 0x81 => some (.faddF32Short f)
  | 0x82 => some (.fsubF32Short f)
  | 0x83 => some (.fmulF32Short f)
  | 0x84 => some (.fminF32Short f)
  | 0x85 => some (.fmaxF32Short f)
  | 0x88 => some (.iaddI32Short f)
  | 0x89 => some (.isubI32Short f)
  | 0x8A => some (.imulI32Short f)
  | 0x8B => some (.iandB32Short f)
  | 0x8C => some (.iorB32Short f)
  | 0x8D => some (.ixorB32Short f)
  | 0x8E => some (.ishlB32Short f)
  | 0x8F => some (.ishrB32Short f)
  | 0x90 => some (.isarI32Short f)
  | 0x91 => some (.movB32Short f)
  | _ => none

/-- An instruction that meets its own well-formedness, with its length in parcels. -/
def accept (i : Option Instr) (n : Nat) : Except DecodeError (Instr × Nat) :=
  match i with
  | none => .error .opcode
  | some i => if i.wf then .ok (i, n) else .error .field

/-- The op8 of a short form belongs to a stream (R74, R75). -/
def shortStream (vec : Bool) (op : Nat) : Bool := decide (0x80 ≤ op) == vec

/-- Decode the first instruction of a parcel list in a stream (R51): the instruction and its length in parcels. -/
def decode (vec : Bool) (ps : List W32) : Except DecodeError (Instr × Nat) :=
  match ps with
  | [] => .error .short
  | p0 :: rest =>
    match (p0.extractLsb' 0 2).toNat with
    | 0 =>
      let op := (p0.extractLsb' 2 8).toNat
      if shortStream vec op then
        if op = 0x0F && p0 != 0x3C#32 then .error .field else accept (shortOp op (shortOf p0)) 1
      else .error .opcode
    | 3 =>
      if vec then .error .header
      else if p0.extractLsb' 28 4 = 0 then accept (some (.clauseHeader (clauseOf p0))) 1
      else .error .reserved
    | len =>
      match rest with
      | [] => .error .short
      | p1 :: rest' =>
        let op := (p0.extractLsb' 2 10).toNat
        let make (f : Form) (n : Nat) := accept (if vec then vectorOp op f else controlOp op f) n
        if len = 1 then
          if p1.getLsbD 31 then .error .reserved else make (formOf p0 p1 .none) 2
        else
          match rest' with
          | [] => .error .short
          | p2 :: _ =>
            if p1.getLsbD 31 then
              match compatOf p2 with
              | some g => make (formOf p0 p1 (.compat g)) 3
              | none => .error .reserved
            else make (formOf p0 p1 (.lit p2)) 3


/-- The op8 and the fields of a short form. -/
def Instr.short? : Instr → Option (Nat × Short)
  | .addI64Short f => some (0x01, f)
  | .subI64Short f => some (0x02, f)
  | .andB64Short f => some (0x03, f)
  | .orB64Short f => some (0x04, f)
  | .xorB64Short f => some (0x05, f)
  | .shlB64Short f => some (0x06, f)
  | .shrB64Short f => some (0x07, f)
  | .sarI64Short f => some (0x08, f)
  | .movB64Short f => some (0x09, f)
  | .minI64Short f => some (0x0A, f)
  | .maxI64Short f => some (0x0B, f)
  | .faddF32Short f => some (0x81, f)
  | .fsubF32Short f => some (0x82, f)
  | .fmulF32Short f => some (0x83, f)
  | .fminF32Short f => some (0x84, f)
  | .fmaxF32Short f => some (0x85, f)
  | .iaddI32Short f => some (0x88, f)
  | .isubI32Short f => some (0x89, f)
  | .imulI32Short f => some (0x8A, f)
  | .iandB32Short f => some (0x8B, f)
  | .iorB32Short f => some (0x8C, f)
  | .ixorB32Short f => some (0x8D, f)
  | .ishlB32Short f => some (0x8E, f)
  | .ishrB32Short f => some (0x8F, f)
  | .isarI32Short f => some (0x90, f)
  | .movB32Short f => some (0x91, f)
  | .nopShort => some (0x0F, ⟨0, 0, 0⟩)
  | _ => none

/-- Parcel 0 of a form under length bits and opcode (Table 3.3). -/
def parcel0 (len : BitVec 2) (op : BitVec 10) (f : Form) : W32 :=
  f.a.extractLsb' 0 7 ++ f.d ++ BitVec.ofBool f.gneg ++ f.guard ++ op ++ len

/-- Parcel 1 of a form (Table 3.3). -/
def parcel1 (xsel : Bool) (f : Form) : W32 :=
  BitVec.ofBool xsel ++ f.mod ++ f.c ++ f.b ++ f.a.extractLsb' 7 1

/-- The compatibility-guard parcel (Table 3.10). -/
def parcelCompat (g : CompatGuard) : W32 :=
  0#16 ++ g.bit ++ g.reg ++ BitVec.ofBool g.vec ++ BitVec.ofBool g.neg

/-- The parcels of a form under its opcode (R54, R55). -/
def encodeForm (op : Nat) (f : Form) : List W32 :=
  let o := BitVec.ofNat 10 op
  match f.ext with
  | .none => [parcel0 1 o f, parcel1 false f]
  | .lit v => [parcel0 2 o f, parcel1 false f, v]
  | .compat g => [parcel0 2 o f, parcel1 true f, parcelCompat g]

/-- The parcel of a short form (Table 3.2). -/
def encodeShort (op : Nat) (f : Short) : W32 := f.b ++ f.a ++ f.d ++ BitVec.ofNat 8 op ++ 0#2

/-- The parcel of a clause header (Table 3.11). -/
def encodeClause (c : Clause) : W32 := 0#4 ++ c.len ++ c.set2 ++ c.set1 ++ c.wait ++ 3#2

/-- The parcels of an instruction; none for a step that has no encoding. -/
def encode (i : Instr) : Option (List W32) :=
  match i.row, i.form? with
  | some r, some f => some (encodeForm r.op f)
  | _, _ =>
    match i with
    | .clauseHeader c => some [encodeClause c]
    | i => i.short?.map fun x => [encodeShort x.1 x.2]

/-- The stream an instruction belongs to: true the vector stream (R74, R75). -/
def Instr.vec (i : Instr) : Bool :=
  match i.row with
  | some r => r.vec
  | none =>
    match i.short? with
    | some x => decide (0x80 ≤ x.1)
    | none => false

/-- The stream whose opcode range a first parcel falls in; a header counts as control (R74, R75). -/
def streamOf (p0 : W32) : Bool :=
  match (p0.extractLsb' 0 2).toNat with
  | 0 => decide (0x80 ≤ (p0.extractLsb' 2 8).toNat)
  | 3 => false
  | _ => decide (0x200 ≤ (p0.extractLsb' 2 10).toNat)

/-- The three parcels of a number whose bit 0 is the first parcel's least significant bit (log entry 11). -/
def parcelsOfNat (w : Nat) : List W32 :=
  [BitVec.ofNat 32 w, BitVec.ofNat 32 (w >>> 32), BitVec.ofNat 32 (w >>> 64)]

/-- The instruction the decoder reads from an instruction whose bits are `w`, the bits above `nbits` zero: its bytes laid
out as the part stores them (R5), decoded in the stream its opcode belongs to. -/
def decodeTableWord (nbits w : Nat) : Option Instr :=
  let ps := parcelsOf ((parcelsOfNat (w % 2 ^ nbits)).flatMap bytesOfParcel)
  match ps with
  | [] => none
  | p0 :: _ =>
    match decode (streamOf p0) ps with
    | .ok (i, _) => some i
    | .error _ => none

end Sys2Proof
end

