-- ==== Sys2Proof/Machine/Bits.lean ====
section
/-!
DEFINITION. Bit fields, sign extension, lane masks and byte order (R5, R24, R60).
-/
namespace Sys2Proof.Machine

/-- A number as a 64-bit word. -/
def u64 (n : Nat) : W64 := BitVec.ofNat 64 n

/-- An integer as a 64-bit word, modulo 2^64. -/
def i64 (n : Int) : W64 := BitVec.ofInt 64 n

/-- A number as a 32-bit word. -/
def u32 (n : Nat) : W32 := BitVec.ofNat 32 n

/-- A number as a 32-bit word, from an integer. -/
def i32 (n : Int) : W32 := BitVec.ofInt 32 n

/-- Bits `hi..lo` of a number. -/
def nbits (x hi lo : Nat) : Nat := (x >>> lo) % 2 ^ (hi - lo + 1)

/-- Bit `n` of a number. -/
def nbit (x n : Nat) : Bool := x.testBit n

/-- The low `w` bits read as signed (R24). -/
def signedOf (w : Nat) (x : Nat) : Int :=
  let y := x % 2 ^ w
  if w = 0 then 0 else if y < 2 ^ (w - 1) then (y : Int) else (y : Int) - (2 ^ w : Nat)

/-- An integer modulo 2^w. -/
def wrapNat (w : Nat) (x : Int) : Nat := (x % ((2 ^ w : Nat) : Int)).toNat

/-- A word as a value of an integer type: signed for i types (R24). -/
def valOf (t : ElemType) (x : Nat) : Int :=
  if t.signed then signedOf t.width x else ((x % 2 ^ t.width : Nat) : Int)

/-- The least and greatest value of an integer type. -/
def minOf (t : ElemType) : Int := if t.signed then -((2 ^ (t.width - 1) : Nat) : Int) else 0
def maxOf (t : ElemType) : Int :=
  if t.signed then ((2 ^ (t.width - 1) : Nat) : Int) - 1 else ((2 ^ t.width : Nat) : Int) - 1

/-- An exact integer reduced to a type: clamped with `.sat`, else wrapped (R24). -/
def reduce (t : ElemType) (sat : Bool) (x : Int) : Nat :=
  if sat then wrapNat t.width (max (minOf t) (min (maxOf t) x)) else wrapNat t.width x

/-- A reduced value written to a whole s register (R170): i types sign-extend. -/
def extend64 (t : ElemType) (x : Nat) : W64 := i64 (valOf t x)

/-- The mask with lanes 0 to W − 1 set. -/
def allLanes (W : Nat) : W64 := u64 (2 ^ W - 1)

/-- Lanes set in a mask, ascending. -/
def lanesOf (m : W64) : List Nat := (List.range 64).filter fun i => m.getLsbD i

/-- The mask of a list of lanes. -/
def maskOf (l : List Nat) : W64 := l.foldl (fun m i => m ||| u64 (2 ^ i)) 0

/-- The mask of the lanes of `m` with a property. -/
def maskWhere (m : W64) (p : Nat → Bool) : W64 := maskOf ((lanesOf m).filter p)

/-- Lowest lane of a mask; 0 for an empty mask. -/
def lowest (m : W64) : Nat := ((lanesOf m).head?).getD 0

/-- The low `n` bytes of a number, little-endian (R5). -/
def bytesLE (n v : Nat) : List Byte := (List.range n).map fun i => BitVec.ofNat 8 (v >>> (8 * i))

/-- The number a little-endian byte string spells (R5). -/
def ofBytesLE : List Byte → Nat
  | [] => 0
  | b :: r => b.toNat + 256 * ofBytesLE r

/-- A field of a byte string. -/
def fieldOf (bs : List Byte) (off n : Nat) : Nat := ofBytesLE ((bs.drop off).take n)

/-- Bytes at consecutive addresses. -/
def cellsAt (a : Nat) (l : List Byte) : List (Nat × Byte) := l.zipIdx.map fun e => (a + e.2, e.1)

/-- The cells of an `n`-byte little-endian store. -/
def cellsOf (a n v : Nat) : List (Nat × Byte) := cellsAt a (bytesLE n v)

/-- Rounding up to a multiple. -/
def ceilDiv (x d : Nat) : Nat := (x + d - 1) / d

/-- Exact equality of a list with no repeats. -/
def noDup : List Nat → Bool
  | [] => true
  | x :: r => !r.contains x && noDup r

/-- Insertion into an ascending list. -/
def insertSorted (x : Nat) : List Nat → List Nat
  | [] => [x]
  | y :: r => if x ≤ y then x :: y :: r else y :: insertSorted x r

/-- An ascending list. -/
def sortNat (l : List Nat) : List Nat := l.foldl (fun acc x => insertSorted x acc) []

end Sys2Proof.Machine
end

