-- ==== Sys2Proof/Machine/Tab.lean ====
section
/-!
DEFINITION. Sparse tables in one canonical form: keys strictly rising, and no entry equal to what an unlisted key reads
as. Memories, register files and object tables are all of this kind, so equal contents are equal data.
-/
namespace Sys2Proof.Machine

/-- A sparse table: an unlisted key reads as the default. -/
abbrev Tab (α : Type) := List (Nat × α)

/-- What a key holds. -/
def Tab.get {α : Type} [Inhabited α] (t : Tab α) (k : Nat) : α :=
  match t with
  | [] => default
  | (j, x) :: r => if j = k then x else Tab.get r k

/-- The table without a key. -/
def Tab.erase {α : Type} (t : Tab α) (k : Nat) : Tab α :=
  match t with
  | [] => []
  | (j, x) :: r => if j = k then Tab.erase r k else (j, x) :: Tab.erase r k

/-- A table that lacks a key, with an entry for it before the first greater key. -/
def Tab.place {α : Type} (t : Tab α) (k : Nat) (y : α) : Tab α :=
  match t with
  | [] => [(k, y)]
  | (j, x) :: r => if k < j then (k, y) :: (j, x) :: r else (j, x) :: Tab.place r k y

/-- The table with an entry at a key, whatever the value. -/
def Tab.insert {α : Type} (t : Tab α) (k : Nat) (y : α) : Tab α := (t.erase k).place k y

/-- A write: the default removes the entry. -/
def Tab.put {α : Type} [Inhabited α] [DecidableEq α] (t : Tab α) (k : Nat) (y : α) : Tab α :=
  if y = default then t.erase k else t.insert k y

/-- A change of one entry. -/
def Tab.modify {α : Type} [Inhabited α] [DecidableEq α] (t : Tab α) (k : Nat) (f : α → α) : Tab α :=
  t.put k (f (t.get k))

/-- The keys listed. -/
def Tab.keys {α : Type} (t : Tab α) : List Nat := t.map Prod.fst

/-- Every entry changed, keeping the canonical form. -/
def Tab.mapVals {α : Type} [Inhabited α] [DecidableEq α] (t : Tab α) (f : Nat → α → α) : Tab α :=
  t.keys.foldl (fun acc k => acc.put k (f k (t.get k))) []

/-- Several writes in order; a later one to a key wins. -/
def Tab.putAll {α : Type} [Inhabited α] [DecidableEq α] (t : Tab α) : List (Nat × α) → Tab α
  | [] => t
  | (k, y) :: r => Tab.putAll (t.put k y) r

/-- Every entry lies above a key and differs from the default, keys rising. -/
def Tab.above {α : Type} [Inhabited α] [DecidableEq α] (lo : Nat) : Tab α → Bool
  | [] => true
  | (j, x) :: r => decide (lo ≤ j) && decide (x ≠ default) && Tab.above (j + 1) r

/-- The canonical form: keys strictly rising, no entry equal to the default. -/
def Tab.wf {α : Type} [Inhabited α] [DecidableEq α] (t : Tab α) : Bool := Tab.above 0 t

/-- Entries with a property, as key and value. -/
def Tab.find {α : Type} (t : Tab α) (p : Nat → α → Bool) : Option (Nat × α) :=
  List.find? (fun e => p e.1 e.2) t

end Sys2Proof.Machine
end

