-- ==== Sys2Proof/Machine/State.lean ====
section
/-!
DEFINITION. The state of the machine: one Myzaend M6 package, the switch (or anchor) role of its jobs, its device
memory and the host memory it reaches, as plain data. Every record cites the rule that names what it holds. Tables are
sparse (`Tab`): an unlisted key reads as the default of its type. State.reset is the package right after device reset.
-/
namespace Sys2Proof.Machine

/-- Why the machine stops. -/
inductive Fault where
  /-- The module has shut down: coolant inlet at 55 °C or more (R426). Raised by step, for every act but an
  answer of the Falja port. Safe: nothing more happens. -/
  | shutDown
  deriving DecidableEq, Repr

/-- Why a step has no meaning here. -/
inductive Refusal where
  /-- An instruction without a meaning in the model. Raised by exec's arms only, and by none of them now. Safe: nothing
  can be proved of it. -/
  | notModelled (mnemonic : String)
  deriving DecidableEq, Repr

/-- The outcome of a step of this machine. -/
abbrev Result (σ : Type) := Host.Outcome σ Fault Refusal

/-- Memory: bytes by address; a byte nothing has written reads 0 (log entry 1). -/
abbrev Mem := Tab Byte

/-- A precise trap or event report (R113, R114). -/
structure Report where
  code  : Nat
  vec   : Bool := false
  async : Bool := false
  pc    : W64
  i0    : W64 := 0
  i1    : W64 := 0
  i2    : W64 := 0
  i3    : W64 := 0
  deriving DecidableEq, Repr, Inhabited

/-- Where a global address leads (R232). -/
inductive Target where
  | dev (pa : Nat)
  | peer (pkg pa : Nat)
  | host (pa : Nat)
  deriving DecidableEq, Repr

/-! ### A wave -/

/-- Where a wave slot stands (R154, R155). -/
inductive WaveSt where
  | free | running | exited
  deriving DecidableEq, Repr, Inhabited

/-- A wave's place in its launch: logical identity (R141–R144, R151) and owner. -/
structure WaveId where
  ctx     : Nat := 0
  kern    : Nat := 0
  gang    : Nat := 0
  /-- Gang member index (R156). -/
  member  : Nat := 0
  task    : Nat := 0
  phase   : Nat := 0
  /-- Wave within workgroup (R142). -/
  inWg    : Nat := 0
  /-- Width W in lanes (R151). -/
  width   : Nat := 0
  /-- Logical number of its core, which moves with the gang (R103). -/
  lcore   : Nat := 0
  /-- Base of the spill area (R143) and its size. -/
  spill   : W64 := 0
  spillsz : Nat := 0
  deriving DecidableEq, Repr, Inhabited

/-- Clause state (R69, R71). -/
structure ClauseSt where
  /-- Parcels remaining. -/
  rem  : Nat
  /-- Long-latency instructions met so far. -/
  slot : Nat
  set1 : Nat
  set2 : Nat
  deriving DecidableEq, Repr, Inhabited

/-- Serial state of `lser` … `lsend` (R187). -/
structure Serial where
  lanes : W64
  lane  : Nat
  ret   : W64
  reg   : Nat
  depth : Nat
  deriving DecidableEq, Repr, Inhabited

/-- The register values a long-latency instruction captures when it issues (R190, R281). -/
structure Caps where
  d    : W64 := 0
  a    : W64 := 0
  a1   : W64 := 0
  b    : W64 := 0
  c    : W64 := 0
  c1   : W64 := 0
  crew : W64 := 0
  deriving DecidableEq, Repr, Inhabited

/-- A pending long-latency operation that holds a completion flag (R69). -/
structure PendingOp where
  uid   : Nat
  site  : W64
  instr : Instr
  /-- 0–11; 15 for the operation of an instruction that holds no flag and waits in place. -/
  flag  : Nat
  caps  : Caps
  /-- Tokens issued before it (R284). -/
  mark  : Nat
  /-- Epoch of issue (R333). -/
  stamp : Nat
  /-- The package's own cycle count at issue (R302). -/
  since : Nat := 0
  /-- Bytes of memory that the operation's checks read as it issued. -/
  desc  : List Byte := []
  /-- It waits at a leaf with hold set: its access has not executed (R329). -/
  held  : Bool := false
  deriving DecidableEq, Repr

/-- A fault held by a flag until a raising point (R70), in issue order. -/
structure HeldFault where
  uid    : Nat
  flag   : Nat
  report : Report
  deriving DecidableEq, Repr, Inhabited

/-- The tokens of the control queue (R161): each with the address of the instruction that issued it. -/
inductive Token where
  | vrun (site target : W64) (trip : Nat) (pred : Nat) (neg : Bool) (kv : List W64) (span : Option Nat)
  | mpush (site : W64) (p : Nat)
  | melse (site : W64)
  | mpop (site : W64)
  /-- Entry or exit of `lser` … `lsend`: the single lane the vector side runs, or none. -/
  | serial (site : W64) (lane : Option Nat)
  | brv (site target : W64) (p : Nat) (index : Option Nat)
  | vany (site : W64) (p : Nat)
  | vall (site : W64) (p : Nat)
  | bqrd (site : W64) (reg : Nat) (lane : Option Nat) (t : ElemType)
  deriving DecidableEq, Repr

/-- What the control slice awaits from the back queue, in request order (R185, R186). -/
inductive Owed where
  | pred (c : Nat)
  | scalar (s : Nat)
  | brv
  deriving DecidableEq, Repr, Inhabited

/-- An answer in the back queue (R161). -/
inductive Answer where
  | pred (b : Bool)
  | scalar (v : W64)
  /-- T, A, the lanes that share the lowest lane's target, and that target (R181). -/
  | brv (t a same target : W64)
  deriving DecidableEq, Repr

/-- Progress of a `brv`: token issued, or answered (R181). -/
inductive BrvSt where
  | asked
  | answered (t a same target : W64)
  deriving DecidableEq, Repr

/-- What a wave stands at (R167, R316). -/
inductive Wait where
  | none
  /-- A flag, a register, a queue, the vector side or another timing-only cause. -/
  | other
  /-- A leaf with hold set (R329). -/
  | hold
  | barrier | channel | sem | grant | latch | session | evict
  deriving DecidableEq, Repr, Inhabited

/-- The kinds of barrier instance (R306). -/
inductive BarKind where
  | wg | gang | masked (id : Nat)
  /-- A device barrier object, by its virtual and its physical address. -/
  | dev (va pa : Nat)
  | fabric (id : Nat)
  /-- Not a barrier: a blocking channel instruction, whose wait is bounded in the same way (R315). -/
  | chan (va pa : Nat)
  deriving DecidableEq, Repr

/-- A barrier arrival the wave has made: the instance, the generation it joined, the cycle it arrived, and its bound in
cycles, 0 for none (R305, R315). -/
structure Arrival where
  kind  : BarKind
  gen   : Nat
  start : Nat
  limit : Nat
  deriving DecidableEq, Repr

/-- A remote access of a wave (R402): who asks (0 the instruction itself, else an operation's uid; vector lanes from
1), and the answer once it has come. -/
structure Remote where
  owner  : Nat
  lane   : Nat
  id     : Nat
  answer : Option PeerAnswer
  /-- Epoch of issue (R333). -/
  stamp  : Nat
  /-- The core's buffered bytes of a load, by address, when its request left (R248). -/
  kept   : Mem := []
  /-- The control instruction that asked; and whether it waits at the other package's home and may be pre-empted there
  (R196). -/
  site   : W64 := 0
  queued : Bool := false
  /-- Where the request went. -/
  pkg    : Nat := 0
  pa     : Nat := 0
  deriving DecidableEq, Repr

/-- A relaxed store in a wave's store queue (R238): `n` bytes of `v` at a local offset or at a target. -/
structure QStore where
  loc   : Bool
  off   : Nat
  t     : Target
  n     : Nat
  v     : Nat
  /-- Epoch of issue (R333). -/
  stamp : Nat
  /-- The number of its instruction: the lanes of one are unordered (R237). -/
  grp   : Nat := 0
  deriving DecidableEq, Repr

/-- A vector load or atomic that has passed its checks and has lanes left (R237, R256, R266): its space, whether it goes past
the L1, bytes of an element, its elements by lane with their targets, the values read so far by lane, and its epoch (R333). -/
structure VecAccess where
  loc   : Bool := false
  past  : Bool := false
  n     : Nat := 0
  els   : List (Nat × Nat × Target) := []
  got   : List (Nat × Nat) := []
  stamp : Nat := 0
  deriving DecidableEq, Repr, Inhabited

/-- A gather held by the pug mill (R260): its instruction, the lanes it serves, the elements that have arrived and those
still out, by lane. -/
structure Gather where
  site    : W64
  size    : Nat
  arrived : List (Nat × Nat)
  awaited : List (Nat × Target)
  stamp   : Nat
  deriving DecidableEq, Repr, Inhabited

/-- A link loss the wave's core owes it (R248). -/
structure Loss where
  peer : Nat
  line : W64
  /-- A refused request rather than a lost link: raised as PAGE_FAULT reason 4 (R402). -/
  refused : Bool
  deriving DecidableEq, Repr, Inhabited

/-- The control side of a wave (R161). -/
structure Ctl where
  pc     : W64 := 0
  s      : Tab W64 := []
  c      : BitVec 8 := 0
  f      : BitVec 12 := 0
  crew   : W64 := 0
  clause : Option ClauseSt := Option.none
  faults : List HeldFault := []
  ops    : List PendingOp := []
  serial : Option Serial := Option.none
  /-- Stepping over parcels after an `lser` with no lane (R187). -/
  skip   : Bool := false
  depth  : Nat := 0
  queue  : List Token := []
  owed   : List Owed := []
  brv    : Option BrvSt := Option.none
  deriving DecidableEq, Repr, Inhabited

/-- Position inside a vector block (R165). -/
structure BlockPos where
  /-- Address of the `vrun`, and of the block header. -/
  site  : W64
  base  : W64
  /-- Length of the block and position of the next instruction, in parcels after the header. -/
  len   : Nat
  at_   : Nat
  iter  : Nat
  trip  : Nat
  mask  : W64
  /-- The span open when the `vrun` was issued (R349). -/
  span  : Option Nat
  deriving DecidableEq, Repr, Inhabited

/-- A level of the mask stack (R164). -/
structure MaskLevel where
  entry : W64
  act   : W64
  deriving DecidableEq, Repr, Inhabited

/-- The vector side of a wave (R161, R167). -/
structure Vec where
  /-- Lane l of register r at key 64 r + l. -/
  v      : Tab W32 := []
  p      : Tab W64 := []
  k      : Tab W64 := []
  /-- Levels d, d − 1, … held by the hardware, newest first; level 0 is implicit (R164). -/
  masks  : List MaskLevel := []
  depth  : Nat := 0
  serial : Option Nat := Option.none
  block  : Option BlockPos := Option.none
  /-- Held by a trap until `eret` (R106, R165). -/
  held   : Bool := false
  back   : List Answer := []
  /-- Stochastic-rounding state of each lane (R36). -/
  sr     : Tab W32 := []
  /-- Ordered-add counter of each lane (R147). -/
  seq    : Tab Nat := []
  gather : Option Gather := Option.none
  /-- The vector access at hand, once a lane of it has been read or asked for (R256, R266). -/
  access : Option VecAccess := Option.none
  /-- A trap met at V that has not been delivered yet (R165, R264), and losses of `mcast.st` met since, delivered after it
  (R271). -/
  pend   : Option Report := Option.none
  more   : List Report := []
  deriving DecidableEq, Repr, Inhabited

/-- The trap registers and what handler entry keeps beside the frame (R106, R112–R114). -/
structure TrapRegs where
  handler : W64 := 0
  trapen  : W64 := 0
  cause   : W64 := 0
  pc      : W64 := 0
  epc     : W64 := 0
  info0   : W64 := 0
  info1   : W64 := 0
  info2   : W64 := 0
  info3   : W64 := 0
  /-- Clause state saved at handler entry and the restart address it belongs to (R71, R106). -/
  clause  : Option ClauseSt := Option.none
  restart : W64 := 0
  /-- Whether the control slice was skipping to an `lsend` (R187). -/
  skip    : Bool := false
  /-- Pending faults set aside while the handler runs (R106). -/
  faults  : List HeldFault := []
  deriving DecidableEq, Repr, Inhabited

/-- A record of the tape (R348): its kind, its lanes' words, its bytes in the stream. -/
structure Record where
  kind  : Nat
  words : List W64
  bytes : Nat
  /-- Its place in the span's stream, from the span header. -/
  start : Nat
  deriving DecidableEq, Repr, Inhabited

/-- Span states (Table 15.1). -/
inductive SpanSt where
  | open_ | resident | spilled | dropped
  deriving DecidableEq, Repr, Inhabited

/-- A span of the tape (R349–R353): records oldest first. -/
structure Span where
  num       : Nat
  recompute : Bool
  refill    : Bool
  st        : SpanSt
  records   : List Record
  /-- Bytes the span has received, header included, popped records included. -/
  written   : Nat
  /-- Its chunks in the share and in the tape spill, by place in its stream, ascending. -/
  share     : List Nat
  spill     : List Nat
  deriving DecidableEq, Repr, Inhabited

/-- A `tspan` or `tspend` not yet in effect for the vector side (R349). -/
inductive SpanCmd where
  | begin (num : Nat) (recompute refill : Bool)
  | finish
  deriving DecidableEq, Repr

/-- Saggar state of a wave (R346–R356). -/
structure Tape where
  /-- Spans of the tape, oldest first; the last is the top span. -/
  spans   : List Span := []
  /-- Boundaries the control side has set and the vector side has not reached: with the number of tokens that were
  issued before each. -/
  pending : List (Nat × SpanCmd) := []
  /-- Control-side open flag: the number of the open span. -/
  open_   : Option Nat := Option.none
  count   : Nat := 0
  spilled : Nat := 0
  dropped : Nat := 0
  /-- Add-log reservations in bytes (R347, R358). -/
  log     : Nat := 0
  /-- Of each 256-byte place of the tape spill, from its foot: the number of the free bytes that a spill left there; none once
  they have been found changed (R355; log entry 31). -/
  notes   : List (Option Nat) := []
  deriving DecidableEq, Repr, Inhabited

/-- A wave: one slot of one core. -/
structure Wave where
  st      : WaveSt := WaveSt.free
  id      : WaveId := {}
  ctl     : Ctl := {}
  vec     : Vec := {}
  trap    : TrapRegs := {}
  tape    : Tape := {}
  /-- The wave's 4 KiB prologue area and its scratch allotment (R156), by offset within each. -/
  prol    : Mem := []
  scratch : Mem := []
  /-- Own tile t at key t: physical tile + 1; 0 where it does not exist (R275). -/
  tiles   : Tab Nat := []
  losses  : List Loss := []
  wait    : Wait := Wait.none
  arrival : Option Arrival := Option.none
  remote  : List Remote := []
  /-- Tokens issued since wave start; counts the vector side's progress for R349. -/
  issued  : Nat := 0
  taken   : Nat := 0
  /-- The store queue, oldest first; whether its stores stay in it until a choice or an order performs them; and the
  first L1 fill this wave's loads may still hit (R233, R238; log entry 6). -/
  stq     : List QStore := []
  keep    : Bool := false
  since   : Nat := 0
  /-- Whether its vector loads read their lanes at instants of their own (R237; log entry 6). -/
  split   : Bool := false
  deriving DecidableEq, Repr, Inhabited

/-! ### A core -/

/-- A line of the L1 (R233): its block of 256 bytes by the key of its first byte, its bytes, and the number of its
fill. -/
structure L1Line where
  key   : Nat
  bytes : List Byte
  no    : Nat
  deriving DecidableEq, Repr, Inhabited

/-- Who owns a physical tile (Table 12.1). -/
inductive TileOwner where
  | free
  | wave (w : Nat)
  | pinned (n : Nat)
  deriving DecidableEq, Repr, Inhabited

/-- A weight plane (R279): element k, j at key 32 k + j; q4 type field of column j at key j. -/
structure Plane where
  w       : Tab W32 := []
  type    : ElemType := ElemType.f32
  blocked : Bool := false
  qt      : Tab Nat := []
  loaded  : Bool := false
  deriving DecidableEq, Repr, Inhabited

/-- A member joined in a latch entry: its operation, the tokens issued before it, and its first fragment register. -/
structure LatchJoin where
  member : Nat
  uid    : Nat
  mark   : Nat
  reg    : Nat
  /-- The trap of this member alone that the operation met (R283). -/
  trap   : Option Report := Option.none
  deriving DecidableEq, Repr, Inhabited

/-- An entry of the rendezvous latch (R284): the crew value, the first arrival's mnemonic, fields (a left out) and
captured values, the members joined; whether it has closed, and how the operation ended: whole, or with a trap. -/
structure LatchEntry where
  crew   : W64
  gang   : Nat
  kind   : Nat
  form   : Form
  caps   : Caps
  joined : List LatchJoin
  closed : Bool
  ended  : Option (Option Report)
  deriving DecidableEq, Repr

/-- A write-combining entry (R248): peer, line, bytes by offset, first-store cycle, contributing waves, the context of its
first store. -/
structure WcbEntry where
  peer  : Nat
  line  : Nat
  cells : Mem
  since : Nat
  waves : List Nat
  stamp : Nat
  ctx   : Nat := 0
  deriving DecidableEq, Repr, Inhabited

/-- The owner of a matrix session (R280): a crew value of a gang, or one wave. -/
structure Owner where
  gang : Nat
  crew : W64
  wave : Nat
  deriving DecidableEq, Repr, Inhabited

/-- One core (R15). -/
structure CoreSt where
  owner   : Tab TileOwner := []
  /-- Entry i, j of physical tile t at key 1024 t + 32 i + j; +0 where unlisted (R31). -/
  entries : Tab W48 := []
  front   : Plane := {}
  shadow  : Plane := {}
  session : Option Owner := Option.none
  waiting : List Owner := []
  latch   : List LatchEntry := []
  /-- The package's own cycle count when a session was last opened or the latch last closed (R302). -/
  opened  : Nat := 0
  wcb     : List WcbEntry := []
  /-- The L1's lines, whether it keeps the lines that loads fill, and the fills so far (R233; log entry 6). -/
  l1      : List L1Line := []
  caching : Bool := false
  fills   : Nat := 0
  /-- The fills that an acquire of some wave of the core bypasses (R233, R240). -/
  since   : Nat := 0
  /-- Stores that have left a wave's queue and are not performed at their homes yet, oldest first, with their wave; whether
  stores stop there (R20, R238, R243; log entry 6). -/
  out     : List (Nat × QStore) := []
  slow    : Bool := false
  /-- Slot each side last issued from (R160; log entry 4). -/
  lastCtl : Nat := 0
  lastVec : Nat := 0
  deriving DecidableEq, Repr, Inhabited

/-! ### Gangs, kernels, graphs -/

/-- Gang states (Table 7.2). Unplaced gangs have no record; Retired and Terminated ones have left it. -/
inductive GangSt where
  | absent | resident | granted | draining | saved
  deriving DecidableEq, Repr, Inhabited

/-- A barrier instance inside a gang (R306, R309): generation, members arrived, fixed mask. -/
structure Bar where
  gen     : Nat := 0
  arrived : List Nat := []
  mask    : W64 := 0
  deriving DecidableEq, Repr, Inhabited

/-- A gang (R151–R159). -/
structure Gang where
  st      : GangSt := GangSt.absent
  ctx     : Nat := 0
  kern    : Nat := 0
  /-- Gang id within the kernel (R141). -/
  index   : Nat := 0
  /-- Wave indices of the members in member order. -/
  waves   : List Nat := []
  exited  : List Nat := []
  request : Bool := false
  /-- `bar.wg` of workgroup g at key g; `bar.gang` at 16; `bar.m` id at 32 + id. -/
  bars    : Tab Bar := []
  /-- Prior state of a saved gang. -/
  granted : Bool := false
  /-- One more than the cycle of each workgroup's first issue (R149), and the workgroups stopped at an overrun (R102). -/
  starts  : Tab Nat := []
  stops   : List Nat := []
  /-- Terminated, its pending operations still completing (R155). -/
  dead    : Bool := false
  deriving DecidableEq, Repr, Inhabited

/-- Kernel states (Table 6.1); an aborting kernel is Aborted, its gangs still ending (R126, R155). -/
inductive KernSt where
  | absent | admitted | running | committing | complete | aborting | aborted
  deriving DecidableEq, Repr, Inhabited

/-- What started a kernel: a queue's packet with its sequence number, or a graph node. -/
inductive Source where
  | none
  | packet (ctx q seq : Nat)
  | node (graph node : Nat)
  deriving DecidableEq, Repr, Inhabited

/-- A kernel descriptor (R138). -/
structure KDesc where
  width   : Nat := 0
  level   : Nat := 0
  nfen    : Bool := false
  pair    : Bool := false
  gangwg  : Nat := 1
  wgwaves : Nat := 1
  nphases : Nat := 1
  argsz   : Nat := 0
  maxgc   : Nat := 0
  entry   : W64 := 0
  handler : W64 := 0
  regs    : Nat := 16
  tiles   : Nat := 0
  scratch : Nat := 0
  tape    : Nat := 0
  deriving DecidableEq, Repr, Inhabited

/-- LAUNCH body (R129). -/
structure Launch where
  args    : W64 := 0
  gx      : Nat := 1
  gy      : Nat := 1
  gz      : Nat := 1
  seed    : W64 := 0
  spill   : W64 := 0
  spillsz : Nat := 0
  cmpl    : W64 := 0
  deriving DecidableEq, Repr, Inhabited

/-- A kernel (R135). -/
structure Kernel where
  st      : KernSt := KernSt.absent
  ctx     : Nat := 0
  source  : Source := Source.none
  desc    : KDesc := {}
  launch  : Launch := {}
  phase   : Nat := 0
  /-- Gangs of the phase placed and tasks retired. -/
  placed  : Nat := 0
  retired : Nat := 0
  prio    : Nat := 0
  age     : Nat := 0
  seq     : Nat := 0
  /-- Status of an abort, its cause and its report (R132, R133). -/
  status  : Nat := 0
  cause   : Nat := 0
  report  : Option Report := Option.none
  deriving DecidableEq, Repr, Inhabited

/-- A running dependence graph (R193). -/
structure Graph where
  ctx      : Nat := 0
  base     : W64 := 0
  count    : Nat := 0
  sem      : W64 := 0
  prio     : Nat := 0
  /-- Wave and operation uid of a `grun`, or the packet. -/
  source   : Source := Source.none
  wave     : Nat := 0
  live     : Bool := false
  launched : List Nat := []
  ready    : List Nat := []
  /-- SIGNAL nodes into peer windows: node, request, and the answer once it has come; and COPY nodes whose bytes are
  performed, or met a fault, with request 0. -/
  asked    : List (Nat × Nat × Option Bool) := []
  /-- COPY nodes and SIGNAL nodes into peer windows on their way, with their epoch of issue (R333) and the last number used
  then. -/
  copies   : List (Nat × Nat × Nat) := []
  deriving DecidableEq, Repr, Inhabited

/-! ### Contexts, queues, pages -/

/-- Context states with their codes (Table 4.1). -/
inductive CtxSt where
  | empty | ready | running | suspending | suspended | restoring | halted | destroying
  deriving DecidableEq, Repr, Inhabited

/-- A job binding (R400): whether it has a mirror table, and the mirrored ranges as device pages, in the order of the mirror
(R416). -/
structure Job where
  num     : Nat := 0
  buddy   : Nat := 0
  grace   : Nat := 0
  mirrors : Bool := false
  mirror  : List (Nat × Nat) := []
  mirbase : W64 := 0
  anchor  : W64 := 0
  ancsz   : Nat := 0
  deriving DecidableEq, Repr, Inhabited

/-- A page the trimmer has freed: its `evict`, its index, its remap entry and the address of its free list (R344). -/
structure Trimmed where
  uid   : Nat
  index : Nat
  data  : W64
  info  : W64
  list  : W64
  deriving DecidableEq, Repr

/-- Frame states (Table 14.1), by the first frame of a page; Free and Mapped frames are not listed. -/
inductive FrameSt where
  | plain
  | held (to_ : Nat)
  /-- A page of so many frames, Cooling since a free epoch. -/
  | cooling (frames epoch : Nat) (entry : Option Trimmed)
  /-- Named by an entry of a free list. -/
  | pooled (entry : Trimmed)
  deriving DecidableEq, Repr, Inhabited

/-- A page command in progress (R330, R331, R335). -/
inductive PageCmd where
  | none
  /-- INV of a range of virtual addresses, or INVALL of all. -/
  | inv (epoch first last : Nat)
  /-- MIGRATE of a page: operations numbered below `before` were issued before its hold was set. -/
  | migrate (epoch : Nat) (leaf old new_ before : Nat)
  deriving DecidableEq, Repr, Inhabited

/-- The page region block of a context (R330). -/
structure PageBlock where
  cmd     : W64 := 0
  arg0    : W64 := 0
  arg1    : W64 := 0
  err     : Bool := false
  errcode : Nat := 0
  doing   : PageCmd := PageCmd.none
  deriving DecidableEq, Repr, Inhabited

/-- A saved context (R98): waves and gangs as they stood with their saved core and slot, the cores' tiles and planes
by saved core index, and the placement's pairs it needs. -/
structure Save where
  waves : List (Nat × Wave)
  gangs : List (Nat × Gang)
  cores : List (Nat × CoreSt)
  pairs : Nat
  deriving DecidableEq, Repr

/-- A leaf translation that the package holds in a cache (R329): level, page number at that level, entry and its address. -/
structure CachedLeaf where
  lvl   : Nat
  page  : Nat
  e     : Nat
  entry : Nat
  deriving DecidableEq, Repr, Inhabited

/-- A context slot (R87–R118, R330, R400). -/
structure Ctx where
  st       : CtxSt := CtxSt.empty
  level    : Nat := 0
  light    : Bool := false
  mrAbort  : Bool := false
  muHalt   : Bool := false
  pgroot   : Nat := 0
  savebase : W64 := 0
  evrec    : W64 := 0
  pairs    : List Nat := []
  ways     : List Nat := []
  pcgroups : List Nat := []
  /-- Bytes of a pseudo-channel group of the part (R93). -/
  gbytes   : Nat := 3 * 2 ^ 30
  /-- Cached leaf translations, and whether accesses use them at present (R329; log entry 6). -/
  tlb      : List CachedLeaf := []
  tlbOn    : Bool := false
  /-- The leaf whose hold an access issued before its migration does not meet (R335). -/
  lifted   : Option Nat := Option.none
  cmd      : W64 := 0
  busy     : Bool := false
  cmderr   : Bool := false
  evpend   : Bool := false
  overrun  : Bool := false
  evcode   : Nat := 0
  /-- SUSPEND with release in progress or done (R98, R100). -/
  release  : Bool := false
  /-- The state a restore returns to, and the placement a RESUME named. -/
  place    : List Nat := []
  save     : Option Save := Option.none
  /-- Order of starts (R126). -/
  starts   : Nat := 0
  /-- Queue of a LEVEL in progress and its new level (R131). -/
  levelQ   : Option (Nat × Nat) := Option.none
  /-- That LEVEL's packet and completion record. -/
  levelN   : Nat := 0
  levelCmpl : Nat := 0
  page     : PageBlock := {}
  frames   : Tab FrameSt := []
  /-- Pages of device memory named by valid leaves when the page table was last looked at: virtual address, first frame
  and frames (R332; log entry 22). -/
  mapped   : List (Nat × Nat × Nat) := []
  /-- `evict` operations whose trimming is done, with the pages each keeps (R344). -/
  trimmed  : List (Nat × Nat) := []
  /-- Posts of the walker into peer windows on their way: request and epoch of issue (R193, R333). -/
  posts    : List (Nat × Nat) := []
  /-- The package's own cycle count when the context was last stopped (R305). -/
  stopAt   : Nat := 0
  /-- Epoch at which DESTROY was accepted (R89). -/
  dieAt    : Nat := 0
  lkjob    : W64 := 0
  jobst    : Nat := 0
  joberr   : Nat := 0
  job      : Job := {}
  /-- `allred` instructions issued per group, and fabric barrier arrivals per barrier (R313, R413). -/
  allreds  : Tab Nat := []
  /-- Lines written since the last commit (R416). -/
  mirrored : List Nat := []
  /-- The mirror's stores of the commit at hand still unanswered, and how far the commit is: 0 none, 1 lines, 2 header
  (R416). -/
  mirOut   : List Nat := []
  mirStep  : Nat := 0
  mirKern  : Nat := 0
  /-- Epoch of those stores (R333). -/
  mirAt    : Nat := 0
  /-- Lines and bytes that the commit at hand sends: lines of the mirror past its header, by number. -/
  mirSent  : List Nat := []
  mirNext  : List (Nat × List Byte) := []
  /-- Lines of the mirror as of the last commit, so far as this package has sent them; the header of that commit; whether a
  full mirror is owed to a package that takes the buddy's place (R416–R418). -/
  mirCopy  : List (Nat × List Byte) := []
  mirHead  : List Byte := []
  mirFull  : Bool := false
  deriving DecidableEq, Repr, Inhabited

/-- Queue states with their codes (Table 5.1). -/
inductive QueueSt where
  | disabled | idle | active | waiting | held | error | stopping
  deriving DecidableEq, Repr, Inhabited

/-- A command line as fetched (R124). -/
structure Line where
  type    : Nat := 0
  barrier : Bool := false
  abortst : Bool := false
  seq     : Nat := 0
  next    : W64 := 0
  cmpl    : W64 := 0
  body    : List Byte := []
  /-- The kernel descriptor of a LAUNCH, read with its line (R139). -/
  desc    : KDesc := {}
  deriving DecidableEq, Repr, Inhabited

/-- A packet that has started (R126, R127). -/
structure Packet where
  /-- Its own number: its sequence number in the low 32 bits. -/
  seq  : Nat
  type : Nat
  done : Bool
  /-- A LAUNCH or GRAPH that abortstop counts (R127). -/
  counted : Bool
  /-- Completion record of a FENCE. -/
  cmpl : Nat
  deriving DecidableEq, Repr, Inhabited

/-- A SIGNAL whose word lies in a peer window (R130): its request, its packet, completion record and address, and its
epoch of issue (R333). -/
structure PeerSignal where
  id   : Nat
  n    : Nat
  cmpl : Nat
  addr : Nat
  stamp : Nat := 0
  deriving DecidableEq, Repr, Inhabited

/-- A queue of a context (R119–R127). -/
structure Queue where
  st      : QueueSt := QueueSt.disabled
  prior   : QueueSt := QueueSt.idle
  head    : W64 := 0
  tail    : W64 := 0
  prio    : Nat := 0
  enable  : Bool := false
  headseq : Nat := 0
  errcode : Nat := 0
  cmderr  : Bool := false
  errpend : Bool := false
  /-- Lines published as of the last read of the tail word (R125). -/
  seen    : Nat := 0
  /-- The checked head packet. -/
  line    : Option Line := Option.none
  /-- One more than the package's own cycle count when the head WAIT was first evaluated; 0 before that (R130, R428). -/
  since   : Nat := 0
  packets : List Packet := []
  /-- A SIGNAL into a peer window on its way. -/
  signal  : Option PeerSignal := Option.none
  /-- A LAUNCH or GRAPH counted by abortstop completed with another status than OK (R127). -/
  failed  : Bool := false
  deriving DecidableEq, Repr, Inhabited

/-! ### Memory side -/

/-- A range of the range-lock table (R245), rounded outward to 64 bytes. -/
structure Lock where
  engine : Nat
  /-- Local space of a gang, or global space of a context. -/
  local_ : Bool
  owner  : Nat
  first  : Nat
  len    : Nat
  dst    : Bool
  uid    : Nat
  deriving DecidableEq, Repr, Inhabited

/-- An ordered add in flight or held for commit (R246, R359): a lane add of an f32 word, or a tile add. -/
structure HeldAdd where
  uid    : Nat
  kern   : Nat
  pa     : Nat
  key    : Nat
  value  : W32
  tile   : List W48
  /-- Reached its glaze unit. -/
  home   : Bool
  bytes  : Nat
  wave   : Nat
  /-- Epoch of issue (R333). -/
  stamp  : Nat
  /-- The render adjoint that made it, whose lanes' adds keep no order among themselves; 0 for any other add (R267,
  R390). -/
  group  : Nat := 0
  /-- Its reservation in the add log, and the number of the free bytes written there where it waits in the log (R358, R359). -/
  logVa  : Nat := 0
  note   : Option Nat := Option.none
  deriving DecidableEq, Repr

/-- A completion record that waits for a page in migration (R132, R329): its context, address and bytes; and the queue,
packet and status it completes. -/
structure LateRecord where
  ctx    : Nat
  va     : Nat
  bytes  : List Byte
  packet : Option (Nat × Nat × Nat)
  deriving DecidableEq, Repr

/-- A wave or peer waiting in a channel or at a semaphore (R196, R317). -/
structure Waiter where
  wave  : Nat
  /-- The sender and request id of a peer's `semw`. -/
  peer  : Option (Nat × Nat)
  value : W64
  push  : Bool
  /-- Destination and status register of a waiting channel instruction, and its parcels. -/
  d     : Nat := 0
  c     : Nat := 0
  n     : Nat := 0
  /-- Epoch at which a peer's was accepted (R333). -/
  stamp : Nat := 0
  deriving DecidableEq, Repr, Inhabited

/-- The channel buffer of a header in use (R317). -/
structure Chan where
  values  : List W64 := []
  waiters : List Waiter := []
  deriving DecidableEq, Repr, Inhabited

/-- Bodies of messages that leave the package or a switch (R405). -/
inductive MsgBody where
  | req (r : PeerReq)
  | resp (r : PeerResp)
  /-- An `mcast.st` line for the switch, by its number. -/
  | mcast (line : Nat)
  /-- A fabric barrier arrival, with its time once it has left the package (R313). -/
  | fbarArrive (job id member : Nat) (time : Option W64)
  | allred (c : Contribution)
  /-- Back-invalidate of a host line (R250). -/
  | hostInval (line : Nat)
  /-- The value a host load over CXL.mem returns (R250), or a register read over CXL.io (R419). -/
  | hostData (bytes : List Byte)
  /-- A snoop response (R232). -/
  | hostSnoop (line : Nat)
  deriving DecidableEq, Repr

/-- A message of this package: destination, the tick it was created in, body. -/
structure Msg where
  dest : Nat
  tick : Nat
  body : MsgBody
  deriving DecidableEq, Repr

/-! ### Fabric -/

/-- Fabric port states with their codes (Table 17.1). -/
inductive PortSt where
  | disabled | training | up | degraded | lost
  deriving DecidableEq, Repr, Inhabited

/-- A fabric port (R394, R396). -/
structure Port where
  st     : PortSt := PortSt.disabled
  enable : Bool := false
  width  : Nat := 0
  peer   : Nat := 0
  /-- Replays failed in a row. -/
  fails  : Nat := 0
  deriving DecidableEq, Repr, Inhabited

/-- Multicast member states (Table 17.3), with window base and acknowledgement area (frame addresses). -/
structure McMember where
  pkg   : Nat
  bound : Bool
  revoked : Bool
  /-- Frame address of each 4 KiB page of the window, by page from the base's, and the place of the base in its page. -/
  window : List Nat
  first  : Nat
  ack    : Nat
  /-- Virtual address of the window in the context that bound it, for the range-lock table (Table 11.4). -/
  base   : Nat := 0
  deriving DecidableEq, Repr, Inhabited

/-- A multicast group entry (R407). -/
structure McGroup where
  job     : Nat
  id      : Nat
  lines   : Nat
  members : List McMember
  /-- Number of the next collective (R413). -/
  next    : Nat := 0
  deriving DecidableEq, Repr, Inhabited

/-- An `mcast.st` line on its way (R270, R411): the response of each member, none while awaited; 0xFF positive. -/
structure McLine where
  wave    : Nat
  site    : W64
  ctx     : Nat
  job     : Nat
  group   : Nat
  off     : Nat
  cells   : List (Nat × Byte)
  /-- Tick of its creation; whether the switch has replicated it. -/
  tick    : Nat
  sent    : Bool
  answers : List (Nat × Option Nat)
  /-- Requests to other members: member and request. -/
  remote  : List (Nat × Nat)
  dest    : Nat
  lanes   : W64
  /-- Epoch of issue (R333). -/
  stamp   : Nat := 0
  /-- The block position of the store, and the blocks its wave had finished. -/
  pos     : Option BlockPos := Option.none
  taken   : Nat := 0
  deriving DecidableEq, Repr, Inhabited

/-- A fabric barrier in the switch (R312–R314): arrivals of the current generation, and the cone record. -/
structure FBar where
  job     : Nat
  id      : Nat
  frac    : Nat
  need    : Nat
  members : List Nat
  /-- Deque of this package's member by its device address, and the place of the cone copy in pieces. -/
  deque   : Option Nat
  cone    : List (Nat × Nat)
  /-- Arrivals of member m at key m; generations released. -/
  counts  : Tab Nat
  gen     : Nat
  /-- Last 16 arrival times of each member, oldest first, in cycles and as raw values. -/
  times   : List (List (Nat × W64))
  /-- Release times of the last 17 generations, oldest first, in cycles. -/
  releases : List Nat
  lags    : List (List Bool)
  stealable : List Bool
  /-- Generations whose release has been delivered at this package. -/
  delivered : Nat
  deriving DecidableEq, Repr, Inhabited

/-- A collective in progress (R413). -/
structure Coll where
  job   : Nat
  group : Nat
  k     : Nat
  op    : AllredOp
  t     : ElemType
  count : Nat
  size  : Nat
  parts : List (Nat × List W64)
  result : Option (List W64)
  deriving DecidableEq, Repr

/-- A collective this package has contributed to (R413): the operation that waits; the collective it joined; 0 sent,
1 turned away, 2 joined, 3 result written, 4 its group freed; the destination as physical pieces. -/
structure OwnRed where
  uid   : Nat
  job   : Nat
  group : Nat
  k     : Nat
  st    : Nat
  dst   : List (Nat × Nat)
  deriving DecidableEq, Repr

/-- A message that has reached the package or its switch role (R405). -/
inductive FabMsg where
  | peerReq (r : PeerReq)
  | peerResp (r : PeerResp)
  | fbarArrive (job id member : Nat) (time : W64)
  | contribution (c : Contribution)
  | replica (id : Nat)
  /-- A member's response to a line of this package, at level 2. -/
  | mcastReply (id member reason : Nat)
  /-- Messages of the switch role. -/
  | release (job id gen : Nat)
  | result (job group k : Nat)
  | mcastAck (id : Nat)
  deriving DecidableEq, Repr

/-- A message held for an exchange boundary: its sender (a switch stands after every package), the tick it was created
in (R405). -/
structure HeldMsg where
  sender : Nat
  tick   : Nat
  msg    : FabMsg
  deriving DecidableEq, Repr

/-- The fabric side of the package and the switch role (R391–R418). -/
structure Fabric where
  pkg      : Nat := 0
  mode     : Bool := false
  set      : Bool := false
  ticklen  : Nat := 2
  sync     : Bool := false
  ports    : Tab Port := []
  host     : HostLink := HostLink.down
  /-- Exchange ticks, and core cycles since the current tick began (R404). -/
  tick     : Nat := 0
  sub      : Nat := 0
  /-- Packages that have closed a tick (R406). -/
  closes   : List (Nat × Nat) := []
  /-- Level-2 messages waiting for a boundary, in order of arrival (R405), and the boundaries processed (R406). -/
  held     : List HeldMsg := []
  bound    : Nat := 0
  outbox   : List Msg := []
  groups   : List McGroup := []
  lines    : Tab (Option McLine) := []
  fbars    : List FBar := []
  colls    : List Coll := []
  reds     : List OwnRed := []
  /-- Room used in the anchor area of each job (R400). -/
  room     : Tab Nat := []
  /-- Tick length with which each job was first bound (R400). -/
  ticks    : Tab Nat := []
  /-- Packages without a route, each with the tick and the cycle of the loss (R414, R415); the same of the loss of the last
  port of this package; the LINK_DOWN events delivered since, by context and package. -/
  lost     : List (Nat × Nat × Nat) := []
  cut      : Option (Nat × Nat) := Option.none
  downs    : List (Nat × Nat) := []
  deriving DecidableEq, Repr

/-! ### Device -/

/-- A response of the Falja port (R423, R425). -/
inductive Falja where
  | value (status : Nat) (v : W64)
  | status (status : Nat)
  | log (errlog cecnt : W64) (ctxs : List (Nat × W64))
  | attest (status : Nat) (nonce : BitVec 256) (measured : BitVec 768) (sig key : List Byte)
  | mctp (msg : List Byte)
  deriving DecidableEq, Repr

/-- The forms of Table 0.1. -/
inductive PartForm where
  | p | m768 | m512
  deriving DecidableEq, Repr, Inhabited

/-- The device as a whole (R419–R430). -/
structure Device where
  /-- The form of the part, fixed for its life (R1; log entry 12). -/
  form      : PartForm := PartForm.m768
  sb        : Bool := false
  pg        : Bool := false
  fe        : Bool := false
  fw        : Bool := false
  hbm       : BitVec 16 := 0
  die       : BitVec 12 := 0
  cecnt     : Nat := 0
  errValid  : Bool := false
  thermal   : Bool := false
  errSource : Nat := 0
  errAddr   : Nat := 0
  /-- Update window: word n at key n (R420). -/
  window    : Tab W64 := []
  flash     : List Byte := []
  rollback  : Nat := 0
  leaf      : Nat := 0
  standby   : Bool := true
  cap       : Nat := 3200
  inletCap  : Nat := 3200
  shut      : Bool := false
  stopped   : Bool := false
  gated     : Bool := false
  falja     : List Falja := []
  /-- Uncorrectable granules (R430): array and granule number. -/
  bad       : List (MemArray × Nat) := []
  /-- Bytes that a store instruction, by its number, has written so far of an uncorrectable granule (R430). -/
  part      : List (MemArray × Nat × Nat × List Nat) := []
  /-- 64-byte lines of device memory the host holds in its caches (R250). -/
  hostLines : List Nat := []
  deriving DecidableEq, Repr

/-! ### The machine -/

/-- A choice among outcomes that the memory model allows (log entry 6), or an access of the host that no row of the table
stands for. -/
inductive Choice where
  /-- Whether a wave's relaxed stores stay in its store queue (R238). -/
  | keep (w : Nat) (on : Bool)
  /-- Store `i` of a wave's queue leaves it: the oldest, or a lane of the oldest store instruction (R237). -/
  | perform (w i : Nat)
  /-- Whether the stores of a core's waves are performed at their homes later, and the arrival of one there (R20, R243). -/
  | slow (core : Nat) (on : Bool)
  | arrive (core i : Nat)
  /-- Whether a wave's vector loads read their lanes one by one, and the read of one (R237). -/
  | split (w : Nat) (on : Bool)
  | readLane (w lane : Nat)
  /-- Whether a core's L1 keeps the lines its loads fill (R233), and the eviction of one. -/
  | caching (core : Nat) (on : Bool)
  | evict (core key : Nat)
  /-- The leaf of an address enters the context's translation caches; whether accesses use them (R329). -/
  | cacheLeaf (ctx va : Nat)
  | useLeaves (ctx : Nat) (on : Bool)
  /-- A register read over CXL.io (R419). -/
  | ioRead (off n : Nat)
  /-- The last route to a package closes while ports of this one are up, and one opens again (R397, R414, R415). -/
  | routeLost (pkg : Nat)
  | routeBack (pkg : Nat)
  /-- An ordered add waits in its reservation of the add log, the buffer being full (R359). -/
  | logAdd (uid : Nat)
  /-- A context's full mirror leaves for the package that takes its buddy's place (R417). -/
  | fullMirror (ctx : Nat)
  deriving DecidableEq, Repr

/-- What acts next: the control stream or the vector side of a wave, a step without an encoding, or a choice. -/
inductive Act where
  | ctl (w : Nat)
  | vec (w : Nat)
  | ev (i : Instr)
  | choose (c : Choice)
  deriving DecidableEq, Repr

/-- The whole state. -/
structure State where
  dv       : Device
  fab      : Fabric
  /-- Device memory by device physical address (R327), and host memory by host physical address. -/
  mem      : Mem
  hostMem  : Mem
  /-- Wave slot at key (die · 128 + core) · 32 + slot. -/
  waves    : Tab Wave
  cores    : Tab CoreSt
  gangs    : Tab Gang
  kernels  : Tab Kernel
  graphs   : Tab Graph
  ctxs     : Tab Ctx
  /-- Queue q of context c at key 16 c + q. -/
  queues   : Tab Queue
  locks    : List Lock
  /-- Who waits to enter a range, in order, with its context (R245). -/
  lockq    : List (Nat × Nat)
  /-- Completion records that wait for a page in migration. -/
  late     : List LateRecord
  adds     : List HeldAdd
  chans    : Tab Chan
  sems     : Tab (List Waiter)
  /-- Ingress atomic cache: line and expiry cycle (R249). -/
  leases   : List (Nat × Nat)
  epoch    : Nat
  /-- Core cycles since device reset, and those of them no control held back (R199, R428). -/
  cycle    : Nat
  own      : Nat
  /-- One more than the own cycle count since which every wave of a context waits with nothing under way (R316). -/
  idleSince : Tab Nat
  /-- Waves that go on while their context is Suspending, because a pending operation waits for them, and whether both streams
  do or the vector side alone (R97; log entry 77). -/
  onward   : List (Nat × Bool)
  /-- The model's own fields (log entries 5 and 10): what acts next, the wave whose instruction runs, the count of
  free values used, the next unique number. -/
  sched    : List Act
  cur      : Nat
  free     : Nat
  uid      : Nat
  deriving DecidableEq, Repr

/-- The package right after device reset (R421): no function ready, no context, nothing placed. -/
def State.reset : State where
  dv := {}
  fab := {}
  mem := []
  hostMem := []
  waves := []
  cores := []
  gangs := []
  kernels := []
  graphs := []
  ctxs := []
  queues := []
  locks := []
  lockq := []
  late := []
  adds := []
  chans := []
  sems := []
  leases := []
  epoch := 0
  cycle := 0
  own := 0
  idleSince := []
  onward := []
  sched := []
  cur := 0
  free := 0
  uid := 0

end Sys2Proof.Machine
end

