-- ==== Sys2Proof/Machine/Ops.lean ====
section
/-!
DEFINITION. The named operations over the state: registers, translation, checks, memory, range locks, traps and the
return from them, kernel and gang termination, and the advance of both streams.
-/
namespace Sys2Proof.Machine

/-! ### Waves and cores -/

/-- The core of a wave slot, 0–1,535; its die; its pair 64 d + j. -/
def coreOf (w : Nat) : Nat := w / 32
def dieOf (w : Nat) : Nat := w / 4096
def pairOfCore (c : Nat) : Nat := c / 2

/-- A wave slot, changed. -/
def State.setWave (s : State) (i : Nat) (w : Wave) : State := { s with waves := s.waves.put i w }
def State.modWave (s : State) (i : Nat) (f : Wave → Wave) : State := s.setWave i (f (s.waves.get i))

/-- The wave whose instruction runs. -/
def State.me (s : State) : Wave := s.waves.get s.cur
def State.modMe (s : State) (f : Wave → Wave) : State := s.modWave s.cur f

def State.modCore (s : State) (i : Nat) (f : CoreSt → CoreSt) : State := { s with cores := s.cores.modify i f }
def State.modGang (s : State) (i : Nat) (f : Gang → Gang) : State := { s with gangs := s.gangs.modify i f }
def State.modKern (s : State) (i : Nat) (f : Kernel → Kernel) : State := { s with kernels := s.kernels.modify i f }
def State.modCtx (s : State) (i : Nat) (f : Ctx → Ctx) : State := { s with ctxs := s.ctxs.modify i f }
def State.modQueue (s : State) (i : Nat) (f : Queue → Queue) : State := { s with queues := s.queues.modify i f }
def State.modGraph (s : State) (i : Nat) (f : Graph → Graph) : State := { s with graphs := s.graphs.modify i f }

/-- s[n]; s0 reads as zero (R60). -/
def Wave.getS (w : Wave) (n : Nat) : W64 := if n = 0 then 0 else w.ctl.s.get n
/-- A write of s[n]; a write to s0 is discarded (R60). -/
def Wave.setS (w : Wave) (n : Nat) (x : W64) : Wave :=
  if n = 0 then w else { w with ctl := { w.ctl with s := w.ctl.s.put n x } }
/-- c[n]; c0 reads as true (R60). -/
def Wave.getC (w : Wave) (n : Nat) : Bool := n == 0 || w.ctl.c.getLsbD n
/-- A write of c[n]; a write to c0 is discarded (R60). -/
def Wave.setC (w : Wave) (n : Nat) (b : Bool) : Wave :=
  if n = 0 then w
  else { w with ctl := { w.ctl with
    c := (w.ctl.c &&& ~~~(1#8 <<< n)) ||| (if b then 1#8 <<< n else 0#8) } }
/-- Lane l of v[r]. -/
def Wave.getV (w : Wave) (r l : Nat) : W32 := w.vec.v.get (64 * r + l)
def Wave.setV (w : Wave) (r l : Nat) (x : W32) : Wave :=
  { w with vec := { w.vec with v := w.vec.v.put (64 * r + l) x } }
/-- The 64-bit value of the pair v[r], v[r + 1] (R60). -/
def Wave.getV64 (w : Wave) (r l : Nat) : W64 := w.getV (r + 1) l ++ w.getV r l
def Wave.setV64 (w : Wave) (r l : Nat) (x : W64) : Wave :=
  (w.setV r l (x.setWidth 32)).setV (r + 1) l (x.extractLsb' 32 32)
/-- The lane mask of p[n]; p0 reads as true (R60). -/
def Wave.getP (w : Wave) (n : Nat) : W64 := if n = 0 then allLanes w.id.width else w.vec.p.get n
/-- A write of p[n] in the lanes of a mask; a write to p0 is discarded (R60). -/
def Wave.setP (w : Wave) (n : Nat) (m x : W64) : Wave :=
  if n = 0 then w
  else { w with vec := { w.vec with p := w.vec.p.put n ((w.vec.p.get n &&& ~~~m) ||| (x &&& m)) } }

/-- The value of a source register or literal of the control stream under a type (R61, R62, R170). -/
def Wave.src (w : Wave) (t : ElemType) (x : Src) : Nat :=
  match x with
  | .reg n => (w.getS n).toNat % 2 ^ t.width
  | .lit v => if t = .n64 || t = .b64 then v.toNat else wrapNat t.width (signedOf 32 v.toNat)
  | .imm i => wrapNat t.width i
  | .kconst n => (w.vec.k.get n).toNat % 2 ^ t.width
  | .lane | .iter => 0

/-- st.trapcause.nest: a handler runs (R113). -/
def Wave.nest (w : Wave) : Bool := w.trap.cause.getLsbD 10

/-- st.trapcause.stream: the trap served came from the vector side. -/
def Wave.vecTrap (w : Wave) : Bool := w.trap.cause.getLsbD 8

/-- The kernel, descriptor, gang and context of a wave. -/
def State.kernOf (s : State) (w : Wave) : Kernel := s.kernels.get w.id.kern
def State.gangOf (s : State) (w : Wave) : Gang := s.gangs.get w.id.gang
def State.ctxOf (s : State) (w : Wave) : Ctx := s.ctxs.get w.id.ctx

/-- `st.level` of a wave: the level its kernel was admitted under (R95). -/
def State.levelOf (s : State) (w : Wave) : Nat := (s.kernOf w).desc.level

/-- A fresh number. -/
def State.fresh (s : State) : Nat × State := (s.uid + 1, { s with uid := s.uid + 1 })

/-! ### Stops of an effect -/

/-- How an effect ends without taking place: a trap; uncorrectable data at a physical address (R111); or a wait, with
whatever the wait has already set going (a request sent). A trap may leave part of the effect standing (R266). -/
inductive Stop where
  | trap (r : Report)
  | trapIn (r : Report) (s : State)
  | uncorr (pa : Nat)
  | wait (why : Wait) (s : Option State)
  deriving DecidableEq, Repr

/-- An effect: the state it leaves, or how it stops. -/
abbrev Eff (α : Type) := Except Stop α

/-- A report without its address, which delivery fills in. -/
def rep (code : Nat) (i0 i1 : W64) (i2 : W64 := 0) (i3 : W64 := 0) : Report :=
  { code, pc := 0, i0, i1, i2, i3 }

/-- Trap causes (R114). -/
def illegalEncoding : Nat := 0x01
def nonUniform : Nat := 0x02
def maskMismatch : Nat := 0x03
def rangeLocked : Nat := 0x04
def pageFault : Nat := 0x05
def linkLost : Nat := 0x06
def illegalLayout : Nat := 0x07
def nonFinite : Nat := 0x08
def allotment : Nat := 0x09
def maskSpill : Nat := 0x0A
def divide : Nat := 0x0B
def barrierTimeoutCode : Nat := 0x0C
def trapCode : Nat := 0x0D
/-- The report code of uncorrectable data, as the event code of R109. -/
def memUncorrectable : Nat := 0x44

def trapEff {α : Type} (r : Report) : Eff α := .error (.trap r)
def waitEff {α : Type} (why : Wait) : Eff α := .error (.wait why none)

/-- ALLOTMENT reports (R115). -/
def allotReg (n : Nat) : Report := rep allotment (u64 (2 ^ 56 + n)) 1
def allotLocal (off : Nat) : Report := rep allotment (u64 (2 * 2 ^ 56 + off % 2 ^ 32)) 2
def allotTile (pinned : Bool) (n : Nat) : Report :=
  rep allotment (u64 (3 * 2 ^ 56 + (if pinned then 256 else 0) + n)) 3
def allotTape (amount subcode : Nat) : Report := rep allotment (u64 (4 * 2 ^ 56 + amount * 256 + subcode)) 4
def allotPool (amount pool : Nat) : Report := rep allotment (u64 (5 * 2 ^ 56 + amount * 256 + pool)) 5
def allotSeq (lane : Nat) : Report := rep allotment (u64 (6 * 2 ^ 56 + lane)) 6
def allotValue (x : W64) : Report := rep allotment x 7

/-! ### Events (R13) -/

/-- A step that has no encoding, from what it makes of a state: none where its condition does not hold, or the object is in
none of the states the event starts from; the object is then left unchanged (R13). -/
def orSame (f : State → Option State) (s : State) : Result State := .next ((f s).getD s)

/-! ### Translation (R325–R329) -/

/-- Access kinds of PAGE_FAULT info1 (R255). -/
inductive AKind where
  | load | store | atomic | add | gather | scatter | mcast | smooth | fetch
  deriving DecidableEq, Repr

def AKind.code : AKind → Nat
  | .load => 0 | .store => 1 | .atomic => 2 | .add => 3 | .gather => 4 | .scatter => 5 | .mcast => 6 | .smooth => 7
  | .fetch => 8

/-- Permissions of a leaf (R326). -/
structure Perm where
  r : Bool
  w : Bool
  x : Bool
  deriving DecidableEq, Repr

/-- The outcome of a walk. -/
inductive Walk where
  | leaf (t : Target) (p : Perm) (entry : Nat)
  | hold
  | fault (reason : Nat)
  /-- Uncorrectable data in an entry (R111). -/
  | bad (pa : Nat)
  deriving DecidableEq, Repr

/-- An `n`-byte little-endian number in a memory. -/
def Mem.readNat (m : Mem) (a n : Nat) : Nat := ofBytesLE ((List.range n).map fun i => m.get (a + i))

/-- Bytes of a pseudo-channel group of a form (R93, R327). -/
def PartForm.groupBytes : PartForm → Nat
  | .p | .m768 => 3 * 2 ^ 30
  | .m512 => 2 * 2 ^ 30

/-- Whether a device physical address lies in a group of a list, of so many bytes each (R327). -/
def inGroups (bytes : Nat) (groups : List Nat) (pa : Nat) : Bool :=
  groups.contains (pa / 2 ^ 32) && decide (pa % 2 ^ 32 < bytes)

/-- Whether a device physical address lies in a context's groups. -/
def Ctx.holds (c : Ctx) (pa : Nat) : Bool := inGroups c.gbytes c.pcgroups pa

/-- Whether a virtual address is canonical (R231). -/
def canonical (va : Nat) : Bool := let t := va / 2 ^ 56; decide (t = 0) || decide (t = 255)

/-- The array and granule a device address lies in, when uncorrectable (R430). -/
def State.badDev (s : State) (pa n : Nat) : Option Nat :=
  match s.dv.bad with
  | [] => none
  | bad =>
    (List.range n).findSome? fun i =>
      if bad.any fun b => (b.1 == .hbm || b.1 == .l2) && b.2 == (pa + i) / 32 then some (pa + i) else none

/-- A leaf entry at a level, for a virtual address (R325, R326, R328). An access issued before a migration of the page
does not meet its hold (R335). -/
def leafWalk (c : Ctx) (e va lvl entry : Nat) : Walk :=
  let frame := nbits e 51 12 * 4096
  let page := 4096 * 512 ^ lvl
  let target := nbits e 6 5
  if 3 ≤ lvl || nbits e 63 62 ≠ 0 || nbits e 11 8 ≠ 0 || (target ≠ 1 && nbits e 61 52 ≠ 0) then .fault 0
  else if nbit e 4 && nbit e 3 then .fault 0
  else if frame % page ≠ 0 then .fault 0
  else if target = 3 then .fault 4
  else if nbit e 4 && target ≠ 0 then .fault 4
  else
    let pa := frame + va % page
    if target = 0 && !c.holds pa then .fault 4
    else if nbit e 7 && c.lifted ≠ some entry then .hold
    else .leaf (match target with
        | 0 => .dev pa
        | 1 => .peer (nbits e 61 52) pa
        | _ => .host pa) { r := nbit e 2, w := nbit e 3, x := nbit e 4 } entry

/-- The walk from a table at a level down (R325, R328). -/
def State.walkFrom (s : State) (c : Ctx) (va : Nat) : Nat → Nat → Walk
  | 0, table =>
    let entry := table + 8 * (va / 4096 % 512)
    match s.badDev entry 8 with
    | some pa => .bad pa
    | none =>
      let e := s.mem.readNat entry 8
      if !nbit e 0 || !nbit e 1 then .fault 0 else leafWalk c e va 0 entry
  | lvl + 1, table =>
    let entry := table + 8 * (va / (4096 * 512 ^ (lvl + 1)) % 512)
    match s.badDev entry 8 with
    | some pa => .bad pa
    | none =>
      let e := s.mem.readNat entry 8
      if !nbit e 0 then .fault 0
      else if nbit e 1 then leafWalk c e va (lvl + 1) entry
      else if nbits e 7 2 ≠ 0 || nbits e 11 8 ≠ 0 || nbits e 63 52 ≠ 0 then .fault 0
      else
        let next := nbits e 51 12 * 4096
        if !c.holds next then .fault 4 else State.walkFrom s c va lvl next

/-- The cached leaf of an address, where accesses use the caches (R329). -/
def Ctx.cached (c : Ctx) (va : Nat) : Option CachedLeaf :=
  if c.tlbOn then c.tlb.find? fun l => l.page == va / (4096 * 512 ^ l.lvl) else none

/-- The translation of an address of a context (R325, R329). -/
def State.walk (s : State) (c : Ctx) (va : Nat) : Walk :=
  if !canonical va then .fault 2
  else
    match c.cached va with
    | some l => leafWalk c l.e va l.lvl l.entry
    | none => s.walkFrom c va 4 c.pgroot

/-! ### Local space (R156) -/

/-- A byte of local memory: in a wave's prologue area or its scratch allotment. -/
structure LocalAt where
  wave  : Nat
  scratch : Bool
  off   : Nat
  deriving DecidableEq, Repr

/-- The region an offset lies in, with the bytes left in it (R156). -/
def State.localAt (s : State) (w : Nat) (off : Nat) : Option (LocalAt × Nat) :=
  let wv := s.waves.get w
  if off < 0x1000 then some ({ wave := w, scratch := false, off := off }, 0x1000 - off)
  else
    let g := s.gangOf wv
    let size := (s.kernOf wv).desc.scratch
    if off < 0x100000 || size = 0 || !g.granted then none
    else
      let m := (off - 0x100000) / size
      match g.waves[m]? with
      | some x => some ({ wave := x, scratch := true, off := (off - 0x100000) % size }, size - (off - 0x100000) % size)
      | none => none

/-- First byte of an access outside a region, if any (R115, R255). -/
def State.localBreach (s : State) (w off n : Nat) : Option Nat :=
  match s.localAt w off with
  | none => some off
  | some (_, left) => if n ≤ left then none else some (off + left)

def State.readLocalByte (s : State) (w off : Nat) : Byte :=
  match s.localAt w off with
  | some (l, _) => if l.scratch then (s.waves.get l.wave).scratch.get l.off else (s.waves.get l.wave).prol.get l.off
  | none => 0

def State.readLocal (s : State) (w off n : Nat) : Nat :=
  ofBytesLE ((List.range n).map fun i => s.readLocalByte w (off + i))

def State.writeLocalByte (s : State) (w : Nat) (e : Nat × Byte) : State :=
  match s.localAt w e.1 with
  | some (l, _) =>
    s.modWave l.wave fun x =>
      if l.scratch then { x with scratch := x.scratch.put l.off e.2 } else { x with prol := x.prol.put l.off e.2 }
  | none => s

/-- The number of a byte's ECC granule in the scratchpad (R430; log entry 16). -/
def LocalAt.granule (l : LocalAt) : Nat := l.wave * 2 ^ 19 + (if l.scratch then 2 ^ 18 else 0) + l.off / 32

/-- A local read; uncorrectable data stops it (R111). -/
def State.readLocalEff (s : State) (w off n : Nat) : Except (Nat) Nat :=
  match s.localAt w off with
  | some (l, _) =>
    match (List.range n).find? fun i => s.dv.bad.contains (.scratchpad, { l with off := l.off + i }.granule) with
    | some i => .error (32 * { l with off := l.off + i }.granule)
    | none => .ok (s.readLocal w off n)
  | none => .ok 0

/-- Bytes of arrays written, by granule and place in it: a granule that one store instruction has written whole becomes good
again; of one written in part, what its lanes have written so far is kept (R430). -/
def Device.mend (d : Device) (arr : MemArray → Bool) (at_ : List (Nat × Nat)) (grp : Nat) : Device :=
  let hit (b : MemArray × Nat) : Bool := arr b.1 && at_.any fun x => x.1 == b.2
  let now (b : MemArray × Nat) : List Nat :=
    ((at_.filter fun x => x.1 == b.2).map Prod.snd) ++
      d.part.flatMap fun p => if grp ≠ 0 && p.1 == b.1 && p.2.1 == b.2 && p.2.2.1 == grp then p.2.2.2 else []
  let whole (b : MemArray × Nat) : Bool := hit b && (List.range 32).all fun i => (now b).contains i
  { d with
    bad := d.bad.filter fun b => !whole b
    part := (d.part.filter fun p => !(hit (p.1, p.2.1) && (p.2.2.1 == grp || whole (p.1, p.2.1)))) ++
      if grp = 0 then [] else (d.bad.filter fun b => hit b && !whole b).map fun b => (b.1, b.2, grp, now b) }

/-- Stored bytes of local memory and the granules of the scratchpad (R430). -/
def State.mendLocal (s : State) (w : Nat) (cells : List (Nat × Byte)) (grp : Nat := 0) : State :=
  match s.dv.bad with
  | [] => s
  | _ =>
    let at_ := cells.filterMap fun c => (s.localAt w c.1).map fun l => (l.1.granule, l.1.off % 32)
    { s with dv := s.dv.mend (· == .scratchpad) at_ grp }

/-- A local store. -/
def State.writeLocal (s : State) (w : Nat) (cells : List (Nat × Byte)) (grp : Nat := 0) : State :=
  (cells.foldl (fun s e => s.writeLocalByte w e) s).mendLocal w cells grp

/-! ### Range locks (R245) -/

/-- Whether a lock forbids an access of a kind. -/
def Lock.bars (l : Lock) (write : Bool) : Bool := l.dst || write

def Lock.has (l : Lock) (a : Nat) : Bool := decide (l.first ≤ a) && decide (a < l.first + l.len)

/-- The first byte of an access inside a barring lock, and the lock entered first that holds it (R245). -/
def State.lockHit (s : State) (loc : Bool) (owner a n : Nat) (write : Bool) : Option (Nat × Lock) :=
  (List.range n).findSome? fun i =>
    (s.locks.find? fun l => l.local_ == loc && l.owner == owner && l.bars write && l.has (a + i)).map fun l => (a + i, l)

/-- The RANGE_LOCKED report (R245). -/
def lockReport (hit : Nat × Lock) : Report :=
  rep rangeLocked (u64 hit.1)
    (u64 (hit.2.engine * 2 ^ 58 + (if hit.2.local_ then 2 ^ 57 else 0) + hit.2.first % 2 ^ 57))

/-- A range rounded outward to 64 bytes. -/
def mkLock (engine : Nat) (loc : Bool) (owner a n : Nat) (dst : Bool) (uid : Nat) : Lock :=
  let first := a / 64 * 64
  { engine, local_ := loc, owner, first, len := ceilDiv (a + n) 64 * 64 - first, dst, uid }

/-- Who a range belongs to: a context's global space; a gang's scratch regions; a wave's own prologue area. -/
def State.spaceKey (s : State) (loc : Bool) (wi a : Nat) : Nat :=
  let w := s.waves.get wi
  if !loc then w.id.ctx else if a < 0x1000 then 2 ^ 32 + wi else w.id.gang

/-- Whether a new operation's range must wait for a range in force (R245). -/
def State.lockWaits (s : State) (ls : List Lock) : Bool :=
  ls.any fun n => s.locks.any fun o =>
    o.local_ == n.local_ && o.owner == n.owner && o.uid != n.uid && (n.dst || o.dst) &&
      decide (n.first < o.first + o.len) && decide (o.first < n.first + n.len)

/-- Who asks to enter a range: the control stream of a wave, or the tape engine on its behalf; a graph node has a number
of its own. -/
def lockAsker (wi : Nat) (tape : Bool) : Nat := 2 * wi + (if tape then 1 else 0)

/-- Whether ranges may enter the table: nothing in force bars them, and no one of the context that waited first waits
still (R245). -/
def State.lockTurn (s : State) (who ctx : Nat) (ls : List Lock) : Bool :=
  !s.lockWaits ls &&
  match (s.lockq.filter fun e => e.2 == ctx).head? with
  | some e => e.1 == who || ls.isEmpty || !s.lockq.any fun e => e.1 == who
  | none => true

/-- An asker waits in its place; and leaves the queue, entering or giving up. -/
def State.joinLockq (s : State) (who ctx : Nat) : State :=
  if s.lockq.any fun e => e.1 == who then s else { s with lockq := s.lockq ++ [(who, ctx)] }
def State.leaveLockq (s : State) (who : Nat) : State :=
  if s.lockq.isEmpty then s else { s with lockq := s.lockq.filter fun e => e.1 ≠ who }

def State.addLocks (s : State) (ls : List Lock) : State := { s with locks := s.locks ++ ls }
def State.dropLocks (s : State) (uid : Nat) : State := { s with locks := s.locks.filter fun l => l.uid != uid }

/-! ### Checked accesses (R255, R256) -/

/-- PAGE_FAULT (R255). -/
def pfReport (va : Nat) (loc : Bool) (lane reason : Nat) (k : AKind) : Report :=
  rep pageFault (u64 va) (u64 ((if loc then 0x10000 else 0) + lane * 256 + reason * 16 + k.code))

/-- What an access needs: its kind, read and write permission, and the targets it accepts. -/
structure Need where
  kind  : AKind
  read  : Bool
  write : Bool
  exec  : Bool := false
  peer  : Bool := true
  host  : Bool := true
  deriving DecidableEq, Repr

def needLoad : Need := { kind := .load, read := true, write := false }
def needStore : Need := { kind := .store, read := false, write := true }
def needAtomic : Need := { kind := .atomic, read := false, write := true }

/-- The check of one global element: its target, or the report; a wait at a held leaf (R329). The order is that of R328; but
a memory instruction reports its alignment first, as R256 says of them (log entry 20). -/
def State.checkGlobal (s : State) (c : Ctx) (need : Need) (lane va n : Nat) : Eff Target :=
  let bad (reason : Nat) : Eff Target := trapEff (pfReport va false lane reason need.kind)
  if va % n ≠ 0 && (need.kind ≠ .fetch || canonical va) then bad 3
  else
    match s.walk c va with
    | .fault r => bad r
    | .hold => waitEff .hold
    | .bad pa => .error (.uncorr pa)
    | .leaf t p _ =>
      if (need.read && !p.r) || (need.write && !p.w) || (need.exec && !p.x) then bad 1
      else
        match t with
        | .dev _ => pure t
        | .peer _ _ => if need.peer then pure t else bad 4
        | .host _ => if need.host then pure t else bad 4

/-- Whether a target lies in the host's memory. -/
def Target.isHost : Target → Bool
  | .host _ => true
  | _ => false

/-- Whether any port carries flits. -/
def State.ported (s : State) : Bool := s.fab.ports.any fun e => e.2.st == .up || e.2.st == .degraded

/-- Whether a route to a package remains (R397, R415). -/
def State.routed (s : State) (pkg : Nat) : Bool := !s.fab.lost.any (fun l => l.1 == pkg) && s.ported

/-- LINK_LOST at the lowest lane whose target is behind a host link that is not up, or, where the access waits for its peers,
in a package without a route (R256, R263, R399). -/
def State.checkLinks (s : State) (ts : List (Nat × Target)) (peers : Bool := false) : Eff Unit :=
  match ts.findSome? fun e =>
    match e.2 with
    | .host _ => if s.fab.host = .up then none else some (rep linkLost 0xFFFE (u64 e.1))
    | .peer pkg _ => if peers && !s.routed pkg then some (rep linkLost (u64 pkg) (u64 e.1)) else none
    | .dev _ => none with
  | some r => trapEff r
  | none => pure ()

/-- All elements of an access, lane and address each: local breaches first, then PAGE_FAULT, each at the lowest lane
(R256). -/
def State.checkLocals (s : State) (w : Nat) (need : Need) (n : Nat) (els : List (Nat × Nat)) : Eff Unit :=
  match els.findSome? fun e => s.localBreach w e.2 n with
  | some off => trapEff (allotLocal off)
  | none =>
    match els.find? fun e => decide (e.2 % n ≠ 0) with
    | some e => trapEff (pfReport e.2 true e.1 3 need.kind)
    | none => pure ()

def State.checkGlobals (s : State) (c : Ctx) (need : Need) (n : Nat) : List (Nat × Nat) → Eff (List (Nat × Nat × Target))
  | [] => pure []
  | e :: r => do
    let t ← s.checkGlobal c need e.1 e.2 n
    let ts ← State.checkGlobals s c need n r
    pure ((e.1, e.2, t) :: ts)

/-- RANGE_LOCKED at the lowest lane (R256). -/
def State.checkLocks (s : State) (loc : Bool) (wi n : Nat) (write : Bool) (els : List (Nat × Nat)) : Eff Unit :=
  match els.findSome? fun e => s.lockHit loc (s.spaceKey loc wi e.2) e.2 n write with
  | some hit => trapEff (lockReport hit)
  | none => pure ()

/-! ### Memory (R235, R250, R430) -/

def State.send (s : State) (dest : Nat) (body : MsgBody) : State :=
  { s with fab := { s.fab with outbox := s.fab.outbox ++ [{ dest, tick := s.fab.tick, body }] } }

/-- The host's number among message destinations (R405; log entry 19). -/
def hostDest : Nat := 0xFFFE

/-- Lines the host holds among those written leave its caches (R250). -/
def State.backInvalidate (s : State) (cells : List (Nat × Byte)) : State :=
  match s.dv.hostLines with
  | [] => s
  | held =>
    let hit := held.filter fun l => cells.any fun c => c.1 / 64 == l
    let s := hit.foldl (fun s l => s.send hostDest (.hostInval (64 * l))) s
    { s with dv := { s.dv with hostLines := held.filter fun l => !hit.contains l } }

/-- Mirrored lines written since the last commit, by the contexts that keep a mirror (R416). -/
def State.noteMirror (s : State) (cells : List (Nat × Byte)) : State :=
  if s.ctxs.all fun e => e.2.job.mirror.isEmpty then s
  else
    { s with ctxs := s.ctxs.mapVals fun _ c =>
        let new := (cells.map fun e => e.1 / 256).filter fun l =>
          c.job.mirror.any fun r => decide (r.1 ≤ 256 * l) && decide (256 * l < r.1 + r.2)
        { c with mirrored := (c.mirrored ++ new).eraseDups } }

/-- Pages named by valid leaves of target 0 below a table: virtual address, first frame, frames. -/
def leavesFrom (mem : Mem) : Nat → Nat → Nat → List (Nat × Nat × Nat)
  | 0, table, va =>
    (List.range 512).filterMap fun i =>
      let e := mem.readNat (table + 8 * i) 8
      if nbit e 0 && nbit e 1 && decide (nbits e 6 5 = 0) then some (va + 4096 * i, nbits e 51 12, 1) else none
  | l + 1, table, va =>
    (List.range 512).flatMap fun i =>
      let e := mem.readNat (table + 8 * i) 8
      let at_ := va + 4096 * 512 ^ (l + 1) * i
      if !nbit e 0 then []
      else if nbit e 1 then (if nbits e 6 5 = 0 then [(at_, nbits e 51 12, 512 ^ (l + 1))] else [])
      else leavesFrom mem l (nbits e 51 12 * 4096) at_

/-- Pages a context maps now, by canonical address (R231). -/
def State.mappedNow (s : State) (c : Ctx) : List (Nat × Nat × Nat) :=
  (leavesFrom s.mem 4 c.pgroot 0).map fun m => (if m.1 < 2 ^ 56 then m.1 else m.1 + 2 ^ 64 - 2 ^ 57, m.2)

/-- What a context was known to map, and what it maps now. -/
def State.noteMapped (s : State) (ci : Nat) : State :=
  s.modCtx ci fun c => { c with mapped := (c.mapped ++ s.mappedNow c).eraseDups }

/-- Whether a word whose lowest byte is this may be a valid leaf of target 0, or name a table (R326). -/
def mayMap (b : Nat) : Bool := (b % 4 == 3 && b / 32 % 4 == 0) || b == 1

/-- Before a store over a word of a page table, what every context maps is noted: the store may unmap it (R332). -/
def State.noteLeaves (s : State) (cells : List (Nat × Byte)) : State :=
  if cells.any fun c => mayMap (s.mem.get (c.1 / 8 * 8)).toNat then
    { s with ctxs := s.ctxs.mapVals fun _ c => { c with mapped := (c.mapped ++ s.mappedNow c).eraseDups } }
  else s

/-- A store of bytes to device memory: whole granules become good again (R430), a line the host holds is
back-invalidated (R250), a mirrored line is noted when it is committed (R416), and a page it may unmap is noted (R332). -/
def State.writeDev (s : State) (cells : List (Nat × Byte)) (grp : Nat := 0) : State :=
  let s := s.noteLeaves cells
  let s := { s with mem := s.mem.putAll cells }
  let s := s.noteMirror cells
  let s := s.backInvalidate cells
  match s.dv.bad with
  | [] => s
  | _ => { s with dv := s.dv.mend (fun a => a == .hbm || a == .l2) (cells.map fun c => (c.1 / 32, c.1 % 32)) grp }

def State.writeHost (s : State) (cells : List (Nat × Byte)) : State := { s with hostMem := s.hostMem.putAll cells }

/-- A read at a target; peer targets are read by messages, not here. -/
def State.readAt (s : State) (t : Target) (n : Nat) : Eff Nat :=
  match t with
  | .dev pa =>
    match s.badDev pa n with
    | some a => .error (.uncorr a)
    | none => pure (s.mem.readNat pa n)
  | .host pa => pure (s.hostMem.readNat pa n)
  | .peer .. => pure 0

/-- A store at a target of this package or the host; `grp` numbers its instruction where several lanes make it (R430). -/
def State.writeAt (s : State) (t : Target) (n v : Nat) (grp : Nat := 0) : State :=
  match t with
  | .dev pa => s.writeDev (cellsOf pa n v) grp
  | .host pa => s.writeHost (cellsOf pa n v)
  | .peer .. => s

/-- The home of a line: slice and die (R234). -/
def homeOf (ways : List Nat) (pa : Nat) : Nat × Nat :=
  let blk := pa / 4096
  let h := (blk ^^^ (blk >>> 7) ^^^ (blk >>> 17) ^^^ (blk >>> 29)) % 2 ^ 32
  let ds := (List.range 12).filter fun d => ways.any fun w => w / 32 == d
  (h % 32, (ds[(h / 32) % ds.length]?).getD 0)

/-! ### Accesses of the front end, the walker and other agents outside the waves (R92, R125) -/

/-- Whether an access by such an agent waits: it reaches a page in migration (R329, R335). -/
def State.feHeld (s : State) (c : Ctx) (va n : Nat) : Bool :=
  (List.range ((va % 4096 + n + 4095) / 4096)).any fun k =>
    match s.walk c ((va / 4096 + k) * 4096 % 2 ^ 64) with
    | .hold => true
    | _ => false

/-- Bytes at a virtual address of a context, byte by byte; none on any fault. -/
def State.feRead (s : State) (c : Ctx) (va : Nat) (n : Nat) : Option (List Byte) :=
  (List.range n).mapM fun i =>
    match s.walk c (va + i) with
    | .leaf t p _ =>
      if !p.r then none
      else
        match t with
        | .dev pa => if (s.badDev pa 1).isSome then none else some (s.mem.get pa)
        | .host pa => if s.fab.host = .up then some (s.hostMem.get pa) else none
        | .peer .. => none
    | _ => none

/-- The targets of a store by such an agent; none on any fault. -/
def State.feTargets (s : State) (c : Ctx) (va n : Nat) : Option (List Target) :=
  (List.range n).mapM fun i =>
    match s.walk c (va + i) with
    | .leaf t p _ =>
      if !p.w then none
      else
        match t with
        | .dev _ => some t
        | .host _ => if s.fab.host = .up then some t else none
        | .peer .. => none
    | _ => none

/-- A store by such an agent, whole; none on any fault, with nothing written. -/
def State.feWrite (s : State) (c : Ctx) (va : Nat) (bytes : List Byte) : Option State :=
  (s.feTargets c va bytes.length).map fun ts =>
    let es := ts.zip bytes
    let dev := es.filterMap fun e => match e.1 with
      | .dev pa => some (pa, e.2)
      | _ => none
    let host := es.filterMap fun e => match e.1 with
      | .host pa => some (pa, e.2)
      | _ => none
    (s.writeDev dev).writeHost host

/-- A system physical address (R92): bit 63 names the host; bits 62:52 are zero; a device address lies in the
package's memory. -/
def State.sysTarget (s : State) (a : Nat) : Option Target :=
  if nbits a 62 52 ≠ 0 then none
  else if nbit a 63 then some (.host (a % 2 ^ 52))
  else if decide (a / 2 ^ 32 < 256) && decide (a % 2 ^ 32 < s.dv.form.groupBytes) then some (.dev a) else none

/-- Bytes at a system physical address. DESIGN CHOICE (log entry 66): none, so that the command is not accepted, in host
memory while the host link is not Up and where a granule is uncorrectable. -/
def State.sysRead (s : State) (a n : Nat) : Option (List Byte) :=
  (s.sysTarget a).bind fun t =>
    match t with
    | .dev pa => if (s.badDev pa n).isSome then none else some ((List.range n).map fun i => s.mem.get (pa + i))
    | .host pa => if s.fab.host = .up then some ((List.range n).map fun i => s.hostMem.get (pa + i)) else none
    | .peer .. => none

/-- A store at a system physical address. DESIGN CHOICE (log entry 66): it takes place in host memory whatever the state of
the host link. -/
def State.sysWrite (s : State) (a : Nat) (bytes : List Byte) : State :=
  match s.sysTarget a with
  | some (.dev pa) => s.writeDev (cellsAt pa bytes)
  | some (.host pa) => s.writeHost (cellsAt pa bytes)
  | _ => s

/-! ### Messages (R405) -/

/-- The job of a context (R400). -/
def State.jobOfCtx (s : State) (ctx : Nat) : Option Nat :=
  let c := s.ctxs.get ctx
  if c.jobst = 2 then some c.job.num else none

/-- The job of a wave's context. -/
def State.jobOf (s : State) (w : Wave) : Option Nat :=
  let c := s.ctxOf w
  if c.jobst = 2 then some c.job.num else none

/-- The key of a word: device addresses as they are, the others beyond them. -/
def Target.key : Target → Nat
  | .dev pa => pa
  | .host pa => 2 ^ 60 + pa
  | .peer pkg pa => 2 ^ 61 + pkg * 2 ^ 52 + pa

/-- A byte of a queued store at a local offset or a key. -/
def QStore.byteAt (q : QStore) (loc : Bool) (a : Nat) : Option Byte :=
  let first := if q.loc then q.off else q.t.key
  if q.loc == loc && decide (first ≤ a) && decide (a < first + q.n) then (bytesLE q.n q.v)[a - first]? else none

/-- The youngest byte that stores, oldest first, have at a local offset or a key. -/
def youngest (qs : List QStore) (loc : Bool) (a : Nat) : Option Byte := qs.reverse.findSome? fun q => q.byteAt loc a

/-- The bytes a core's write-combining buffer holds of a range of a peer, by address (R248). -/
def State.wcbBytes (s : State) (core pkg pa n : Nat) : Mem :=
  ((List.range n).filterMap fun i =>
    let a := pa + i
    ((s.cores.get core).wcb.find? fun x => x.peer == pkg && x.line == a / 256 * 256).bind fun x =>
      (x.cells.find? fun c => c.1 == a % 256).map fun c => (a, c.2))

/-- The bytes of a range of a peer that a wave's own core has stored and not sent: those in its queue, over those in the
buffer (R238, R248). -/
def State.unsent (s : State) (wi pkg pa n : Nat) : Mem :=
  let buf := s.wcbBytes (coreOf wi) pkg pa n
  match (s.waves.get wi).stq with
  | [] => buf
  | qs =>
    (List.range n).filterMap fun i =>
      match youngest qs false ((Target.peer pkg pa).key + i), buf.find? fun c => c.1 == pa + i with
      | some b, _ => some (pa + i, b)
      | none, c => c

/-- A remote access of a wave: its answer once it has come; else the request is sent, once, and the access waits (R402).
Owner 0 is the instruction itself, else an operation's uid. -/
def State.remote (s : State) (wi owner lane pkg pa : Nat) (op : PeerOp) : Eff PeerAnswer :=
  let w := s.waves.get wi
  let site : W64 := if owner = 0 && lane = 0 then w.ctl.pc else 0
  match w.remote.find? fun r => r.owner == owner && r.lane == lane && r.site == site with
  | some r =>
    match r.answer with
    | some a => pure a
    | none => if s.routed pkg then .error (.wait .other none) else pure .lost
  | none =>
    if !s.routed pkg then pure .lost
    else
      let (id, s) := s.fresh
      let kept : Mem := match op with
        | .load n => s.unsent wi pkg pa n
        | _ => []
      let queued := match op with
        | .semw _ => true
        | _ => false
      let r : Remote := { owner, lane, id, answer := none, stamp := s.epoch, kept, site, queued, pkg, pa }
      let s := s.modWave wi fun w => { w with remote := w.remote ++ [r] }
      .error (.wait .other (some (s.send pkg (.req { sender := s.fab.pkg, job := s.jobOf w, id := id, pa := pa, op := op }))))

/-- Where the request of a remote access went, once it has left: its checks are over (R256). -/
def State.askedAt (s : State) (wi owner lane : Nat) : Option Target :=
  let w := s.waves.get wi
  let site : W64 := if owner = 0 && lane = 0 then w.ctl.pc else 0
  (w.remote.find? fun r => r.owner == owner && r.lane == lane && r.site == site).map fun r => .peer r.pkg r.pa

/-- The remote accesses of an owner are done with. -/
def State.endRemote (s : State) (wi owner : Nat) : State :=
  if (s.waves.get wi).remote.isEmpty then s
  else s.modWave wi fun w => { w with remote := w.remote.filter fun r => r.owner != owner }

/-- The same for the vector instruction at hand, whose lanes count from 1, or the control instruction at the pc, lane 0. -/
def State.endOwn (s : State) (wi : Nat) (vec : Bool) : State :=
  if (s.waves.get wi).remote.isEmpty && !(vec && (s.waves.get wi).vec.access.isSome) then s
  else
    s.modWave wi fun w =>
      { w with
        remote := w.remote.filter fun r => !(r.owner == 0 && (r.lane == 0) != vec && (vec || r.site == w.ctl.pc))
        vec := if vec then { w.vec with access := none } else w.vec }

/-! ### Write-combining buffer (R248) -/

/-- An entry leaves for its peer; its bytes are lost where no route remains, and its contributors owe LINK_LOST. -/
def State.drainEntry (s : State) (e : WcbEntry) : State :=
  if s.routed e.peer then
    let (id, s) := s.fresh
    let s := e.waves.foldl (fun s w => s.modWave w fun x =>
      { x with remote := x.remote ++
        [{ owner := id, lane := 0x100 + e.peer, id, answer := none, stamp := e.stamp, pkg := e.peer, pa := e.line }] }) s
    let cells : List Host.Cell := e.cells.map fun c => (e.line + c.1, c.2)
    s.send e.peer (.req { sender := s.fab.pkg, job := s.jobOfCtx e.ctx, id, pa := e.line, op := .store cells })
  else
    e.waves.foldl (fun s w => s.modWave w fun x =>
      { x with losses := x.losses ++ [{ peer := e.peer, line := u64 e.line, refused := false }] }) s

/-- The whole buffer of a core drains. -/
def State.drainWcb (s : State) (core : Nat) : State :=
  let es := (s.cores.get core).wcb
  (es.foldl (fun s e => s.drainEntry e) s).modCore core fun c => { c with wcb := [] }

/-- A relaxed peer store enters the buffer: a full line leaves at once; a new key in a full buffer drains the oldest. -/
def State.wcbStore (s : State) (wi pkg pa : Nat) (bytes : List Byte) : State :=
  let core := coreOf wi
  let line := pa / 256 * 256
  let cells := cellsAt (pa - line) bytes
  let cs := s.cores.get core
  match cs.wcb.find? fun e => e.peer == pkg && e.line == line with
  | some e =>
    let e' : WcbEntry := { e with
      cells := cells.foldl (fun m c => Tab.insert m c.1 c.2) e.cells
      waves := if e.waves.contains wi then e.waves else e.waves ++ [wi] }
    if e'.cells.length = 256 then
      (s.drainEntry e').modCore core fun c => { c with wcb := c.wcb.filter fun x => !(x.peer == pkg && x.line == line) }
    else
      s.modCore core fun c => { c with wcb := c.wcb.map fun x => if x.peer == pkg && x.line == line then e' else x }
  | none =>
    let e : WcbEntry := { peer := pkg, line, cells, since := s.cycle, waves := [wi], stamp := s.epoch, ctx := (s.waves.get wi).id.ctx }
    let s := match cs.wcb with
      | o :: r => if 64 ≤ cs.wcb.length then (s.drainEntry o).modCore core fun c => { c with wcb := r } else s
      | [] => s
    s.modCore core fun c => { c with wcb := c.wcb ++ [e] }

/-- The buffered bytes of a peer line over those read: as they were when the request left, then as they are (R248). -/
def State.wcbMerge (s : State) (wi owner lane pkg pa n v : Nat) : Nat :=
  let kept := ((s.waves.get wi).remote.find? fun r => r.owner == owner && r.lane == lane).elim [] Remote.kept
  let now := s.wcbBytes (coreOf wi) pkg pa n
  ofBytesLE ((List.range n).zip (bytesLE n v) |>.map fun e =>
    match now.find? fun c => c.1 == pa + e.1, kept.find? fun c => c.1 == pa + e.1 with
    | some c, _ => c.2
    | none, some c => c.2
    | none, none => e.2)

def State.wcbHas (s : State) (core pkg pa : Nat) : Bool :=
  (s.cores.get core).wcb.any fun e => e.peer == pkg && e.line == pa / 256 * 256

/-! ### Store queue and L1 (R20, R233, R238, R243) -/

/-- The L1 line of a key, and an update of the copy that a core holds of it (R233). -/
def l1Key (key : Nat) : Nat := key / 256 * 256
def State.l1Update (s : State) (core key : Nat) (bytes : List Byte) : State :=
  if (s.cores.get core).l1.isEmpty then s
  else
    let at_ := key % 256
    let write (l : L1Line) : L1Line :=
      if l.key = l1Key key then
        { l with bytes := l.bytes.zipIdx.map fun e => if at_ ≤ e.2 then (bytes[e.2 - at_]?).getD e.1 else e.1 }
      else l
    s.modCore core fun c => { c with l1 := c.l1.map write }

/-- A core's copy of a line goes. -/
def State.l1Drop (s : State) (core key : Nat) : State :=
  if (s.cores.get core).l1.isEmpty then s
  else s.modCore core fun c => { c with l1 := c.l1.filter fun l => l.key ≠ l1Key key }

/-- The value of an element as a wave's relaxed load meets it in its L1, where the line is there and was filled since the
wave's last acquire (R233). -/
def State.l1Read (s : State) (wi key n : Nat) : Option Nat :=
  ((s.cores.get (coreOf wi)).l1.find? fun l => l.key == l1Key key && decide ((s.waves.get wi).since ≤ l.no)).map fun l =>
    ofBytesLE ((l.bytes.drop (key % 256)).take n)

/-- Lines of 256 bytes that an L1 of 256 KiB holds (R15). -/
def l1Lines : Nat := 1024

/-- A relaxed load fills the line of its element, where the core's L1 keeps it and does not hold it for this wave: the line
filled first makes room, and a line with an uncorrectable granule is not kept (R15, R233, R430). -/
def State.l1Fill (s : State) (wi : Nat) (t : Target) : State :=
  let core := coreOf wi
  let c := s.cores.get core
  let key := l1Key t.key
  if !c.caching || (s.l1Read wi key 1).isSome then s
  else
    let m : Option Mem := match t with
      | .dev _ => if (s.badDev key 256).isSome then none else some s.mem
      | .host _ => some s.hostMem
      | .peer .. => none
    match m with
    | none => s
    | some m =>
      let a := key % 2 ^ 60
      let l : L1Line := { key, bytes := (List.range 256).map fun i => m.get (a + i), no := c.fills }
      s.modCore core fun c =>
        let old := c.l1.filter fun x => x.key ≠ key
        { c with l1 := old.drop (old.length + 1 - l1Lines) ++ [l], fills := c.fills + 1 }

/-- An acquire at `.pair` scope or wider: the wave's later loads bypass the lines filled so far (R233). -/
def State.acquire (s : State) (wi : Nat) : State :=
  let n := (s.cores.get (coreOf wi)).fills
  (s.modCore (coreOf wi) fun c => { c with since := n }).modWave wi fun w => { w with since := n }

/-- An acquire at a narrower scope: what a wave of the core had acquired before, the others now see too (R240). -/
def State.acquireCore (s : State) (wi : Nat) : State :=
  s.modWave wi fun w => { w with since := (s.cores.get (coreOf wi)).since }

/-- The acquire of an access or fence with an order (R233, R240, R257). -/
def State.acquireBy (s : State) (wi : Nat) (f : Form) : State :=
  if f.acquires then s.acquire wi else if f.order == .acq || f.order == .ar then s.acquireCore wi else s

/-- Every L1 line of a list of cores goes: a page is no longer what it was (R331, R335). -/
def State.l1Empty (s : State) (cores : List Nat) : State :=
  cores.foldl (fun s k => if (s.cores.get k).l1.isEmpty then s else s.modCore k fun c => { c with l1 := [] }) s

/-- A store is performed at its home, and in the L1's copy of its line (R233). -/
def State.homeWrite (s : State) (core : Nat) (q : QStore) : State :=
  (s.writeAt q.t q.n q.v q.grp).l1Update core q.t.key (bytesLE q.n q.v)

/-- Those of a core's stores on their way that a test takes arrive at their homes, in order. -/
def State.arriveIf (s : State) (core : Nat) (p : QStore → Bool) : State :=
  match (s.cores.get core).out with
  | [] => s
  | qs =>
    (qs.filter fun e => p e.2).foldl (fun s e => s.homeWrite core e.2)
      (s.modCore core fun c => { c with out := c.out.filter fun e => !p e.2 })

/-- All of them: what the core's waves have stored is visible to every agent. Those to the line of a key: an access that goes
to the home of the line comes after them (R239, R243). -/
def State.arriveAll (s : State) (core : Nat) : State := s.arriveIf core fun _ => true
def State.arriveLine (s : State) (core key : Nat) : State := s.arriveIf core fun q => l1Key q.t.key == l1Key key

/-- One of them arrives, unless an older one writes bytes of it. -/
def State.arriveOne (s : State) (core i : Nat) : State :=
  let qs := (s.cores.get core).out
  match qs[i]? with
  | none => s
  | some e =>
    if (qs.take i).any fun x => decide (x.2.t.key < e.2.t.key + e.2.n) && decide (e.2.t.key < x.2.t.key + x.2.n) then s
    else (s.modCore core fun c => { c with out := c.out.eraseIdx i }).homeWrite core e.2

/-- A store that goes to its home, to local memory, or to the write-combining buffer at once. -/
def State.homeStore (s : State) (wi : Nat) (q : QStore) : State :=
  if q.loc then s.writeLocal wi (cellsOf q.off q.n q.v) q.grp
  else
    match q.t with
    | .peer pkg pa => s.wcbStore wi pkg pa (bytesLE q.n q.v)
    | t => (s.arriveLine (coreOf wi) t.key).homeWrite (coreOf wi) q

/-- Whether a target lies in a peer window. -/
def Target.isPeer : Target → Bool
  | .peer .. => true
  | _ => false

/-- A store leaves the queue: for the waves of its core it is performed; for other agents when it reaches its home, which a
choice may put off (R238, R243). -/
def State.performStore (s : State) (wi : Nat) (q : QStore) : State :=
  if q.loc || q.t.isPeer || !(s.cores.get (coreOf wi)).slow then s.homeStore wi q
  else s.modCore (coreOf wi) fun c => { c with out := c.out ++ [(wi, q)] }

/-- The oldest store of a wave's queue is performed; every one of them, in order (R238). -/
def State.popStore (s : State) (wi : Nat) : State :=
  match (s.waves.get wi).stq with
  | [] => s
  | q :: r => (s.modWave wi fun w => { w with stq := r }).performStore wi q
def State.drainStores (s : State) (wi : Nat) : State :=
  (s.waves.get wi).stq.foldl (fun s _ => s.popStore wi) s

/-- Store `i` of a wave's queue is performed, where it is the oldest, or a lane of the oldest store's instruction that shares
no byte with an older one of it (R237, R238). -/
def State.popLane (s : State) (wi i : Nat) : State :=
  let qs := (s.waves.get wi).stq
  match qs[i]?, qs.head? with
  | some q, some o =>
    let first (x : QStore) : Nat := if x.loc then x.off else x.t.key
    if q.grp ≠ o.grp || (decide (0 < i) && q.grp == 0) ||
        (qs.take i).any (fun x => decide (first x < first q + q.n) && decide (first q < first x + x.n)) then s
    else (s.modWave wi fun w => { w with stq := w.stq.eraseIdx i }).performStore wi q
  | _, _ => s

/-- A relaxed store executes: it enters the wave's queue, and is performed at once where nothing keeps it there. -/
def State.queueStore (s : State) (wi : Nat) (q : QStore) : State :=
  let w := s.waves.get wi
  if w.keep || !w.stq.isEmpty then s.modWave wi fun w => { w with stq := w.stq ++ [q] } else s.performStore wi q

/-- A value with the youngest bytes of stores over it. -/
def overlay (qs : List QStore) (loc : Bool) (a n v : Nat) : Nat :=
  match qs with
  | [] => v
  | qs => ofBytesLE ((List.range n).zip (bytesLE n v) |>.map fun e => (youngest qs loc (a + e.1)).getD e.2)

/-- A loaded value with the stores over it that its wave's core has on the way to their homes, and the youngest queued
bytes of the wave itself (R238). -/
def State.forward (s : State) (wi : Nat) (loc : Bool) (a n v : Nat) : Nat :=
  overlay (s.waves.get wi).stq loc a n (overlay ((s.cores.get (coreOf wi)).out.map Prod.snd) loc a n v)

/-! ### Queues and completion records (R122, R132–R134) -/

/-- A queue goes to Error, or will when its hold ends. DESIGN CHOICE (log entry 75): in Held the errcode shows at once; in
Stopping, Disabled and Error nothing changes. -/
def State.queueError (s : State) (qi code : Nat) : State :=
  s.modQueue qi fun q =>
    match q.st with
    | .idle | .active | .waiting => { q with st := .error, errcode := code, errpend := true }
    | .held => { q with prior := .error, errcode := code, errpend := true }
    | _ => q

/-- The completion record (R132). -/
def recordBytes (status cause seq tick pc i0 i1 i2 i3 : Nat) : List Byte :=
  bytesLE 2 status ++ bytesLE 1 cause ++ bytesLE 1 0 ++ bytesLE 4 seq ++ bytesLE 8 tick ++ bytesLE 8 pc ++
  bytesLE 8 i0 ++ bytesLE 8 i1 ++ bytesLE 8 i2 ++ bytesLE 8 i3 ++ bytesLE 8 (2 ^ 63 + seq)

/-- A packet's record has been written, or could not be: its mark, the error, the end of a Stopping queue (R121, R126,
R132). `n` is the packet's own number. -/
def State.packetDone (s : State) (qi n status : Nat) (ok : Bool) : State :=
  let s := s.modQueue qi fun x =>
    { x with
      packets := x.packets.map fun p => if p.seq == n then { p with done := true } else p
      failed := x.failed || (decide (status ≠ 0) && x.packets.any fun p => p.seq == n && p.counted) }
  let s := if ok then s else s.queueError qi 4
  s.modQueue qi fun x =>
    if x.st = .stopping && x.packets.all fun p => p.done then { x with st := .disabled } else x

/-- A completion record is written, and its packet done; a record in a page that migrates waits (R329). -/
def State.putRecord (s : State) (r : LateRecord) : State :=
  let c := s.ctxs.get r.ctx
  if s.feHeld c r.va r.bytes.length then { s with late := s.late ++ [r] }
  else
    let w := s.feWrite c r.va r.bytes
    let s := w.getD s
    match r.packet with
    | some (qi, n, status) => s.packetDone qi n status w.isSome
    | none => s

/-- The records that wait are tried again, in order. -/
def State.serveLate (s : State) : State :=
  match s.late with
  | [] => s
  | rs => rs.foldl State.putRecord { s with late := [] }

/-- A packet of a queue completes: its record, then its mark (R126, R132). -/
def State.completePacket (s : State) (ctx q n cmpl status cause : Nat) (r : Report) : State :=
  let qi := 16 * ctx + q
  if cmpl = 0 then s.packetDone qi n status true
  else
    s.putRecord
      { ctx
        va := cmpl
        bytes := recordBytes status cause (n % 2 ^ 32) s.fab.tick r.pc.toNat r.i0.toNat r.i1.toNat r.i2.toNat r.i3.toNat
        packet := some (qi, n, status) }

/-- The completion record of a kernel that a graph node launched (R194). -/
def State.nodeRecord (s : State) (ctx cmpl status cause : Nat) (r : Report) : State :=
  if cmpl = 0 then s
  else
    s.putRecord
      { ctx
        va := cmpl
        bytes := recordBytes status cause 0 s.fab.tick r.pc.toNat r.i0.toNat r.i1.toNat r.i2.toNat r.i3.toNat
        packet := none }

/-- A kernel's launch completes with a status (R126, R132, R133). -/
def State.completeLaunch (s : State) (k : Kernel) (status cause : Nat) (r : Report) : State :=
  match k.source with
  | .packet ctx q n => s.completePacket ctx q n k.launch.cmpl.toNat status cause r
  | .node .. => s.nodeRecord k.ctx k.launch.cmpl.toNat status cause r
  | .none => s

/-! ### Gangs and kernels end (R105, R133, R137, R155) -/

/-- A wave no longer stands in a queue, of a semaphore, a channel or the range-lock table: the instruction has not executed
(R165, R167). -/
def State.withdraw (s : State) (wi : Nat) : State :=
  { s with
    lockq := s.lockq.filter fun e => e.1 / 2 ≠ wi
    chans := s.chans.mapVals fun _ e => { e with waiters := e.waiters.filter fun x => x.wave ≠ wi || x.peer.isSome }
    sems := s.sems.mapVals fun _ e => e.filter fun x => x.wave ≠ wi || x.peer.isSome }

/-- A wave leaves its slot: its tiles, locks, session, latch entries, waits and its part in buffered stores, which still go
out. -/
def State.freeWave (s : State) (w : Nat) : State :=
  let s := (s.drainStores w).arriveAll (coreOf w)
  let g := (s.waves.get w).id.gang
  let s := s.modCore (coreOf w) fun c =>
    { c with
      owner := c.owner.mapVals fun _ o => if o = .wave w then .free else o
      session := c.session.filter fun o => o.gang ≠ g
      waiting := c.waiting.filter fun o => o.gang ≠ g
      latch := c.latch.filter fun e => e.gang ≠ g
      wcb := c.wcb.map fun e => { e with waves := e.waves.filter fun x => x ≠ w } }
  let s := s.withdraw w
  let leave (l : McLine) : McLine := if l.wave = w then { l with lanes := 0 } else l
  let s := { s with fab := { s.fab with lines := s.fab.lines.mapVals fun _ l => l.map leave } }
  let s := (s.waves.get w).ctl.ops.foldl (fun (s : State) o => s.dropLocks o.uid) s
  s.setWave w default

/-- An aborted kernel whose gangs are all gone is Aborted: adds left of it are discarded, and its launch completes (R126,
R133, R137). -/
def State.endAbort (s : State) (k : Nat) : State :=
  let kk := s.kernels.get k
  if kk.st ≠ .aborting || s.gangs.any fun e => e.2.kern == k then s
  else
    let s := { s with adds := s.adds.filter fun a => a.kern ≠ k }
    (s.modKern k fun x => { x with st := .aborted }).completeLaunch kk kk.status kk.cause (kk.report.getD (rep 0 0 0))

/-- Every resource of a gang is released (R155). -/
def State.releaseGang (s : State) (g : Nat) : State :=
  let gg := s.gangs.get g
  let s := gg.waves.foldl (fun s w => s.freeWave w) s
  let s := { s with gangs := s.gangs.put g default }
  let s := s.modCtx gg.ctx fun c =>
    if c.st = .running && !(s.gangs.any fun e => e.2.ctx == gg.ctx && e.2.st != .saved) then { c with st := .ready } else c
  s.endAbort gg.kern

/-! ### The rendezvous latch (R284) -/

/-- An operation joined in an entry of its core's latch. -/
def LatchEntry.has (e : LatchEntry) (uid : Nat) : Bool := e.joined.any fun j => j.uid == uid

/-- The latch changed where an operation is joined. -/
def State.modLatch (s : State) (core uid : Nat) (g : LatchEntry → LatchEntry) : State :=
  s.modCore core fun c => { c with latch := c.latch.map fun e => if e.has uid then g e else e }

/-- The name under which a closed entry's operation waits to enter the range-lock table: that of its first member. -/
def latchAsker (uid : Nat) : Nat := 2 ^ 61 + uid

/-- A member takes the end of its operation and leaves; the last one removes the entry. -/
def State.leaveLatch (s : State) (core uid : Nat) : State :=
  let s := (s.leaveLockq (latchAsker uid)).modLatch core uid fun e => { e with joined := e.joined.filter fun j => j.uid != uid }
  s.modCore core fun c => { c with latch := c.latch.filter fun e => !e.joined.isEmpty }

/-- Whether an operation waits in a latch entry that has not closed: it has not issued (R244). -/
def State.inLatch (s : State) (wi uid : Nat) : Bool :=
  (s.cores.get (coreOf wi)).latch.any fun e => !e.closed && e.has uid

/-- Whether a wave's blocks launched before an instruction have completed (R284); in a handler of a vector-stream trap the
held side counts as done (R162). -/
def State.blocksDone (s : State) (wi mark : Nat) : Bool :=
  let w := s.waves.get wi
  decide (mark ≤ w.taken) || (w.nest && w.vecTrap)

/-- Whether an operation has not reached the engine (R286): it waits in a latch entry that has not closed, or alone for the
blocks that write its fragments. -/
def State.unreached (s : State) (wi : Nat) (o : PendingOp) : Bool :=
  let latch := (s.cores.get (coreOf wi)).latch
  if latch.any fun e => e.has o.uid then s.inLatch wi o.uid
  else
    match o.instr with
    | .mma f | .mmaSp f | .mmaSr f => f.optBit 3 && !s.blocksDone wi o.mark
    | _ => false

/-- An operation is over: its record, range locks and remote accesses go. -/
def State.endOp (s : State) (wi uid : Nat) : State :=
  ((s.dropLocks uid).endRemote wi uid).modWave wi fun w =>
    { w with ctl := { w.ctl with ops := w.ctl.ops.filter fun o => o.uid != uid } }

/-- The operations of a wave that have not reached the engine are taken back: those of an instruction that holds no flag,
which has then not executed (R165), or all of them. -/
def State.leaveLatches (s : State) (wi : Nat) (all : Bool) : State :=
  ((s.waves.get wi).ctl.ops.filter fun o => (all || o.flag == 15) && s.unreached wi o).foldl
    (fun s o => (s.leaveLatch (coreOf wi) o.uid).endOp wi o.uid) s

/-- Whether a wave's control instruction is under way and completes before the next boundary (R97, R165): an operation that
holds no flag, or an access to another package, unless it waits there. -/
def State.midCtl (s : State) (wi : Nat) : Bool :=
  let w := s.waves.get wi
  w.ctl.ops.any (fun o => o.flag == 15 && !s.unreached wi o) ||
  w.remote.any fun r => r.owner == 0 && r.lane == 0 && !r.queued

/-- The same for its vector instruction: a gather, an access whose lanes are read one by one, or one to another package. -/
def Wave.midVec (w : Wave) : Bool := w.vec.gather.isSome || w.vec.access.isSome || w.remote.any fun r => r.owner == 0 && r.lane ≠ 0

/-- The answer to the request of a lane of the vector access at hand: `lost` where none can come any more; none while it is
out (R263, R402). -/
def State.laneAnswer (s : State) (wi lane pkg : Nat) : Option PeerAnswer :=
  match ((s.waves.get wi).remote.find? fun r => r.owner == 0 && r.lane == lane + 1).bind Remote.answer with
  | some a => some a
  | none => if s.routed pkg then none else some .lost

/-- The lanes of a gather that one read serves: those that name the same bytes; the lowest of them asks (R260). -/
def Gather.sharing (g : Gather) (t : Target) : List Nat := (g.awaited.filter fun e => e.2 == t).map Prod.fst

/-- Whether an awaited element of a gather can still come. -/
def State.mayCome (s : State) (wi : Nat) (g : Gather) (e : Nat × Target) : Bool :=
  match e.2 with
  | .peer pkg _ =>
    match s.laneAnswer wi (((g.sharing e.2).head?).getD e.1) pkg with
    | none | some (.value _) => true
    | _ => false
  | .dev pa => (s.badDev pa g.size).isNone
  | .host _ => true

/-- Whether a wave has an access or operation under way that a termination lets finish (R155): an operation issued, a
remote access, a gather, or a line of `mcast.st` not yet performed. -/
def State.underWay (s : State) (wi : Nat) : Bool :=
  let w := s.waves.get wi
  !w.ctl.ops.isEmpty || w.remote.any (fun r => r.answer.isNone && !r.queued) ||
  w.vec.gather.any (fun g => g.awaited.any fun e => s.mayCome wi g e) ||
  s.fab.lines.any fun e => e.2.any fun l => l.wave == wi

/-- Whether every memory effect of a gang is performed: nothing of its waves is under way, no store of theirs is queued or
buffered, no add of theirs on its way home (R126, R155). -/
def State.gangQuiet (s : State) (g : Gang) : Bool :=
  g.waves.all fun wi =>
    !s.underWay wi && (s.waves.get wi).stq.isEmpty &&
    (s.cores.get (coreOf wi)).wcb.all (fun e => !e.waves.contains wi) &&
    s.adds.all fun a => a.wave ≠ wi || a.home

/-- A gang is terminated: issue stops; pending operations complete first and their effects stand (R137, R155). -/
def State.terminateGang (s : State) (g : Nat) : State :=
  let gg := s.gangs.get g
  if gg.st = .absent then s
  else
    let s := gg.waves.foldl (fun s w => (((s.drainStores w).arriveAll (coreOf w)).leaveLatches w true).withdraw w) s
    if s.gangQuiet gg then s.releaseGang g
    else
      let s := s.modGang g fun x => { x with dead := true, st := .draining, request := false }
      gg.waves.foldl (fun s w => s.modWave w fun x => { x with st := .exited, wait := .none }) s

/-- A kernel stops with a status other than OK (R133, R137): its gangs are terminated, its held adds discarded, and its
launch completes once every memory effect of theirs is performed (R126). -/
def State.abortKernel (s : State) (k status cause : Nat) (r : Report) : State :=
  let kk := s.kernels.get k
  if kk.st = .absent || kk.st = .complete || kk.st = .aborted || kk.st = .aborting then s
  else
    let gs := s.gangs.filter (fun e => e.2.kern == k) |>.map Prod.fst
    let s := s.modKern k fun x => { x with st := .aborting, status := status, cause := cause, report := some r }
    let s := { s with adds := s.adds.filter fun a => a.kern ≠ k }
    let undo (c : Ctx) : Ctx :=
      { c with mirStep := 0, mirKern := 0, mirOut := [], mirrored := (c.mirrored ++ c.mirSent).eraseDups, mirSent := [], mirNext := [] }
    let s := s.modCtx kk.ctx fun c => if c.mirKern = k then undo c else c
    (gs.foldl (fun s g => s.terminateGang g) s).endAbort k

/-! ### Context events (R109–R111) -/

/-- The event record and the event fields of the context (R109). -/
def State.ctxEvent (s : State) (c code pair i0 i1 i2 : Nat) : State :=
  let x := s.ctxs.get c
  let s := s.sysWrite x.evrec.toNat (bytesLE 1 code ++ bytesLE 1 0 ++ bytesLE 2 pair ++ bytesLE 4 0 ++
    bytesLE 8 s.fab.tick ++ bytesLE 8 i0 ++ bytesLE 8 i1 ++ bytesLE 8 i2 ++ bytesLE 8 0 ++ bytesLE 16 0)
  s.modCtx c fun x => { x with evcode := code, evpend := true }

/-- Every queue of a context is held (R122). -/
def State.holdQueues (s : State) (c : Nat) : State :=
  (List.range 16).foldl (fun s j => s.modQueue (16 * c + j) fun q =>
    match q.st with
    | .idle | .active | .waiting => { q with st := .held, prior := q.st }
    | _ => q) s

/-- The hold ends (R122). -/
def State.unholdQueues (s : State) (c : Nat) : State :=
  (List.range 16).foldl (fun s j => s.modQueue (16 * c + j) fun q =>
    if q.st = .held then { q with st := q.prior } else q) s

/-- Every kernel of a context stops with CONTEXT (R133). -/
def State.abortAll (s : State) (c code i0 i1 i2 : Nat) : State :=
  let ks := s.kernels.filter (fun e => e.2.ctx == c) |>.map Prod.fst
  ks.foldl (fun s k => s.abortKernel k 3 code (rep code (u64 i0) (u64 i1) (u64 i2))) s

/-- Whether a context can be halted in its state (Table 4.2). -/
def CtxSt.haltable : CtxSt → Bool
  | .ready | .running | .suspending | .suspended | .restoring => true
  | _ => false

/-- A halting event (Table 4.2): admission stops, gangs are terminated, saved gangs discarded; a context whose pairs a
save has freed, or whose restore was under way, holds none. -/
def State.haltCtx (s : State) (c code i0 i1 i2 : Nat) : State :=
  if !(s.ctxs.get c).st.haltable then s
  else
    let s := s.holdQueues c
    let s := s.abortAll c code i0 i1 i2
    s.modCtx c fun x => { x with st := .halted, save := none, busy := false, place := [] }

/-- Uncorrectable data reaches a wave (R111): the event, the end of its gang and kernel, a halt under mu_halt. -/
def State.uncorrectable (s : State) (wi : Nat) (site : W64) (pa : Nat) : State :=
  let w := s.waves.get wi
  let c := w.id.ctx
  let s := s.ctxEvent c memUncorrectable (pairOfCore (coreOf wi)) site.toNat pa 0
  let s := s.terminateGang w.id.gang
  let s := s.abortKernel w.id.kern 3 memUncorrectable (rep memUncorrectable site (u64 pa))
  if (s.ctxs.get c).muHalt then s.haltCtx c memUncorrectable site.toNat pa 0 else s

/-! ### Taking a trap and returning (R105–R107, R113, R165) -/

/-- `st.trapcause` (R113). -/
def causeWord (r : Report) (nest : Bool) : W64 :=
  u64 (r.code + (if r.vec then 256 else 0) + (if r.async then 512 else 0) + (if nest then 1024 else 0))

/-- The frame of R106: s0 to s63, c7 to c1 with bit 0 set, crew. -/
def Wave.frameCells (w : Wave) : List (Nat × Byte) :=
  (List.range 64).flatMap (fun n => cellsOf (0xD80 + 8 * n) 8 (w.getS n).toNat) ++
  cellsOf 0xF80 1 (w.ctl.c.toNat ||| 1) ++ cellsOf 0xF88 8 w.ctl.crew.toNat

/-- The trap registers as a report leaves them (R113, R114). -/
def TrapRegs.withReport (t : TrapRegs) (r : Report) (nest : Bool) (restart : W64) : TrapRegs :=
  { t with cause := causeWord r nest, pc := r.pc, epc := restart, info0 := r.i0, info1 := r.i1, info2 := r.i2,
           info3 := r.i3 }

/-- Entry to the handler, in the order of R106; the vector side is held. -/
def Wave.enterHandler (w : Wave) (r : Report) (restart : W64) : Wave :=
  { w with
    trap := { w.trap.withReport r true restart with
      clause := w.ctl.clause, restart := restart, faults := w.ctl.faults, skip := w.ctl.skip }
    prol := w.prol.putAll w.frameCells
    ctl := { w.ctl with pc := w.trap.handler, clause := none, faults := [], skip := false }
    vec := { w.vec with held := true }
    wait := .none }

/-- A precise trap of a wave (R105): the handler, or the end of the gang and its kernel. -/
def State.takeTrap (s : State) (wi : Nat) (r : Report) (restart : W64) : State :=
  let s := (s.drainStores wi).leaveLatches wi false
  let w := s.waves.get wi
  if w.trap.handler ≠ 0 && !w.nest then
    ((s.withdraw wi).setWave wi (w.enterHandler r restart)).mendLocal wi w.frameCells
  else
    let s := s.terminateGang w.id.gang
    s.abortKernel w.id.kern 1 r.code r

/-- The registers `eret` restores from the frame as it stands (R107). -/
def Wave.fromFrame (w : Wave) : Wave :=
  let w := (List.range 64).foldl (fun w n => w.setS n (u64 (w.prol.readNat (0xD80 + 8 * n) 8))) w
  { w with ctl := { w.ctl with
      c := BitVec.ofNat 8 (w.prol.readNat 0xF80 1 / 2 * 2)
      crew := u64 (w.prol.readNat 0xF88 8) } }

/-- A `brv` that the control slice leaves while its answer is out: the answer, when it comes, is discarded (R181; log
entry 3). -/
def Wave.dropBrv (w : Wave) : Wave :=
  if w.ctl.brv.isNone then w
  else
    { w with ctl := { w.ctl with
      brv := none, owed := w.ctl.owed.map fun o => if o = .brv then .pred 0 else o } }

/-- `eret` with a good `st.epc` (R71, R107): the frame's registers, nest cleared, issue from `st.epc`; the interrupted
clause, and the skipping of R187 (log entry 73), go on only at the restart address. -/
def Wave.leaveHandler (w : Wave) : Wave :=
  let back := w.trap.epc = w.trap.restart
  let w := if back then w.fromFrame else w.fromFrame.dropBrv
  { w with
    ctl := { w.ctl with
      pc := w.trap.epc
      clause := if back then w.trap.clause else none
      skip := back && w.trap.skip
      faults := w.trap.faults ++ w.ctl.faults }
    trap := { w.trap with cause := w.trap.cause &&& ~~~(1#64 <<< 10), clause := none, faults := [], skip := false }
    vec := { w.vec with held := false } }

/-! ### Parcels of an instruction in a report (R77) -/

/-- info0 and info1 of ILLEGAL_ENCODING for given parcels. -/
def parcelReport (ps : List W32) : Report :=
  let p (i : Nat) : Nat := (ps[i]?.getD 0).toNat
  rep illegalEncoding (u64 (p 0 + 2 ^ 32 * p 1)) (u64 (p 2))

/-- ILLEGAL_ENCODING raised by an instruction as it executes: its own parcels. -/
def illegalOf (i : Instr) : Report := parcelReport ((encode i).getD [])

end Sys2Proof.Machine
end

