-- ==== Sys2Proof/Machine/Operands.lean ====
section
/-!
DEFINITION. Operand forms of the control stream: the registers an instruction reads and writes (R60, R69), its length,
its scalar address (R63), and what a long-latency instruction captures when it issues.
-/
namespace Sys2Proof.Machine

/-- Length in parcels (R51). -/
def parcelsOfInstr (i : Instr) : Nat :=
  match i.form? with
  | some f => f.parcels
  | none => 1

/-- The s registers a field names under its role and kind (R60, R61). -/
def roleS (r : Role) (kind : Bool) (x : BitVec 8) : List Nat :=
  match r with
  | .s => [x.toNat]
  | .src | .src32 => if kind then [] else [x.toNat]
  | _ => []

/-- Registers an instruction names beyond the fields of its row: pairs of an operand reference, the new value of
`cas`, the arguments of `vrun`, an index register. -/
def extraS (i : Instr) (f : Form) : List Nat :=
  match i with
  | .satomCas _ => [f.c.toNat, f.c.toNat + 1] ++ (if f.indexed then [f.b.toNat] else [])
  | .sld _ | .sst _ | .satomAdd _ | .satomMin _ | .satomMax _ | .satomAnd _ | .satomOr _ | .satomXor _ | .satomXchg _
  | .satomInc _ => if f.indexed then [f.b.toNat] else []
  | .ldw _ => [f.a.toNat, f.a.toNat + 1, f.c.toNat]
  | .mma _ | .mmaSp _ | .mmaSr _ => (if f.optBit 3 then [f.c.toNat] else [f.a.toNat, f.a.toNat + 1]) ++ [f.b.toNat]
  | .scac _ => [f.b.toNat, f.c.toNat]
  | .zdrain _ => [f.b.toNat, f.c.toNat]
  | .vrun _ => (List.range (f.optBits 2 0)).map fun j => f.d.toNat + j
  | .call _ | .ret _ => [63]
  | _ => []

/-- Every s register a control instruction reads or writes. -/
def sUses (i : Instr) : List Nat :=
  match i.row, i.form? with
  | some r, some f =>
    roleS r.d false f.d ++ roleS r.a (r.cls.kind f 0) f.a ++ roleS r.b (r.cls.kind f 1) f.b ++
    roleS r.c (r.cls.kind f 2) f.c ++ extraS i f ++
    (match f.ext with
     | .compat g => if g.vec then [] else [g.reg.toNat]
     | _ => [])
  | _, _ =>
    match i.short? with
    | some (_, f) => [f.d.toNat, f.a.toNat, f.b.toNat]
    | none => []

/-- Every c register a control instruction reads or writes, its guard among them. -/
def cUses (i : Instr) : List Nat :=
  match i.form? with
  | none => []
  | some f =>
    f.guard.toNat ::
    match i with
    | .cmp f => [f.d.toNat % 16, f.d.toNat / 16]
    | .sel f => [f.c.toNat]
    | .vany f | .vall f => [f.d.toNat]
    | _ => []

/-- The s register a pending operation writes (R69); 0 is none. -/
def PendingOp.dest (o : PendingOp) : Nat :=
  match o.instr with
  | .sld f | .satomAdd f | .satomMin f | .satomMax f | .satomAnd f | .satomOr f | .satomXor f | .satomXchg f
  | .satomCas f | .satomInc f | .rast f | .allred f | .mgrpDef f | .mgrpBind f | .mgrpRevoke f | .mgrpFree f => f.d.toNat
  | _ => 0

/-- Registers an instruction writes that the wave's state names: the lane register of `lsend` (R187). -/
def Wave.stateS (w : Wave) (i : Instr) : List Nat :=
  match i with
  | .lsend _ => w.ctl.serial.toList.map Serial.reg
  | _ => []

/-- Whether an instruction touches a register a pending operation or an owed answer will write (R69, R185, R186). `eret`
writes s1–s63; it waits for pending operations, but for no answer of the vector side, which it sets going again (log
entry 3). -/
def Wave.busy (w : Wave) (i : Instr) : Bool :=
  (match i with
   | .eret _ => w.ctl.ops.any fun o => o.flag < 12 && o.dest ≠ 0
   | _ => false) ||
  (sUses i ++ w.stateS i).any (fun n => n ≠ 0 &&
    (w.ctl.ops.any (fun o => o.flag < 12 && o.dest == n) || w.ctl.owed.contains (.scalar n))) ||
  (cUses i).any (fun n => n ≠ 0 && w.ctl.owed.contains (.pred n))

/-- The scalar address of R63: base, index, displacement; c gives it only where it is free. -/
def Wave.scalarAddr (w : Wave) (f : Form) (cFree : Bool) (base : W64) : W64 :=
  let index : W64 := if f.indexed then w.getS f.b.toNat <<< f.scale else 0
  let disp : W64 :=
    match f.lit? with
    | some v => v.signExtend 64
    | none => if cFree then f.c.signExtend 64 else 0
  base + index + disp

/-- Whether a scalar access names local space (R197). -/
def localBit (f : Form) : Bool := !f.indexed && f.b == 0x80

/-- What a long-latency instruction captures at issue. A memory instruction captures its address in `b`. -/
def Wave.caps (w : Wave) (i : Instr) (f : Form) : Caps :=
  let a := match i with
    | .sld _ | .sst _ => w.scalarAddr f true (w.getS f.a.toNat)
    | .satomAdd _ | .satomMin _ | .satomMax _ | .satomAnd _ | .satomOr _ | .satomXor _ | .satomXchg _ | .satomCas _
    | .satomInc _ => w.scalarAddr f false (w.getS f.a.toNat)
    | _ => w.getS (f.a.toNat % 64)
  { d := w.getS (f.d.toNat % 64), a := a, a1 := w.getS ((f.a.toNat + 1) % 64), b := w.getS (f.b.toNat % 64),
    c := w.getS (f.c.toNat % 64), c1 := w.getS ((f.c.toNat + 1) % 64), crew := w.ctl.crew }

end Sys2Proof.Machine
end

