-- ==== Sys2Proof/Machine/Flags.lean ====
section
/-!
DEFINITION. Every flag computation: guards (R65, R67), relations and predicate pairs (R59, R66), completion flags and
the faults they hold (R69, R70).
-/
namespace Sys2Proof.Machine

/-- Whether a control instruction's guard and compatibility guard let it execute (R65, R67). -/
def Wave.guardTrue (w : Wave) (i : Instr) : Bool :=
  match i.form? with
  | none => true
  | some f =>
    (w.getC f.guard.toNat != f.gneg) &&
    match f.ext with
    | .compat g => (w.getS g.reg.toNat).getLsbD g.bit.toNat != g.neg
    | _ => true

/-- Lanes of a mask whose guards let them execute (R65, R67). -/
def Wave.guardLanes (w : Wave) (f : Form) (m : W64) : W64 :=
  let p := w.getP f.guard.toNat
  let m := m &&& (if f.gneg then ~~~p else p)
  match f.ext with
  | .compat g => maskWhere m fun l => (w.getV g.reg.toNat l).getLsbD g.bit.toNat != g.neg
  | _ => m

/-- Registers of v the wave may name (R157). -/
def State.vregs (s : State) (w : Wave) : Nat :=
  if (s.gangOf w).granted then (s.kernOf w).desc.regs else 16

/-- ALLOTMENT for the first register of a list outside the allotment (R157, R203); lists follow the order d, a, b, c
(log entry 14). -/
def State.checkRegs (s : State) (regs : List Nat) : Eff Unit :=
  match regs.find? fun r => decide (s.vregs s.me ≤ r) with
  | some r => trapEff (allotReg r)
  | none => pure ()

/-- The relation of a condition on two integers (Table 3.6); ord and uno belong to floats. -/
def condHolds (c : Cond) (x y : Int) : Bool :=
  match c with
  | .eq => x == y
  | .ne => x != y
  | .lt => decide (x < y)
  | .le => decide (x ≤ y)
  | .gt => decide (x > y)
  | .ge => decide (x ≥ y)
  | .ord => true
  | .uno => false

/-- The new values of a predicate pair (Table 3.9): guard result g, compare result q, old P and Q; none is unchanged. -/
def combine (t : CType) (g q P Q : Bool) : Option (Bool × Bool) :=
  if g then
    match t.mode with
    | .set => some (q, !q)
    | .all => some (P && q, Q && !q)
    | .any => some (P || q, Q || !q)
    | .odd => some (P != q, Q != !q)
  else if t.zero then some (false, false) else none

/-- A completion flag (R69). -/
def Wave.flag (w : Wave) (n : Nat) : Bool := w.ctl.f.getLsbD n
def Wave.setFlag (w : Wave) (n : Nat) (b : Bool) : Wave :=
  { w with ctl := { w.ctl with f := (w.ctl.f &&& ~~~(1#12 <<< n)) ||| (if b then 1#12 <<< n else 0#12) } }

/-- The earliest-issued fault whose flag is covered (R70). -/
def Wave.firstFault (w : Wave) (covers : Nat → Bool) : Option HeldFault :=
  (w.ctl.faults.filter fun h => covers h.flag).foldl (fun acc h =>
    match acc with
    | some a => if h.uid < a.uid then some h else some a
    | none => some h) none

/-- The wave without a held fault. -/
def Wave.dropFault (w : Wave) (uid : Nat) : Wave :=
  { w with ctl := { w.ctl with faults := w.ctl.faults.filter fun h => h.uid != uid } }

/-- Raises the first covered fault at a raising point (R70): none where nothing is covered. MEM_UNCORRECTABLE held by a
flag is delivered as R111 gives. -/
def State.raiseHeld (s : State) (covers : Nat → Bool) : Option State :=
  (s.me.firstFault covers).map fun h =>
    let s := s.modMe fun w => w.dropFault h.uid
    if h.report.code = memUncorrectable then s.uncorrectable s.cur h.report.pc h.report.i1.toNat
    else s.takeTrap s.cur { h.report with async := true, vec := false } s.me.ctl.pc

end Sys2Proof.Machine
end

