-- ==== Sys2Proof/Machine/Streams.lean ====
section
/-!
DEFINITION. How an instruction of either stream runs around its own effect: clauses, guards, register waits,
long-latency issue and completion, block position, traps, and the fetch of an instruction's parcels (R52, R65, R69–R73,
R107, R165).
-/
namespace Sys2Proof.Machine

/-! ### Fetch (R51, R52) -/

def needFetch : Need := { kind := .fetch, read := false, write := false, exec := true, peer := false, host := false }

/-- One parcel at a code address. -/
def State.fetchParcel (s : State) (c : Ctx) (va : W64) : Eff W32 := do
  let t ← s.checkGlobal c needFetch 0 va.toNat 4
  let v ← s.readAt t 4
  pure (u32 v)

/-- The parcels of the instruction or header at a code address: as many as its length bits say. -/
def State.fetch (s : State) (c : Ctx) (va : W64) : Eff (List W32) := do
  let p0 ← s.fetchParcel c va
  match (p0.extractLsb' 0 2).toNat with
  | 1 => do
    let p1 ← s.fetchParcel c (va + 4)
    pure [p0, p1]
  | 2 => do
    let p1 ← s.fetchParcel c (va + 4)
    let p2 ← s.fetchParcel c (va + 8)
    pure [p0, p1, p2]
  | _ => pure [p0]

/-! ### The control stream -/

/-- The instruction is left behind: pc and clause move on (R69). -/
def Wave.advance (w : Wave) (n : Nat) (ll : Bool) : Wave :=
  { w with
    wait := .none
    ctl := { w.ctl with
      pc := w.ctl.pc + u64 (4 * n)
      clause := w.ctl.clause.bind fun c =>
        if c.rem ≤ n then none else some { c with rem := c.rem - n, slot := c.slot + (if ll then 1 else 0) } } }

/-- A control transfer; it ends any clause (R71, R72). -/
def Wave.jump (w : Wave) (t : W64) : Wave :=
  { w with wait := .none, ctl := { w.ctl with pc := t, clause := none } }

/-- A change of the wave at work, unless it has left its slot. -/
def State.onMe (s : State) (f : Wave → Wave) : State := if s.me.st = .free then s else s.modMe f

/-- The wave stands at its instruction. -/
def State.stay (s : State) (why : Wait) : State :=
  s.onMe fun w => { w with wait := why }

/-- A control instruction stops as its effect says: a trap at it, uncorrectable data, or a wait. -/
def State.ctlStop (s : State) (e : Stop) : State :=
  let site := s.me.ctl.pc
  match e with
  | .trap r => (s.endOwn s.cur false).takeTrap s.cur { r with pc := site, vec := false, async := false } site
  | .trapIn r s' => (s'.endOwn s.cur false).takeTrap s.cur { r with pc := site, vec := false, async := false } site
  | .uncorr pa => s.uncorrectable s.cur site pa
  | .wait why s' => (s'.getD s).stay why

/-! ### When a wave issues (R97, R102, R166, R427) -/

/-- Whether a wave is inside the round of one lane of `lser` … `lsend`, where it is not pre-empted (R166), and waits for no
other party there (R167). -/
def Wave.inRound (w : Wave) : Bool :=
  w.ctl.serial.any (fun x => x.ret ≠ w.ctl.pc) && (w.wait == .none || w.wait == .other)

/-- Whether power or thermal control holds back issue, the matrix engines and the requests to memory (R427). -/
def State.heldBack (s : State) : Bool := s.dv.stopped || s.dv.gated

/-- Whether a wave goes on where its context or workgroup stops: inside a lane's round, or where a pending operation waits for
it (R97, R187; log entry 77). -/
def State.runsOn (s : State) (wi : Nat) : Bool := (s.waves.get wi).inRound || s.onward.contains (wi, true)

/-- Whether a wave's streams may issue: its slot runs; its workgroup is not stopped and its context runs, or lets workgroups
retire at levels 1 and 2, but for a wave that runs on; and no control stops issue. -/
def State.mayIssue (s : State) (wi : Nat) : Bool :=
  let w := s.waves.get wi
  let g := s.gangOf w
  let c := s.ctxOf w
  w.st = .running && (!g.stops.contains (w.id.member / (s.kernOf w).desc.wgwaves) || s.runsOn wi) &&
  !s.heldBack &&
  (c.st = .running || (c.st = .suspending && (decide (0 < s.levelOf w) || s.runsOn wi)))

/-- Whether the vector side of a wave may issue: where a pending operation waits for its blocks too (R97, R284). -/
def State.vecMayIssue (s : State) (wi : Nat) : Bool :=
  let w := s.waves.get wi
  s.mayIssue wi ||
  (w.st = .running && s.onward.contains (wi, false) && !s.heldBack && decide ((s.ctxOf w).st = .suspending))

/-- Whether a vector trap of a wave is delivered now: the wave may issue, its vector side is not held, and its control slice
stands at an instruction boundary (R165). -/
def State.mayTrap (s : State) (wi : Nat) : Bool :=
  s.mayIssue wi && !(s.waves.get wi).vec.held && !s.midCtl wi

/-- The instructions of R107 that steer or question the vector side. -/
def steers : Instr → Bool
  | .vrun _ | .mpush _ | .melse _ | .mpop _ | .vany _ | .vall _ | .bqrd _ | .brv _ | .lser _ | .lsend _ => true
  | _ => false

/-- Instructions that transfer control or leave the wave: only last in a clause (R72). -/
def transfers : Instr → Bool
  | .br _ | .bc _ | .brv _ | .call _ | .ret _ | .jr _ | .loopTo _ | .lser _ | .lsend _ | .trapTo _ | .eret _
  | .yield _ | .exitWave _ => true
  | _ => false

/-- Long-latency instructions (Table 3.12). -/
def longLatency : Instr → Bool
  | .sld _ | .sst _ | .satomAdd _ | .satomMin _ | .satomMax _ | .satomAnd _ | .satomOr _ | .satomXor _ | .satomXchg _
  | .satomCas _ | .satomInc _ | .ldw _ | .mma _ | .mmaSp _ | .mmaSr _ | .scac _ | .zdrain _ | .evict _ | .rast _
  | .allred _ | .mgrpDef _ | .mgrpBind _ | .mgrpRevoke _ | .mgrpFree _ => true
  | _ => false

/-- A clause that the instruction breaks (R72): its length ends inside, a transfer not last, a header within. -/
def Wave.breaksClause (w : Wave) (i : Instr) : Bool :=
  match w.ctl.clause with
  | none => false
  | some c =>
    let n := parcelsOfInstr i
    decide (c.rem < n) || (transfers i && decide (n < c.rem)) ||
    match i with
    | .clauseHeader _ => true
    | _ => false

/-- Whether a guard's own register is still owed (R185). -/
def Wave.guardOwed (w : Wave) (i : Instr) : Bool :=
  match i.form? with
  | some f => (f.guard ≠ 0 && w.ctl.owed.contains (.pred f.guard.toNat)) ||
    match f.ext with
    | .compat g => g.reg ≠ 0 && w.ctl.owed.contains (.scalar g.reg.toNat)
    | _ => false
  | none => false

/-- Whether the register of a compatibility guard waits for a pending operation (R67, R69). -/
def Wave.guardBusy (w : Wave) (i : Instr) : Bool :=
  match i.form?.map Form.ext with
  | some (.compat g) => g.reg ≠ 0 && w.ctl.ops.any fun o => o.flag < 12 && o.dest == g.reg.toNat
  | _ => false

/-- A false guard steps over an instruction; a `brv` so left has no answer to wait for (R181). -/
def Wave.stepOver (w : Wave) (i : Instr) : Wave :=
  let w := match i with
    | .brv _ => w.dropBrv
    | _ => w
  w.advance (parcelsOfInstr i) (longLatency i)

/-- What happens before a control instruction's own effect: none when the effect may run; else the state that results (a
skipped parcel, an encoding error, a nested trap, a wait, a false guard). A handler's steering instruction waits for nothing
of the vector side (R107), but for what its guard reads of a pending operation (R69). -/
def State.before (s : State) (i : Instr) : Option State :=
  let w := s.me
  let n := parcelsOfInstr i
  if w.ctl.skip then
    some (s.modMe fun w =>
      let w := w.advance n false
      match i with
      | .lsend _ => { w with ctl := { w.ctl with skip := false } }
      | _ => w)
  else if w.breaksClause i || (w.nest && steers i && !w.guardBusy i && (w.guardTrue i || w.guardOwed i)) then
    some (s.ctlStop (.trap (illegalOf i)))
  else if w.busy i then some (s.stay .other)
  else if !w.guardTrue i then some (s.modMe fun w => w.stepOver i)
  else none

/-- Instructions before which the wave's store queue drains: atomics, ordered adds, accesses and fences with an order,
`mcast.st` (which writes in the order of stores), and what meets other parties (R238, R304). -/
def drains : Instr → Bool
  | .atomAdd _ | .atomMin _ | .atomMax _ | .atomAnd _ | .atomOr _ | .atomXor _ | .atomXchg _ | .atomCas _ | .atomInc _
  | .redO _ | .mcastSt _ | .attnMass _ | .texadj _ | .isectadj _ | .baryadj _ | .esmp _
  | .semw _ | .sems _ | .gnode _ | .grun _ | .barWg _ | .barM _ | .barGang _ | .barDev _ | .fbar _ | .chanPush _ | .chanPop _
  | .deqPush _ | .deqPushReset _ | .deqPop _ | .deqStealClaim _ | .deqStealRun _ | .deqStealDone _ | .exitWave _ => true
  | .ldG f | .ldL f | .stG f | .stL f | .ldg f | .stg f | .fenceVec f | .fenceCtrl f => f.order ≠ .rlx
  | _ => false

/-- Of these, those that make what the core has stored visible past it first: releases that reach there, and what meets
other parties (R20, R240, R244). -/
def publishes : Instr → Bool
  | .atomAdd f | .atomMin f | .atomMax f | .atomAnd f | .atomOr f | .atomXor f | .atomXchg f | .atomCas f | .atomInc f
  | .ldG f | .ldL f | .stG f | .stL f | .ldg f | .stg f | .fenceVec f | .fenceCtrl f => f.publishes
  | .redO _ | .attnMass _ | .texadj _ | .isectadj _ | .baryadj _ | .esmp _ | .semw _ => false
  | i => drains i

/-- The state in which an instruction's own effect begins. -/
def State.ordered (s : State) (i : Instr) : State :=
  if drains i then
    let s := s.drainStores s.cur
    if publishes i then s.arriveAll (coreOf s.cur) else s
  else s

/-- A control instruction that falls through, or transfers control where its effect names a target. -/
def runFlow (i : Instr) (body : State → Eff (State × Option W64)) (s : State) : Result State :=
  match s.before i with
  | some s' => .next s'
  | none =>
    let s := s.ordered i
    match body s with
    | .ok (s', none) => .next ((s'.endOwn s.cur false).onMe fun w => w.advance (parcelsOfInstr i) false)
    | .ok (s', some t) => .next ((s'.endOwn s.cur false).onMe fun w => w.jump t)
    | .error e => .next (s.ctlStop e)

/-- A control instruction that falls through. -/
def runCtl (i : Instr) (body : State → Eff State) (s : State) : Result State :=
  runFlow i (fun s => (body s).map fun s' => (s', none)) s

/-- What a long-latency operation acts with: its wave, number, instruction address, instruction and captured values. -/
structure OpCtx where
  wi    : Nat
  uid   : Nat
  site  : W64
  i     : Instr
  f     : Form
  caps  : Caps
  mark  : Nat
  /-- Bytes of memory that its checks read as it issued. -/
  desc  : List Byte := []
  deriving DecidableEq, Repr

/-- A long-latency operation: its checks as it issues, with what it takes then; the ranges it locks from issue to completion;
and its effect, performed whole. -/
structure LongOp where
  start  : OpCtx → State → Eff (OpCtx × State) := fun c s => pure (c, s)
  locks  : OpCtx → State → List Lock
  finish : OpCtx → State → Eff State

def noLocks : OpCtx → State → List Lock := fun _ _ => []

/-- The flag an instruction takes from its clause (R69); 15 is none. -/
def Wave.setFlagOf (w : Wave) : Nat :=
  match w.ctl.clause with
  | none => 15
  | some c => if c.slot = 0 then c.set1 else if c.slot = 1 then c.set2 else 15

def State.recordOp (s : State) (o : OpCtx) (flag : Nat) : State :=
  s.modWave o.wi fun w => { w with ctl := { w.ctl with
    ops := w.ctl.ops ++ [{ uid := o.uid, site := o.site, instr := o.i, flag, caps := o.caps, mark := o.mark,
                            stamp := s.epoch, since := s.own, desc := o.desc }] } }

/-- Scalar memory accesses: those of one wave take effect in the order they issue (R238). -/
def scalarMemory : Instr → Bool
  | .sld _ | .sst _ | .satomAdd _ | .satomMin _ | .satomMax _ | .satomAnd _ | .satomOr _ | .satomXor _ | .satomXchg _
  | .satomCas _ | .satomInc _ => true
  | _ => false

/-- Whether a wave has accesses under way that a release must find performed: ordered adds of level 0 on their way home, and
lines of `mcast.st` (R240, R257). -/
def State.outstanding (s : State) (wi : Nat) : Bool :=
  (s.levelOf (s.waves.get wi) = 0 && s.adds.any fun a => a.wave == wi && !a.home) ||
  s.fab.lines.any fun e => e.2.any fun l => l.wave == wi

/-- What a wave does before an instruction that releases its accesses. -/
def State.release (s : State) (wi : Nat) : Eff Unit := if s.outstanding wi then waitEff .other else pure ()

/-- The issue of an operation. That of an engine is a release (R244): the wave's accesses are performed first. Its checks
follow, and its ranges enter the range-lock table in their turn (R245). -/
def State.issueOp (s : State) (op : LongOp) (c : OpCtx) : Eff (OpCtx × State) := do
  let s ← if scalarMemory c.i then pure s else do
    let s := (s.drainStores c.wi).arriveAll (coreOf c.wi)
    if (s.waves.get c.wi).ctl.ops.any fun o => scalarMemory o.instr then .error (.wait .other (some s))
    s.release c.wi
    pure s
  let (c, s1) ← op.start c { s with uid := s.uid + 1 }
  let ls := op.locks c s
  let who := lockAsker c.wi false
  let ctx := (s.waves.get c.wi).id.ctx
  if s.lockTurn who ctx ls then pure (c, (s1.leaveLockq who).addLocks ls)
  else .error (.wait .other (some (s.joinLockq who ctx)))

/-- An access issued before a migration of the context began, and one issued since, by their numbers: the first does not meet
the page's hold (R335). -/
def State.lift (s : State) (ci no : Nat) : State :=
  match (s.ctxs.get ci).page.doing with
  | .migrate _ leaf _ _ before => if no < before then s.modCtx ci fun c => { c with lifted := some leaf } else s
  | _ => s
def State.unlift (s : State) (ci : Nat) : State :=
  if (s.ctxs.get ci).lifted.isNone then s else s.modCtx ci fun c => { c with lifted := none }

/-- The state a stop carries, changed. -/
def Stop.onState (f : State → State) : Stop → Stop
  | .trapIn r s => .trapIn r (f s)
  | .wait why (some s) => .wait why (some (f s))
  | e => e

/-- The effect of an operation that has issued. -/
def LongOp.act (op : LongOp) (c : OpCtx) (s : State) : Eff State :=
  let ci := (s.waves.get c.wi).id.ctx
  match op.finish c (s.lift ci c.uid) with
  | .ok s' => .ok (s'.unlift ci)
  | .error e => .error (e.onState fun s' => s'.unlift ci)

/-- An operation as it stands in its record. -/
def PendingOp.ctx (o : PendingOp) (wi : Nat) (f : Form) : OpCtx :=
  { wi, uid := o.uid, site := o.site, i := o.instr, f, caps := o.caps, mark := o.mark, desc := o.desc }

/-- An operation waits at a leaf with hold set, so that its access has not executed and holds no quiescence back (R329, R333);
or it waits otherwise, and its access stands as issued now. -/
def State.noteHeld (s : State) (wi uid : Nat) (held : Bool) : State :=
  if (s.waves.get wi).ctl.ops.all fun o => o.uid ≠ uid || o.held == held then s
  else
    s.modWave wi fun w => { w with ctl := { w.ctl with
      ops := w.ctl.ops.map fun o => if o.uid = uid then { o with held, stamp := s.epoch } else o } }

/-- The state in which an operation waits: as it stands, or as the wait has left it. -/
def State.opWaits (s : State) (wi uid : Nat) (why : Wait) (s' : Option State) : State :=
  (s'.getD s).noteHeld wi uid (why == .hold)

/-- The completion of an engine's operation is an acquire (R244). -/
def State.observe (s : State) (wi : Nat) (i : Instr) : State := if scalarMemory i then s else s.acquire wi

/-- An operation that holds no flag, of the wave at work, ends: its instruction is left behind, or stops as the effect says
(R69, R70). One of a terminated wave just ends (R155). -/
def State.endSync (s : State) (c : OpCtx) (x : Eff State) : State :=
  match x with
  | .ok s' => ((s'.endOp c.wi c.uid).observe c.wi c.i).onMe fun w => if w.st = .running then w.advance (parcelsOfInstr c.i) true else w
  | .error (.wait why s') => (s.opWaits c.wi c.uid why s').stay why
  | .error (.trapIn r s') =>
    let s' := s'.endOp c.wi c.uid
    if s'.me.st = .running then s'.ctlStop (.trap r) else s'
  | .error e =>
    let s' := s.endOp c.wi c.uid
    if s'.me.st = .running then s'.ctlStop e else s'

/-- A long-latency instruction without a flag: it issues and completes before the next one (R69). -/
def runSync (i : Instr) (f : Form) (op : LongOp) (s : State) : State :=
  let w := s.me
  match w.ctl.ops.find? fun o => o.flag == 15 && o.site == w.ctl.pc with
  | some o => s.endSync (o.ctx s.cur f) (op.act (o.ctx s.cur f) s)
  | none =>
    match s.issueOp op { wi := s.cur, uid := s.uid + 1, site := w.ctl.pc, i, f, caps := w.caps i f, mark := w.issued } with
    | .error e => s.ctlStop e
    | .ok (c, s1) =>
      match op.finish c s1 with
      | .error (.wait why s') => (((s'.getD s1).recordOp c 15).noteHeld c.wi c.uid (why == .hold)).stay why
      | x => s1.endSync c x

/-- A fault held by a flag until a raising point (R70). -/
def State.holdFault (s : State) (wi uid flag : Nat) (site : W64) (r : Report) : State :=
  s.modWave wi fun w =>
    { w with ctl := { w.ctl with faults := w.ctl.faults ++ [{ uid, flag, report := { r with pc := site } }] } }

/-- A long-latency instruction that takes a flag: it waits for the flag, then issues and goes on; a fault it meets as it
issues is held by the flag as one of its completion (R69, R70). -/
def runFlagged (i : Instr) (f : Form) (op : LongOp) (fx : Nat) (s : State) : State :=
  let w := s.me
  match s.raiseHeld fun x => x == fx with
  | some s' => s'
  | none =>
    if w.flag fx then s.stay .other
    else
      let site := w.ctl.pc
      let held (s : State) (r : Report) : State :=
        (({ s with uid := s.uid + 1 }.leaveLockq (lockAsker s.cur false)).holdFault s.cur (s.uid + 1) fx site r).modMe fun w => w.advance (parcelsOfInstr i) true
      match s.issueOp op { wi := s.cur, uid := s.uid + 1, site, i, f, caps := w.caps i f, mark := w.issued } with
      | .ok (c, s1) => (s1.recordOp c fx).modMe fun w => (w.setFlag fx true).advance (parcelsOfInstr i) true
      | .error (.trap r) => held s r
      | .error (.trapIn r s') => held s' r
      | .error (.uncorr pa) => held s (rep memUncorrectable site (u64 pa))
      | .error (.wait why s') => (s'.getD s).stay why

/-- A long-latency instruction (R69). -/
def runLong (i : Instr) (f : Form) (op : LongOp) (s : State) : Result State :=
  match s.before i with
  | some s' => .next s'
  | none =>
    let fx := s.me.setFlagOf
    if fx < 12 then .next (runFlagged i f op fx s) else .next (runSync i f op s)

/-- A pending operation goes on as far as it can (R69, R70): none where it waits and nothing changes. -/
def completeOp (op : LongOp) (wi : Nat) (o : PendingOp) (f : Form) (s : State) : Option State :=
  let c := o.ctx wi f
  if o.flag = 15 then
    let s := { s with cur := wi }
    match op.act c s with
    | .error (.wait why none) => if o.held = (why == .hold) then none else some (s.opWaits wi o.uid why none)
    | x => some (s.endSync c x)
  else
    let clear (s : State) : State := (s.endOp wi o.uid).modWave wi fun w => w.setFlag o.flag false
    match op.act c s with
    | .ok s' => some ((clear s').observe wi o.instr)
    | .error (.trap r) => some ((clear s).holdFault wi o.uid o.flag o.site r)
    | .error (.trapIn r s') => some ((clear s').holdFault wi o.uid o.flag o.site r)
    | .error (.uncorr pa) => some ((clear s).holdFault wi o.uid o.flag o.site (rep memUncorrectable o.site (u64 pa)))
    | .error (.wait why none) => if o.held = (why == .hold) then none else some (s.opWaits wi o.uid why none)
    | .error (.wait why s') => some (s.opWaits wi o.uid why s')

/-! ### Waits for the vector side (R162) -/

/-- The vector side has nothing left: or, in a handler of a vector-stream trap, it is held and counts as done. -/
def Wave.vecIdle (w : Wave) : Bool :=
  (w.nest && w.vecTrap) || (w.ctl.queue.isEmpty && w.vec.block.isNone && w.vec.gather.isNone)

/-! ### The vector side -/

/-- Lanes active at the current depth (R164). -/
def Wave.act (w : Wave) : W64 :=
  match w.vec.masks with
  | l :: _ => l.act
  | [] => allLanes w.id.width

/-- sermask (R187). -/
def Wave.sermask (w : Wave) : W64 :=
  match w.vec.serial with
  | some l => u64 (2 ^ l)
  | none => allLanes w.id.width

/-- Lanes the block runs. -/
def Wave.blockMask (w : Wave) : W64 :=
  match w.vec.block with
  | some b => b.mask
  | none => w.act &&& w.sermask

/-- Address of the vector instruction at hand. -/
def Wave.vecSite (w : Wave) : W64 :=
  match w.vec.block with
  | some b => b.base + u64 (4 + 4 * b.at_)
  | none => 0

/-- %iter. -/
def Wave.iter (w : Wave) : Nat :=
  match w.vec.block with
  | some b => b.iter
  | none => 0

/-- The vector side moves past an instruction of `n` parcels, to the next iteration, or to the end of the block. -/
def Wave.vadvance (w : Wave) (n : Nat) : Wave :=
  match w.vec.block with
  | none => w
  | some b =>
    if b.at_ + n < b.len then { w with vec := { w.vec with block := some { b with at_ := b.at_ + n } } }
    else if b.iter + 1 < b.trip then
      { w with vec := { w.vec with block := some { b with at_ := 0, iter := b.iter + 1 } } }
    else { w with vec := { w.vec with block := none }, taken := w.taken + 1 }

/-- A trap of the vector side is delivered at V, or stays pending there until it can be (R165, R264). -/
def State.vecTrapAt (s : State) (r : Report) : State :=
  if s.mayTrap s.cur then s.takeTrap s.cur r s.me.ctl.pc
  else s.modMe fun w => { w with vec := { w.vec with pend := some r, gather := none } }

/-- A vector instruction or token stops as its effect says, at an address (R165). -/
def State.vecStop (s : State) (site : W64) (e : Stop) : State :=
  match e with
  | .trap r => (s.endOwn s.cur true).vecTrapAt { r with pc := site, vec := true, async := false }
  | .trapIn r s' => (s'.endOwn s.cur true).vecTrapAt { r with pc := site, vec := true, async := false }
  | .uncorr pa => s.uncorrectable s.cur site pa
  | .wait _ s' => s'.getD s

/-! ### Registers of the vector stream -/

/-- Consecutive registers. -/
def regRange (r n : Nat) : List Nat := (List.range n).map (r + ·)

/-- Registers of an element of a type, from one named (R60). -/
def dstRegs (t : ElemType) (d : Nat) : List Nat := if t.is64 then [d, d + 1] else [d]

/-- Registers that form an address (R254). -/
def addrRegs (f : Form) (loc : Bool) : List Nat :=
  (if f.baseKind then [] else if loc then [f.a.toNat] else [f.a.toNat, f.a.toNat + 1]) ++
  (if f.indexed then [f.b.toNat] else [])

/-- Registers of `tex` and `texadj` besides d. -/
def texRegs (f : Form) : List Nat :=
  [f.a.toNat, f.a.toNat + 1, f.b.toNat, f.b.toNat + 1] ++ regRange f.c.toNat (if f.optBit 0 then 1 else 4)

/-- The registers a form's fields name as sources under the roles of its row. -/
def rowReads (i : Instr) (f : Form) : List Nat :=
  let field (r : Role) (kind : Bool) (x : BitVec 8) : List Nat :=
    match r with
    | .v => [x.toNat]
    | .vEven | .vMax _ => [x.toNat]
    | .vT => dstRegs f.type x.toNat
    | .src => if kind then [] else dstRegs f.type x.toNat
    | .src32 => if kind then [] else [x.toNat]
    | _ => []
  match i.row with
  | none => []
  | some r => field r.a (r.cls.kind f 0) f.a ++ field r.b (r.cls.kind f 1) f.b ++ field r.c (r.cls.kind f 2) f.c

/-- The v registers a vector instruction reads. -/
def vReads (i : Instr) (f : Form) : List Nat :=
  let d := f.d.toNat
  let pair := [f.b.toNat, f.b.toNat + 1]
  match i with
  | .ldG _ | .ldg _ | .pref _ => addrRegs f false
  | .ldL _ => addrRegs f true
  | .stG _ | .stg _ => dstRegs f.type d ++ addrRegs f false
  | .mcastSt _ => dstRegs f.type d ++ addrRegs f false ++ [f.c.toNat]
  | .stL _ => dstRegs f.type d ++ addrRegs f true
  | .redO _ => d :: addrRegs f false
  | .atomAdd _ | .atomMin _ | .atomMax _ | .atomAnd _ | .atomOr _ | .atomXor _ | .atomXchg _ | .atomInc _ =>
    dstRegs f.type f.c.toNat ++ addrRegs f (localBit f)
  | .atomCas _ => regRange f.c.toNat (if f.type.is64 then 4 else 2) ++ addrRegs f (localBit f)
  | .fenceVec _ | .tpop _ | .tckptGet _ => []
  | .cvt _ => if f.kindA then [] else dstRegs f.stype f.a.toNat
  | .zcopy _ => if f.optBit 0 then regRange d (if f.type = .ax48 then 2 * f.c.toNat else f.c.toNat) else []
  | .attnStep _ | .attnMass _ => [d, d + 1, d + 2, f.a.toNat] ++ pair ++ [f.c.toNat, f.c.toNat + 1]
  | .tex _ => texRegs f
  | .texadj _ => d :: texRegs f
  | .trav _ => regRange f.a.toNat 8 ++ pair
  | .isect _ => regRange f.a.toNat 8 ++ pair ++ [f.c.toNat]
  | .isectadj _ => regRange f.a.toNat 8 ++ pair ++ regRange f.c.toNat 3
  | .bary _ => [f.a.toNat] ++ pair ++ [f.c.toNat]
  | .baryadj _ => regRange d (f.optBits 8 6 + 1) ++ [f.a.toNat] ++ pair ++ [f.c.toNat]
  | .esmp _ => (if f.optBit 0 then [d] else []) ++ [f.a.toNat] ++ pair ++ [f.c.toNat]
  | .ibfi _ => dstRegs f.type d ++ rowReads i f
  | .pack _ | .adamw _ => d :: rowReads i f
  | .movB32Short _ => [f.a.toNat]
  | .faddF32Short _ | .fsubF32Short _ | .fmulF32Short _ | .fminF32Short _ | .fmaxF32Short _ | .iaddI32Short _
  | .isubI32Short _ | .imulI32Short _ | .iandB32Short _ | .iorB32Short _ | .ixorB32Short _ | .ishlB32Short _
  | .ishrB32Short _ | .isarI32Short _ => [f.a.toNat, f.b.toNat]
  | _ => rowReads i f

/-- The v registers a vector instruction writes; those of `tex` past the first are known once its channels are. -/
def vWrites (i : Instr) (f : Form) : List Nat :=
  let d := f.d.toNat
  match i with
  | .stG _ | .stL _ | .stg _ | .redO _ | .trec _ | .tckpt _ | .fenceVec _ | .pref _ | .fcmp _ | .icmp _ | .pand _ | .por _
  | .pxor _ | .pnot _ | .attnMass _ | .baryadj _ => []
  | .mcastSt _ => [f.b.toNat, f.b.toNat + 1]
  | .matchLanes _ | .ballot _ | .texadj _ => [d, d + 1]
  | .adamw _ => [d, f.b.toNat, f.c.toNat]
  | .zcopy _ => if f.optBit 0 then [] else regRange d (if f.type = .ax48 then 2 * f.c.toNat else f.c.toNat)
  | .attnStep _ | .isect _ => regRange d 3
  | .trav _ => regRange d 4
  | .isectadj _ => regRange d 6
  | .bary _ => regRange d (if f.optBit 5 then f.optBits 8 6 + 1 else 3)
  | .esmp _ => if f.optBit 0 then [] else regRange d 4
  | .ipopc _ | .iclz _ | .fclass _ => [d]
  | _ => dstRegs f.type d

/-- Registers a source takes under a type (R60). -/
def srcRegs (t : ElemType) : Src → List Nat
  | .reg n => if t.is64 then [n, n + 1] else [n]
  | _ => []

/-- The v registers a vector instruction reads in its active lanes: not the source of one that moves lanes, which is read in
others. -/
def eccReads (i : Instr) (f : Form) : List Nat :=
  match i with
  | .perm _ | .bcast _ | .slideup _ | .slidedn _ => srcRegs .n32 (f.srcB true)
  | .compress _ | .expand _ => []
  | i => vReads i f

/-- Uncorrectable data in a register granule of some lanes (R111, R430; log entry 16); of the active lanes. -/
def State.checkEccOf (s : State) (regs ls : List Nat) : Eff Unit :=
  match s.dv.bad with
  | [] => pure ()
  | bad =>
    match ls.findSome? fun l => regs.findSome? fun r =>
      let g := s.cur * 2 ^ 11 + r * 8 + l / 8
      if bad.contains (.registerFile, g) then some g else none with
    | some g => .error (.uncorr (32 * g))
    | none => pure ()
def State.checkEcc (s : State) (regs : List Nat) (A : W64) : Eff Unit := s.checkEccOf regs (lanesOf A)

/-- An instruction that reads a pair still owed the answer of an `mcast.st` waits for it (R270). -/
def State.ackOwed (s : State) (wi : Nat) (regs : List Nat) : Bool :=
  s.fab.lines.any fun e => e.2.any fun l => l.wave == wi && (regs.contains l.dest || regs.contains (l.dest + 1))
def State.ackPending (s : State) (regs : List Nat) : Bool := s.ackOwed s.cur regs

/-- Bits of an element of a matrix operand; b32 elements are single bits (R282, R283). -/
def elemBits (t : ElemType) : Nat := if t = .b32 then 1 else t.width

/-- Registers a fragment takes of each member (R283). -/
def fragRows (t : ElemType) (n W : Nat) : Nat := ceilDiv (32 * elemBits t) (max n 1 * max W 1)

/-- Whether a pending fragment operation, issued before the block at hand, has still to read one of some registers, which an
instruction would write (R284). -/
def Wave.fragHeld (w : Wave) (regs : List Nat) : Bool :=
  w.ctl.ops.any fun o =>
    match o.instr with
    | .mma g | .mmaSp g | .mmaSr g =>
      g.optBit 3 && decide (o.mark ≤ w.taken) &&
        regs.any fun r => decide (g.a.toNat ≤ r) &&
          decide (r < g.a.toNat + fragRows g.type (o.caps.crew.toNat % 8) w.id.width)
    | _ => false

/-- A vector instruction: its effect on the lanes its guards leave. -/
def runVec (i : Instr) (f : Form) (body : W64 → State → Eff State) (s : State) : Result State :=
  let s := s.ordered i
  let w := s.me
  let guardReg : List Nat := match f.ext with
    | .compat g => [g.reg.toNat]
    | _ => []
  match (do
    if s.ackPending (guardReg ++ vReads i f) || w.fragHeld (vWrites i f) then waitEff .other
    s.checkRegs guardReg
    let A := w.guardLanes f w.blockMask
    s.checkEcc (guardReg ++ eccReads i f) A
    body A s : Eff State) with
  | .ok s' => .next ((s'.endOwn s.cur true).onMe fun w => w.vadvance (parcelsOfInstr i))
  | .error e => .next (s.vecStop w.vecSite e)

/-- A short form as the 64-bit form it equals (R76). -/
def shortForm (f : Short) (t : ElemType) : Form :=
  { guard := 0, gneg := false, d := f.d, a := f.a, b := f.b.setWidth 8, c := 0, mod := BitVec.ofNat 14 t.code,
    ext := .none }

end Sys2Proof.Machine
end

