-- ==== Sys2Proof/Machine/GroupOps.lean ====
section
/-!
DEFINITION. Shared operations on gangs: pools and demand (R158, R159), barrier instances inside a gang (R306–R309), and
the retirement of waves and workgroups (R155, R168).
-/
namespace Sys2Proof.Machine

/-! ### Pools and demand (R158, R159) -/

/-- What a wave's full allotment takes: register rows, scratchpad bytes, tiles. -/
def KDesc.need (d : KDesc) : Nat × Nat × Nat := (d.regs * d.width / 64, d.scratch + d.tape, d.tiles)

/-- The grantable pools: rows, bytes, tiles. -/
def grantable : Nat × Nat × Nat := (3584, 8064 * 1024, 256)

/-- A gang's demand on a core. -/
def State.demand (s : State) (g : Gang) (core : Nat) : Nat × Nat × Nat :=
  let n := (g.waves.filter fun w => coreOf w == core).length
  let (r, b, t) := (s.kernels.get g.kern).desc.need
  (n * r, n * b, n * t)

/-- The cores of a gang, ascending. -/
def Gang.cores (g : Gang) : List Nat := (sortNat (g.waves.map coreOf)).eraseDups

/-- Pools in use on a core: what its granted gangs took, and its pinned tiles (R158, R278). -/
def State.used (s : State) (core : Nat) : Nat × Nat × Nat :=
  let gs := s.gangs.filter fun e => e.2.granted && e.2.st != .saved && e.2.waves.any fun w => coreOf w == core
  let sum := gs.foldl (fun (acc : Nat × Nat × Nat) e =>
    let d := s.demand e.2 core
    (acc.1 + d.1, acc.2.1 + d.2.1, acc.2.2)) (0, 0, 0)
  (sum.1, sum.2.1, (s.cores.get core).owner.length)

/-- The first pool a demand exceeds: its number and the amount in rows, KiB or tiles (R115). DESIGN CHOICE (log entry 14): of
several pools the rows come first, then the scratchpad, then the tiles; a part of a KiB counts as a whole one. -/
def overPool (d pool : Nat × Nat × Nat) : Option (Nat × Nat) :=
  if pool.1 < d.1 then some (0, d.1)
  else if pool.2.1 < d.2.1 then some (1, ceilDiv d.2.1 1024)
  else if pool.2.2 < d.2.2 then some (2, d.2.2)
  else none

/-- Whether a gang's demand fits the free pools of each of its cores. -/
def State.fits (s : State) (g : Gang) : Bool :=
  g.cores.all fun c =>
    let u := s.used c
    let p := grantable
    (overPool (s.demand g c) (p.1 - u.1, p.2.1 - u.2.1, p.2.2 - u.2.2)).isNone

/-- Placement and grant order: priority descending, age ascending, gang id ascending (R128, R159). -/
def orderBefore (a b : Nat × Nat × Nat) : Bool :=
  decide (b.1 < a.1) || (a.1 == b.1 && (decide (a.2.1 < b.2.1) || (a.2.1 == b.2.1 && decide (a.2.2 < b.2.2))))

def State.gangOrder (s : State) (g : Gang) : Nat × Nat × Nat :=
  let k := s.kernels.get g.kern
  (k.prio, k.age, g.index)

/-- Whether a pending request stands ahead of a gang's on one of its cores. -/
def State.requestAhead (s : State) (g : Gang) : Bool :=
  s.gangs.any fun e =>
    e.2.request && orderBefore (s.gangOrder e.2) (s.gangOrder g) && e.2.cores.any fun c => g.cores.contains c

/-! ### Barrier instances of a gang (R306–R309) -/

/-- Keys of the instances: `bar.wg` of workgroup n, `bar.gang`, `bar.m` id. -/
def keyWg (n : Nat) : Nat := n
def keyGang : Nat := 16
def keyMasked (id : Nat) : Nat := 32 + id

/-- The members an instance requires. -/
def Gang.required (g : Gang) (wgwaves key : Nat) (mask : W64) : List Nat :=
  let all := List.range g.waves.length
  if key < 16 then all.filter fun m => m / wgwaves == key
  else if key = 16 then all
  else all.filter fun m => mask.getLsbD m

/-- A gathering instance releases when every required member has arrived or exited (R307, R308). -/
def Gang.settle (g : Gang) (wgwaves : Nat) : Gang :=
  { g with bars := g.bars.mapVals fun k b =>
      if !b.arrived.isEmpty && (g.required wgwaves k b.mask).all fun m => b.arrived.contains m || g.exited.contains m
      then { b with gen := b.gen + 1, arrived := [], mask := 0 } else b }

/-! ### Retirement (R155, R168) -/

/-- The phase's tasks have all retired (R136). -/
def Kernel.tasks (k : Kernel) : Nat := k.launch.gx * k.launch.gy * k.launch.gz

/-- A wave has ended: its gang's barriers, its workgroup's task, and the gang's Draining follow. -/
def State.noteExit (s : State) (wi : Nat) : State :=
  let w := s.waves.get wi
  let gi := w.id.gang
  let g := s.gangs.get gi
  let k := s.kernels.get g.kern
  let n := k.desc.wgwaves
  let g := { g with exited := g.exited ++ [w.id.member] }
  let g := g.settle n
  let wg := w.id.member / n
  let wgDone := (List.range g.waves.length).all fun m => m / n ≠ wg || g.exited.contains m
  let g : Gang := if wgDone then { g with starts := g.starts.put wg 0, stops := g.stops.filter fun x => x ≠ wg } else g
  let g : Gang := if g.exited.length = g.waves.length then { g with st := .draining, request := false } else g
  let s := { s with gangs := s.gangs.put gi g }
  if !wgDone then s
  else
    s.modKern g.kern fun k =>
      let k := { k with retired := k.retired + 1 }
      if k.st = .running && k.retired = k.tasks then { k with st := .committing } else k

/-- The session of a core closes when its owner is this wave or a crew it belongs to (R280). -/
def State.closeSession (s : State) (wi : Nat) : State :=
  let gi := (s.waves.get wi).id.gang
  let m := (s.waves.get wi).id.member
  s.modCore (coreOf wi) fun c =>
    match c.session with
    | some o =>
      let mine := if o.crew = 0 then o.wave == wi
        else o.gang == gi && (List.range (o.crew.toNat % 8)).any fun i => nbits o.crew.toNat (15 + 8 * i) (8 + 8 * i) == m
      if mine then { c with session := none } else c
    | none => c

/-- LINK_LOST or a refused request that the core's buffer owes this wave (R248, R402): the oldest. -/
def State.oweLoss (s : State) (wi : Nat) : Option (Report × State) :=
  match (s.waves.get wi).losses with
  | [] => none
  | l :: r =>
    let rep := if l.refused then pfReport l.line.toNat false 0 4 .store else rep linkLost (u64 l.peer) l.line
    some (rep, s.modWave wi fun w => { w with losses := r })

end Sys2Proof.Machine
end

