-- ==== Sys2Proof/Machine/Float.lean ====
section
/-!
DEFINITION. Floating-point formats and their arithmetic, exact and then rounded once (R21–R23, R33–R36, R208–R210).
Every finite value is m · 2^e exactly; a quotient or root carries its sticky bit below the last place that rounding
looks at.
-/
namespace Sys2Proof.Machine

/-- A value: NaN, an infinity, or ± m · 2^e. -/
inductive FV where
  | nan
  | inf (neg : Bool)
  | fin (neg : Bool) (m : Nat) (e : Int)
  deriving DecidableEq, Repr

/-- A format (Table 2.1): exponent and fraction widths, bias, largest finite pattern, infinity, NaN. -/
structure Fmt where
  ebits  : Nat
  fbits  : Nat
  bias   : Nat
  maxFin : Nat
  inf    : Option Nat
  nan    : Nat
  deriving DecidableEq, Repr

def fmtF32 : Fmt := ⟨8, 23, 127, 0x7F7FFFFF, some 0x7F800000, 0x7FC00000⟩
def fmtF16 : Fmt := ⟨5, 10, 15, 0x7BFF, some 0x7C00, 0x7E00⟩
def fmtBf16 : Fmt := ⟨8, 7, 127, 0x7F7F, some 0x7F80, 0x7FC0⟩
def fmtE4m3 : Fmt := ⟨4, 3, 7, 0x7E, none, 0x7F⟩
def fmtE5m2 : Fmt := ⟨5, 2, 15, 0x7B, some 0x7C, 0x7E⟩
def fmtAx48 : Fmt := ⟨8, 39, 127, 0x7F7FFFFFFFFF, some 0x7F8000000000, 0x7FC000000000⟩

/-- The format of a floating element type; f32 for the others. -/
def fmtOf : ElemType → Fmt
  | .f16 => fmtF16
  | .bf16 => fmtBf16
  | .e4m3 => fmtE4m3
  | .e5m2 => fmtE5m2
  | .ax48 => fmtAx48
  | _ => fmtF32

/-- The sign bit of a format. -/
def Fmt.sign (t : Fmt) : Nat := 2 ^ (t.ebits + t.fbits)

/-- Decoding (R21, R31). -/
def Fmt.decode (t : Fmt) (x : Nat) : FV :=
  let neg := x / t.sign % 2 == 1
  let mag := x % t.sign
  let e := mag / 2 ^ t.fbits
  let f := mag % 2 ^ t.fbits
  if mag > t.maxFin then if t.inf == some mag then .inf neg else .nan
  else if e = 0 then .fin neg f (1 - (t.bias : Int) - t.fbits)
  else .fin neg (2 ^ t.fbits + f) ((e : Int) - t.bias - t.fbits)

/-- 2^k · x for an integer k, as m and the bits lost. -/
def shiftParts (m : Nat) (k : Int) : Nat × Nat × Nat :=
  if 0 ≤ k then (m <<< k.toNat, 0, 0)
  else let n := (-k).toNat; (m >>> n, m % 2 ^ n, n)

/-- One step of the xorshift state (R36). -/
def srNext (x : W32) : W32 :=
  let x := x ^^^ (x <<< 13)
  let x := x ^^^ (x >>> 17)
  x ^^^ (x <<< 5)

/-- How a rounding goes: a mode, or stochastic with a state; `away` breaks ties to larger magnitude (R33). -/
structure RMode where
  mode : Rounding := .rne
  sr   : W32 := 0
  away : Bool := false
  deriving DecidableEq, Repr

def rne : RMode := {}

/-- An integer magnitude m · 2^k rounded by a mode (R34, R36). -/
def roundNat (r : RMode) (neg : Bool) (m : Nat) (k : Int) : Nat :=
  let (q, rem, n) := shiftParts m k
  if rem = 0 then q
  else
    let up := match r.mode with
      | .rne =>
        let half := 2 ^ (n - 1)
        decide (half < rem) || (rem == half && (r.away || q % 2 == 1))
      | .rz => false
      | .ru => !neg
      | .rd => neg
      | .sr => decide (2 ^ 24 ≤ rem * 2 ^ 24 / 2 ^ n + r.sr.toNat / 256)
    if up then q + 1 else q

/-- The pattern beyond a format's range (R35). -/
def Fmt.overflow (t : Fmt) (r : RMode) (sat neg : Bool) : Nat :=
  let s := if neg then t.sign else 0
  let toInf := match r.mode with
    | .rne | .sr => true
    | .rz => false
    | .ru => !neg
    | .rd => neg
  if sat || !toInf then s + t.maxFin
  else
    match t.inf with
    | some i => s + i
    | none => t.nan

/-- A finite magnitude m · 2^e rounded into a format (R33–R35). -/
def Fmt.round (t : Fmt) (r : RMode) (sat neg : Bool) (m : Nat) (e : Int) : Nat :=
  let s := if neg then t.sign else 0
  if m = 0 then s
  else
    let qmin : Int := 1 - (t.bias : Int) - t.fbits
    let q : Int := max ((Nat.log2 m : Int) + e - t.fbits) qmin
    let x := roundNat r neg m (e - q)
    let bits := (q - qmin).toNat * 2 ^ t.fbits + x
    if t.maxFin < bits then t.overflow r sat neg else s + bits

/-- A value encoded in a format: NaN canonical, an infinity as R35 gives, a finite value rounded. -/
def Fmt.encode (t : Fmt) (r : RMode) (sat : Bool) : FV → Nat
  | .nan => t.nan
  | .inf neg =>
    if sat then (if neg then t.sign else 0) + t.maxFin
    else
      match t.inf with
      | some i => (if neg then t.sign else 0) + i
      | none => t.overflow r false neg
  | .fin neg m e => t.round r sat neg m e

def FV.neg : FV → FV
  | .nan => .nan
  | .inf n => .inf (!n)
  | .fin n m e => .fin (!n) m e

def FV.isNan : FV → Bool
  | .nan => true
  | _ => false

def FV.isZero : FV → Bool
  | .fin _ m _ => m == 0
  | _ => false

def FV.isFin : FV → Bool
  | .fin .. => true
  | _ => false

def FV.sign : FV → Bool
  | .nan => false
  | .inf n => n
  | .fin n _ _ => n

/-- A finite value as an integer multiple of 2^e0, for e0 at most its exponent. -/
def FV.scaled (x : FV) (e0 : Int) : Int :=
  match x with
  | .fin n m e =>
    let k : Int := ((m <<< (e - e0).toNat : Nat) : Int)
    if n then -k else k
  | _ => 0

def FV.exp : FV → Int
  | .fin _ _ e => e
  | _ => 0

/-- An exact integer times 2^e as a value; `zneg` is the sign of a zero. -/
def fvOfInt (n : Int) (e : Int) (zneg : Bool) : FV :=
  .fin (if n = 0 then zneg else decide (n < 0)) n.natAbs e

/-- Exact sum; the sign of an exact zero follows the operands, else the mode (R33; IEEE 754-2019). -/
def FV.add (rd : Bool) (x y : FV) : FV :=
  match x, y with
  | .nan, _ => .nan
  | _, .nan => .nan
  | .inf a, .inf b => if a == b then .inf a else .nan
  | .inf a, _ => .inf a
  | _, .inf b => .inf b
  | .fin a m e, .fin b n f =>
    if m = 0 && n = 0 then .fin (if a == b then a else rd) 0 0
    else
      let g := min e f
      fvOfInt ((FV.fin a m e).scaled g + (FV.fin b n f).scaled g) g rd

/-- Exact product. -/
def FV.mul (x y : FV) : FV :=
  match x, y with
  | .nan, _ => .nan
  | _, .nan => .nan
  | .inf a, .inf b => .inf (a != b)
  | .inf a, .fin b m _ => if m = 0 then .nan else .inf (a != b)
  | .fin a m _, .inf b => if m = 0 then .nan else .inf (a != b)
  | .fin a m e, .fin b n f => .fin (a != b) (m * n) (e + f)

/-- Quotient to 100 bits with the remainder as a sticky bit. -/
def FV.div (x y : FV) : FV :=
  match x, y with
  | .nan, _ => .nan
  | _, .nan => .nan
  | .inf _, .inf _ => .nan
  | .inf a, .fin b _ _ => .inf (a != b)
  | .fin a _ _, .inf b => .fin (a != b) 0 0
  | .fin a m e, .fin b n f =>
    if n = 0 then (if m = 0 then .nan else .inf (a != b))
    else if m = 0 then .fin (a != b) 0 0
    else
      let k := 100 + Nat.log2 n + 1
      let q := (m <<< k) / n
      let r := (m <<< k) % n
      .fin (a != b) (2 * q + (if r = 0 then 0 else 1)) (e - f - k - 1)

/-- Square root to some 100 bits with the remainder as a sticky bit. -/
def sqrtParts (m : Nat) (e : Int) : Nat × Int :=
  let k : Nat := 200 + (if (e % 2 = 0) then 0 else 1)
  let n := m <<< k
  let q := Nat.sqrt n
  (2 * q + (if q * q = n then 0 else 1), (e - k) / 2 - 1)

def FV.sqrt (x : FV) : FV :=
  match x with
  | .nan => .nan
  | .inf a => if a then .nan else .inf false
  | .fin a m e =>
    if m = 0 then .fin a 0 0
    else if a then .nan
    else let (q, f) := sqrtParts m e; .fin false q f

/-- Order of two values that are not NaN: x < y; zeros are equal. -/
def FV.lt (x y : FV) : Bool :=
  match x, y with
  | .nan, _ => false
  | _, .nan => false
  | .inf a, .inf b => a && !b
  | .inf a, _ => a
  | _, .inf b => !b
  | .fin a m e, .fin b n f =>
    let g := min e f
    decide ((FV.fin a m e).scaled g < (FV.fin b n f).scaled g)

def FV.eq (x y : FV) : Bool := !x.isNan && !y.isNan && !x.lt y && !y.lt x

/-- A value rounded to an integer by a mode; none for NaN and infinities. -/
def FV.toInt (r : RMode) (x : FV) : Option Int :=
  match x with
  | .fin n m e =>
    let k : Int := (roundNat r n m e : Nat)
    some (if n then -k else k)
  | _ => none

/-! ### f32 arithmetic, rounded once -/

def f32 (x : W32) : FV := fmtF32.decode x.toNat
def f32Enc (r : RMode) (x : FV) : W32 := u32 (fmtF32.encode r false x)

/-- add, mul, fma, div with RNE on f32 words (R33, R34). -/
def f32Add (x y : W32) : W32 := f32Enc rne ((f32 x).add false (f32 y))
def f32Sub (x y : W32) : W32 := f32Enc rne ((f32 x).add false (f32 y).neg)
def f32Mul (x y : W32) : W32 := f32Enc rne ((f32 x).mul (f32 y))
def f32Fma (x y z : W32) : W32 := f32Enc rne (((f32 x).mul (f32 y)).add false (f32 z))
def f32Div (x y : W32) : W32 := f32Enc rne ((f32 x).div (f32 y))

/-- Whether a word of a format is an infinity or NaN (R48). -/
def Fmt.nonFinite (t : Fmt) (x : Nat) : Bool := !(t.decode x).isFin

/-! ### Functions of R46 and R47 -/

/-- The coefficients c0 to c7 of R47: the f32 nearest to (ln 2)^j / j!. -/
def exp2Coeffs : List W32 :=
  [0x3F800000, 0x3F317218, 0x3E75FDF0, 0x3D635847, 0x3C1D955B, 0x3AAEC3FF, 0x39218489, 0x377FE5FE]

/-- `exp2` (R47). -/
def f32Exp2 (x : W32) : W32 :=
  match f32 x with
  | .nan => u32 fmtF32.nan
  | .inf n => if n then 0 else 0x7F800000
  | .fin n m e =>
    let v := FV.fin n m e
    if !(v.lt (.fin false 128 0)) then 0x7F800000
    else if v.lt (.fin true 150 0) then 0
    else
      let k := (v.toInt rne).getD 0
      let g := f32Enc rne (v.add false (fvOfInt (-k) 0 false))
      let q := match exp2Coeffs.reverse with
        | c7 :: r => r.foldl (fun q c => f32Fma q g c) c7
        | [] => 0
      f32Enc rne ((f32 q).mul (.fin false 1 k))

/-- Bits of log2 of y / 2^p, for y / 2^p in [1, 2): `n` bits by repeated squaring. -/
def log2Bits (p : Nat) : Nat → Nat → Nat → Nat
  | 0, _, acc => acc
  | n + 1, y, acc =>
    let z := y * y / 2 ^ p
    if 2 ^ (p + 1) ≤ z then log2Bits p n (z / 2) (2 * acc + 1) else log2Bits p n z (2 * acc)

/-- `log2`: exact at powers of two; else 128 bits after the point and a sticky bit (R46; log entry 13). -/
def FV.log2 (x : FV) : FV :=
  match x with
  | .nan => .nan
  | .inf n => if n then .nan else .inf false
  | .fin n m e =>
    if m = 0 then .inf true
    else if n then .nan
    else
      let l := Nat.log2 m
      let k : Int := (l : Int) + e
      if m = 2 ^ l then fvOfInt k 0 false
      else
        let p := 512
        let y := m * 2 ^ p / 2 ^ l
        let b := log2Bits p 128 y 0
        fvOfInt ((k * (2 ^ 128 : Nat) + b) * 2 + 1) (-129) false

/-- π · 2^384, rounded down. -/
def piScaled : Nat :=
  0x3243f6a8885a308d313198a2e03707344a4093822299f31d0082efa98ec4e6c89452821e638d01377be5466cf34e90c6c

/-- The alternating series of sine or cosine from a term, with t² / 2^384: t, index, remaining terms. -/
def trigSeries (t2 : Nat) : Nat → Nat → Nat → Int
  | 0, _, _ => 0
  | n + 1, i, term => (term : Int) - trigSeries t2 n (i + 2) (term * t2 / 2 ^ 384 / ((i + 1) * (i + 2)))

/-- sin(π x) and cos(π x) for 0 < x < 1/2 given as m · 2^e, scaled by 2^384. -/
def sinpiScaled (m : Nat) (e : Int) : Nat :=
  let t := (shiftParts (m * piScaled) e).1
  (trigSeries (t * t / 2 ^ 384) 60 1 t).toNat
def cospiScaled (m : Nat) (e : Int) : Nat :=
  let t := (shiftParts (m * piScaled) e).1
  (trigSeries (t * t / 2 ^ 384) 60 0 (2 ^ 384)).toNat

/-- |sin(π x)| for 0 < x < 1 not a half: symmetric about 1/2, sine or cosine of the distance to the nearer of 0 and
1/2, with a sticky bit. -/
def sinpiUnit (m : Nat) (e : Int) : Nat :=
  -- x = m · 2^e; e ≤ 0
  let one := 2 ^ (-e).toNat
  let y := if 2 * m ≤ one then m else one - m
  if 4 * y ≤ one then 2 * sinpiScaled y e + 1 else 2 * cospiScaled (one - 2 * y) (e - 1) + 1

/-- `sinpi` (R46). -/
def FV.sinpi (x : FV) : FV :=
  match x with
  | .nan => .nan
  | .inf _ => .nan
  | .fin n m e =>
    if m = 0 then .fin n 0 0
    else if 0 ≤ e then .fin n 0 0
    else
      let one := 2 ^ (-e).toNat
      let r := m % (2 * one)
      if r % one = 0 then .fin n 0 0
      else
        let neg := n != decide (one < r)
        let u := r % one
        if 2 * u = one then .fin neg 1 0 else .fin neg (sinpiUnit u e) (-385)

/-- `cospi` (R46): sin(π (x + 1/2)); +0 at every half. -/
def FV.cospi (x : FV) : FV :=
  match x with
  | .nan => .nan
  | .inf _ => .nan
  | .fin _ m e =>
    if m = 0 then .fin false 1 0
    else
      let e' := min e (-1)
      let m' := m <<< (e - e').toNat
      let half := 2 ^ ((-e').toNat - 1)
      match FV.sinpi (.fin false (m' + half) e') with
      | .fin n k f => if k = 0 then .fin false 0 0 else .fin n k f
      | v => v

/-- `frcp`: 1/x. -/
def FV.rcp (x : FV) : FV := (FV.fin false 1 0).div x

/-- `frsq`: 1/√x, with the signed zeros of Table 2.5. -/
def FV.rsq (x : FV) : FV :=
  match x with
  | .nan => .nan
  | .inf n => if n then .nan else .fin false 0 0
  | .fin n m e =>
    if m = 0 then .inf n
    else if n then .nan
    else
      -- √(2^k / m) with enough bits, and the remainder as a sticky bit
      let k : Nat := 260 + Nat.log2 m + (if ((Nat.log2 m : Int) + e) % 2 = 0 then 0 else 1)
      let num := 2 ^ k
      let q := Nat.sqrt (num / m)
      let exact := q * q * m == num
      .fin false (2 * q + (if exact then 0 else 1)) ((-(k : Int) - e) / 2 - 1)

/-- `fmin` and `fmax` (R209): NaN for a NaN operand; −0 below +0. -/
def fvMin (x y : FV) : FV :=
  if x.isNan || y.isNan then .nan
  else if x.lt y then x else if y.lt x then y
  else if x.sign then x else y
def fvMax (x y : FV) : FV :=
  if x.isNan || y.isNan then .nan
  else if x.lt y then y else if y.lt x then x
  else if x.sign then y else x

/-- A function of one f32 operand in a type: the f32 result of the widened operand, rounded once more (R46, R208). -/
def Fmt.viaF32 (t : Fmt) (fn : W32 → W32) (x : Nat) : Nat :=
  t.encode rne false (f32 (fn (u32 (fmtF32.encode rne false (t.decode x)))))

def f32Rcp (x : W32) : W32 := f32Enc rne (f32 x).rcp
def f32Rsq (x : W32) : W32 := f32Enc rne (f32 x).rsq
def f32Sqrt (x : W32) : W32 := f32Enc rne (f32 x).sqrt
def f32Log2 (x : W32) : W32 := f32Enc rne (f32 x).log2
def f32Sinpi (x : W32) : W32 := f32Enc rne (f32 x).sinpi
def f32Cospi (x : W32) : W32 := f32Enc rne (f32 x).cospi

/-- The relation of a condition on two floating values (Table 3.6). -/
def fcondHolds (c : Cond) (x y : FV) : Bool :=
  match c with
  | .eq => x.eq y
  | .ne => !x.eq y
  | .lt => x.lt y
  | .le => x.lt y || x.eq y
  | .gt => y.lt x
  | .ge => y.lt x || x.eq y
  | .ord => !x.isNan && !y.isNan
  | .uno => x.isNan || y.isNan

/-- A value of any type: a float decoded, an integer exact (R216). -/
def typedValue (t : ElemType) (x : Nat) : FV :=
  if t.isFloat then (fmtOf t).decode x else fvOfInt (valOf t x) 0 false

/-- A conversion of a value into a type (R35, R216). -/
def convertTo (t : ElemType) (fromInt : Bool) (r : RMode) (sat : Bool) (v : FV) : Nat :=
  if t.isFloat then (fmtOf t).encode r sat v
  else
    match v with
    | .nan => 0
    | .inf n => wrapNat t.width (if n then minOf t else maxOf t)
    | v => reduce t (sat || !fromInt) ((v.toInt r).getD 0)

def convert (src dst : ElemType) (r : RMode) (sat : Bool) (x : Nat) : Nat :=
  convertTo dst (!src.isFloat) r sat (typedValue src x)

/-! ### q4 (R25, R26, R220) -/

/-- The magnitude of index e of a q4 type, in eighths (Table 2.2). -/
def q4Mag (qt e : Nat) : Nat :=
  match qt with
  | 1 => ([0, 4, 8, 12, 16, 24, 32, 48][e]?).getD 0
  | 2 => ([0, 1, 2, 4, 8, 16, 32, 64][e]?).getD 0
  | _ => ([0, 8, 16, 24, 32, 48, 64, 96][e]?).getD 0

/-- The unscaled value of a q4 code (Table 2.2). -/
def q4Value (qt code : Nat) : FV :=
  let c := code % 16
  if qt % 4 = 0 then fvOfInt (signedOf 4 c) 0 false else .fin (decide (8 ≤ c)) (q4Mag (qt % 4) (c % 8)) (-3)

/-- The codes of the candidates of R220, in ascending order of value; −0 is left out. -/
def q4Codes (qt : Nat) : List Nat :=
  if qt % 4 = 0 then [8, 9, 10, 11, 12, 13, 14, 15, 0, 1, 2, 3, 4, 5, 6, 7]
  else [15, 14, 13, 12, 11, 10, 9, 0, 1, 2, 3, 4, 5, 6, 7]

/-- A value between two adjacent candidates, as a choice of the upper one: by the exact distances in units of 2^g. -/
def q4Up (r : RMode) (neg : Bool) (lo hi q : Int) (hiCode : Nat) : Bool :=
  match r.mode with
  | .rne => decide (hi - q < q - lo) || (decide (hi - q = q - lo) && hiCode % 2 == 0)
  | .rz => neg
  | .ru => true
  | .rd => false
  | .sr =>
    -- lo_v is the candidate of smaller magnitude
    let far := if neg then hi - q else q - lo
    let away := decide (2 ^ 24 ≤ (far * 2 ^ 24 / (hi - lo)).toNat + r.sr.toNat / 256)
    if neg then !away else away

/-- q4_round (R220). -/
def q4Round (r : RMode) (qt : Nat) (q : FV) : Nat :=
  let codes := q4Codes qt
  let first := codes.head?.getD 0
  let last := codes.getLast?.getD 0
  match q with
  | .nan => 0
  | .inf n => if n then first else last
  | q =>
    if q.lt (q4Value qt first) then first
    else if (q4Value qt last).lt q then last
    else
      -- the greatest candidate not above q, and the next one
      let lo := ((codes.filter fun c => !q.lt (q4Value qt c)).getLast?).getD first
      let hi := ((codes.filter fun c => q.lt (q4Value qt c)).head?).getD last
      if q.eq (q4Value qt lo) || lo = last then lo
      else
        let g := min q.exp (-3)
        let at_ (c : Nat) : Int := (q4Value qt c).scaled g
        if q4Up r (q.scaled g < 0) (at_ lo) (at_ hi) (q.scaled g) hi then hi else lo

/-- A stochastic or directed mode with a lane's state already advanced. -/
def rmode (m : Rounding) (sr : W32) : RMode := { mode := m, sr := sr }

end Sys2Proof.Machine
end

