-- ==== Sys2Proof/Machine/VectorOps.lean ====
section
/-!
DEFINITION. Operands and results of the vector stream (R201–R203): typed sources by lane, writes of lanes, and the checks
of registers, lane-uniform operands and non-finite results.
-/
namespace Sys2Proof.Machine

/-- A small integer converted to a type (R61). -/
def intIn (t : ElemType) (n : Int) : Nat :=
  if t.isFloat then (fmtOf t).encode rne false (fvOfInt n 0 false) else wrapNat t.width n

/-- The value of a source in a lane under a type (R61, R62, R202). -/
def Wave.vsrc (w : Wave) (t : ElemType) (l : Nat) (x : Src) : Nat :=
  match x with
  | .reg n => if t.is64 then (w.getV64 n l).toNat else (w.getV n l).toNat % 2 ^ t.width
  | .kconst n => (w.vec.k.get n).toNat % 2 ^ t.width
  | .lit v => if t = .i64 then (v.signExtend 64).toNat else v.toNat % 2 ^ t.width
  | .lane => intIn t l
  | .iter => intIn t w.iter
  | .imm i => intIn t i

/-- The word a narrow result leaves in a register (R202). -/
def regWord (t : ElemType) (x : Nat) : W32 := i32 (valOf t x)

/-- A result written to one lane (R202). -/
def Wave.vput (w : Wave) (t : ElemType) (d l x : Nat) : Wave :=
  if t.is64 then w.setV64 d l (u64 x) else w.setV d l (regWord t x)

/-- Results by lane. -/
abbrev Lanes := List (Nat × Nat)

/-- The results of the lanes of a mask. -/
def lanesMap (A : W64) (g : Nat → Nat) : Lanes := (lanesOf A).map fun l => (l, g l)

/-- Results written to their lanes. -/
def Wave.vputs (w : Wave) (t : ElemType) (d : Nat) (rs : Lanes) : Wave := rs.foldl (fun w e => w.vput t d e.1 e.2) w
def State.vputs (s : State) (t : ElemType) (d : Nat) (rs : Lanes) : State := s.modMe fun w => w.vputs t d rs

/-- The NONFINITE enable (R48, R112). -/
def State.nfOn (s : State) : Bool := s.me.trap.trapen.getLsbD 0

/-- The NONFINITE report (R49). -/
def nfReport (at_ : W64) (typea typeb qta qtb : Nat) : Report :=
  rep nonFinite at_ (u64 (typea + 32 * typeb + 1024 * qta + 4096 * qtb))

/-- The NONFINITE check of results of one floating type, lowest lane first (R48, R203). -/
def State.checkFinite (s : State) (t : ElemType) (info : Nat → Report) (rs : Lanes) : Eff Unit :=
  if !s.nfOn || !t.isFloat then pure ()
  else
    match rs.find? fun e => (fmtOf t).nonFinite e.2 with
    | some e => trapEff (info e.1)
    | none => pure ()

/-- The report of an instruction that reads and writes its own type. -/
def nfSame (t : ElemType) (l : Nat) : Report := nfReport (u64 l) t.code t.code 0 0

/-- The value of a lane-uniform operand over an active set, or NON_UNIFORM (R222). -/
def State.uniform (s : State) (A : W64) (x : Src) : Eff Nat :=
  let w := s.me
  let v (l : Nat) : Nat := w.vsrc .n32 l x
  let v0 := v (lowest A)
  let same := maskWhere A fun l => v l == v0
  if same = A then pure v0 else trapEff (rep nonUniform 0 A same (u64 v0))

/-! ### Instructions of one result a lane -/

/-- An instruction that computes each lane from its own sources. -/
def runLanes (i : Instr) (f : Form) (dt : ElemType) (srcs : List Nat) (finite : Bool) (g : Wave → Nat → Nat)
    (s : State) : Result State :=
  runVec i f (fun A s => do
    s.checkRegs (dstRegs dt f.d.toNat ++ srcs)
    let rs := lanesMap A (g s.me)
    if finite then s.checkFinite dt (nfSame dt) rs
    pure (s.vputs dt f.d.toNat rs)) s

def formRegs1 (f : Form) (t : ElemType) : List Nat := srcRegs t (f.srcA true)
def formRegs2 (f : Form) (t : ElemType) : List Nat := formRegs1 f t ++ srcRegs t (f.srcB true)
def formRegs3 (f : Form) (t : ElemType) : List Nat := formRegs2 f t ++ srcRegs t (f.srcC true)

end Sys2Proof.Machine
end

