-- ==== Sys2Proof/Machine/MemOps.lean ====
section
/-!
DEFINITION. Shared operations of memory instructions: addresses, checks in the order of R256, single elements at any
target, atomics, and the write-combining buffer's drains (R63, R248, R254–R259, R266).
-/
namespace Sys2Proof.Machine

/-! ### Atomics (Table 11.3, R197) -/

/-- The new value of a location holding m, for operand x and, under `cas`, new value y. -/
def atomNew (op : AtomOp) (t : ElemType) (m x y : Nat) : Nat :=
  let fl (g : FV → FV → FV) : Nat := fmtF32.encode rne false (g (fmtF32.decode m) (fmtF32.decode x))
  match op with
  | .add => if t = .f32 then fl (FV.add false) else reduce t false (valOf t m + valOf t x)
  | .min => if t = .f32 then fl fvMin else wrapNat t.width (min (valOf t m) (valOf t x))
  | .max => if t = .f32 then fl fvMax else wrapNat t.width (max (valOf t m) (valOf t x))
  | .and => m &&& x
  | .or => m ||| x
  | .xor => m ^^^ x
  | .xchg => x
  | .cas => if m = x then y else m
  | .inc => if x ≤ m then 0 else m + 1

/-! ### The write-combining buffer's drains (R248) -/

/-- A drained store of the core that its peer has not acknowledged. -/
def State.drainsOut (s : State) (core : Nat) : Bool :=
  (List.range 32).any fun k => (s.waves.get (32 * core + k)).remote.any fun r =>
    r.owner == r.id && r.answer.isNone

/-- The whole buffer drains, and its drains are performed, before the effect goes on. -/
def State.flushBuffer (s : State) (wi : Nat) : Eff Unit :=
  let core := coreOf wi
  if !(s.cores.get core).wcb.isEmpty then .error (.wait .other (some (s.drainWcb core)))
  else if s.drainsOut core then waitEff .other
  else pure ()

/-- The same at a point that raises what the buffer owes the wave. -/
def State.settleBuffer (s : State) (wi : Nat) : Eff Unit := do
  s.flushBuffer wi
  match s.oweLoss wi with
  | some (r, s') => .error (.trapIn r s')
  | none => pure ()

/-- Whether an access releases at `.fab` (R248). -/
def fabRelease (f : Form) : Bool := f.scope == .fab && f.releases

/-- What must be done before an access of a form is issued: a release finds the wave's own accesses performed (R257), and
the buffer drains where it must. -/
def State.orderBuffer (s : State) (wi : Nat) (f : Form) (loc peerRelease : Bool) : Eff Unit := do
  if f.releases then s.release wi
  if loc then pure () else if fabRelease f then s.settleBuffer wi else if peerRelease then s.flushBuffer wi

/-! ### Checks (R255, R256) -/

/-- An element of an access: lane, address and target; a local element's target is not used. -/
abbrev Element := Nat × Nat × Target

/-- Every check of an access: local bounds or PAGE_FAULT, then `mid` (the key sequence), then the range locks, then the
links. -/
def State.checkAccess (s : State) (wi : Nat) (loc : Bool) (need : Need) (n : Nat) (els : List (Nat × Nat))
    (mid : Eff Unit := pure ()) : Eff (List Element) :=
  if loc then do
    s.checkLocals wi need n els
    mid
    s.checkLocks true wi n need.write els
    pure (els.map fun e => (e.1, e.2, Target.dev 0))
  else do
    let c := s.ctxOf (s.waves.get wi)
    let ts ← s.checkGlobals c need n els
    mid
    s.checkLocks false wi n need.write els
    s.checkLinks (ts.map fun e => (e.1, e.2.2)) (need.kind == .load || need.kind == .gather || need.kind == .atomic)
    pure ts

/-! ### Single elements -/

/-- LINK_LOST of a lane's remote access (R263, R266), and the refusal of one (R402). -/
def lostReport (pkg lane : Nat) : Report := rep linkLost (u64 pkg) (u64 lane)

/-- The answer of a remote element: its value, or the trap. -/
def remoteValue (pkg lane va : Nat) (k : AKind) (a : PeerAnswer) : Eff Nat :=
  match a with
  | .value v => pure v.toNat
  | .done => pure 0
  | .refused => trapEff (pfReport va false lane 4 k)
  | .lost => trapEff (lostReport pkg lane)
  | .error => pure 0
  | .bad pa => .error (.uncorr pa)

/-- The trap of an access whose lanes in peer windows have all answered or are lost: a refused lane before a lost one, each
kind at its lowest lane (R256, R263; log entry 71). -/
def laneTrap (k : AKind) (as : List (Element × PeerAnswer)) : Option Report :=
  match as.find? fun x => x.2 == .refused with
  | some x => some (pfReport x.1.2.1 false x.1.1 4 k)
  | none =>
    (as.find? fun x => x.2 == .lost).map fun x =>
      lostReport (match x.1.2.2 with
        | .peer pkg _ => pkg
        | _ => 0) x.1.1

/-- The requests of a load's lanes in peer windows leave; `asks` tells the lanes that ask. -/
def State.askPeers (s : State) (n : Nat) (asks : Element → Bool) (els : List Element) : State :=
  els.foldl (fun s e =>
    match e.2.2 with
    | .peer pkg pa =>
      if !asks e then s
      else
        match s.remote s.cur 0 (e.1 + 1) pkg pa (.load n) with
        | .error (.wait _ (some s')) => s'
        | _ => s
    | _ => s) s

/-- The answers of the lanes in peer windows, once all have come: none while one is out. -/
def State.peerAnswers (s : State) : List Element → Option (List (Element × PeerAnswer))
  | [] => some []
  | e :: r =>
    match e.2.2 with
    | .peer pkg _ => (s.laneAnswer s.cur e.1 pkg).bind fun a => (State.peerAnswers s r).map fun l => (e, a) :: l
    | _ => State.peerAnswers s r

/-- A load of one element, the wave's own queued stores over it (R238); `slot` numbers the remote access of its owner. -/
def State.loadElement (s : State) (wi owner slot : Nat) (loc : Bool) (k : AKind) (n : Nat) (e : Element) : Eff Nat :=
  if loc then
    match s.readLocalEff wi e.2.1 n with
    | .ok v => pure (s.forward wi true e.2.1 n v)
    | .error g => .error (.uncorr g)
  else do
    let v ← match e.2.2 with
      | .peer pkg pa => do
        let a ← s.remote wi owner slot pkg pa (.load n)
        let v ← remoteValue pkg e.1 e.2.1 k a
        pure (s.wcbMerge wi owner slot pkg pa n v)
      | t => s.readAt t n
    pure (s.forward wi false e.2.2.key n v)

/-- An access that goes to the homes of its elements comes after the core's own stores on their way to those lines, and leaves
no older copy of them in the L1 (R239, R243). -/
def State.atHome (s : State) (wi : Nat) (els : List Element) : State :=
  els.foldl (fun s e => if e.2.2.isPeer then s else (s.arriveLine (coreOf wi) e.2.2.key).l1Drop (coreOf wi) e.2.2.key) s

/-- A load that may hit the L1 of its core (R233, R243). -/
def State.loadCached (s : State) (wi owner slot : Nat) (loc past : Bool) (n : Nat) (e : Element) : Eff Nat :=
  match if loc || past then none else s.l1Read wi e.2.2.key n with
  | some v => pure (s.forward wi false e.2.2.key n v)
  | none => s.loadElement wi owner slot loc .load n e

/-- What a load leaves behind: the lines it fills; an acquire's later loads bypass the lines filled before it (R233). -/
def State.loaded (s : State) (wi : Nat) (loc : Bool) (f : Form) (els : List Element) : State :=
  let s := s.acquireBy wi f
  if loc || f.pastL1 then s else els.foldl (fun s e => s.l1Fill wi e.2.2) s

/-- A store of one element. A relaxed one enters the wave's store queue (R238); a release store to a peer goes to the peer
itself, and its loss is owed as a drain's is (R248, R259). -/
def State.storeElement (s : State) (wi : Nat) (loc release : Bool) (n v : Nat) (e : Element) (grp : Nat := 0) : State :=
  let q : QStore := { loc, off := e.2.1, t := e.2.2, n, v, stamp := s.epoch, grp }
  match e.2.2 with
  | .peer pkg pa =>
    if release && !loc then
      s.drainEntry { peer := pkg, line := pa / 256 * 256, cells := cellsOf (pa % 256) n v, since := s.cycle, waves := [wi],
                     stamp := s.epoch, ctx := (s.waves.get wi).id.ctx }
    else s.queueStore wi q
  | _ => if release then s.homeStore wi q else s.queueStore wi q

/-- An atomic on one element of this package or the host, past the L1: the old value and the state after. -/
def State.atomLocal (s : State) (wi : Nat) (loc : Bool) (op : AtomOp) (t : ElemType) (x y : Nat) (e : Element) :
    Eff (Nat × State) := do
  let s := if loc then s else s.atHome wi [e]
  let m ← s.loadElement wi 0 0 loc .atomic t.bytes e
  pure (m, s.storeElement wi loc true t.bytes (atomNew op t m x y) e)

/-- Whether an element lies in a peer window, and whether the core's buffer holds its line. -/
def Element.isPeer (e : Element) : Bool := e.2.2.isPeer
def State.buffered (s : State) (wi : Nat) (e : Element) : Bool :=
  match e.2.2 with
  | .peer pkg pa => s.wcbHas (coreOf wi) pkg pa
  | _ => false

/-- The device address of an object that is not in a peer window. -/
def devOf (e : Element) : Nat :=
  match e.2.2 with
  | .dev pa => pa
  | _ => 0

/-! ### Vector addresses (R63, R254) -/

/-- The address of a lane. -/
def Wave.vecAddr (w : Wave) (f : Form) (loc cFree : Bool) (l : Nat) : Nat :=
  let base : W64 :=
    if f.baseKind then w.vec.k.get f.a.toNat
    else if loc then (w.getV f.a.toNat l).setWidth 64
    else w.getV64 f.a.toNat l
  let index : W64 := if f.indexed then (w.getV f.b.toNat l).signExtend 64 <<< f.scale else 0
  let disp : W64 :=
    match f.lit? with
    | some v => v.signExtend 64
    | none => if cFree then f.c.signExtend 64 else 0
  let a := (base + index + disp).toNat
  if loc then a % 2 ^ 32 else a

/-- The elements of an access, ascending by lane. -/
def Wave.vecEls (w : Wave) (f : Form) (loc cFree : Bool) (A : W64) : List (Nat × Nat) :=
  (lanesOf A).map fun l => (l, w.vecAddr f loc cFree l)

end Sys2Proof.Machine
end

