-- ==== Sys2Proof/Machine/GraphOps.lean ====
section
/-!
DEFINITION. Semaphores and dependence graphs as shared operations (R191–R196): posts, the waiters of a word, the fields of
a node, the start of a walk and its end.
-/
namespace Sys2Proof.Machine

/-! ### Semaphores (R196) -/

/-- The word a key names. -/
def keyTarget (k : Nat) : Target := if 2 ^ 60 ≤ k then .host (k - 2 ^ 60) else .dev k

/-- Peers' waiters at the head of a word's queue are served while the word allows (R196, R402). -/
def State.serveSem (s : State) (k : Nat) : Nat → State
  | 0 => s
  | n + 1 =>
    match s.sems.get k with
    | w :: r =>
      match w.peer, s.readAt (keyTarget k) 8 with
      | some (pkg, id), .ok m =>
        if w.value.toNat ≤ m then
          let s := s.writeAt (keyTarget k) 8 (m - w.value.toNat)
          let s := { s with sems := s.sems.put k r }
          State.serveSem (s.send pkg (.resp { sender := s.fab.pkg, id, answer := .done })) k n
        else s
      | some (pkg, id), .error (.uncorr pa) =>
        let s := { s with sems := s.sems.put k r }
        State.serveSem (s.send pkg (.resp { sender := s.fab.pkg, id, answer := .bad pa })) k n
      | _, _ => s
    | [] => s

/-- Every word whose first waiter is a peer's is looked at. -/
def State.serveSems (s : State) : State :=
  s.sems.foldl (fun s e => s.serveSem e.1 e.2.length) s

/-- `sems` at a target of this package or the host. -/
def State.postAt (s : State) (t : Target) (n : Nat) : Eff State := do
  let m ← s.readAt t 8
  pure (s.writeAt t 8 ((m + n) % 2 ^ 64))

/-- A request that no wave waits for, by the walker or the front end of a context: its number. -/
def State.ask (s : State) (ctx pkg pa : Nat) (op : PeerOp) : Nat × State :=
  let c := s.ctxs.get ctx
  let (id, s) := s.fresh
  (id, s.send pkg (.req { sender := s.fab.pkg, job := if c.jobst = 2 then some c.job.num else none, id, pa, op }))

/-- A post by the walker or the front end: +n at the word, nothing where the word cannot be reached (R193, R399). -/
def State.post (s : State) (ctx va n : Nat) : State :=
  match s.walk (s.ctxs.get ctx) va with
  | .leaf t p _ =>
    if p.w && decide (va % 8 = 0) then
      match t with
      | .peer pkg pa =>
        let (id, s) := s.ask ctx pkg pa (.sems (u64 n))
        s.modCtx ctx fun c => { c with posts := c.posts ++ [(id, s.epoch)] }
      | t =>
        if t.isHost && s.fab.host ≠ .up then s else
        match s.postAt t n with
        | .ok s' => s'
        | .error _ => s
    else s
  | _ => s

/-- `semw` by a wave at a target here: first of the word's queue and the count reached, or it joins the queue; one of count 0
waits for nothing (R196). -/
def State.takeSem (s : State) (wi : Nat) (t : Target) (n : Nat) : Eff State := do
  let k := t.key
  let q := s.sems.get k
  let mine (x : Waiter) : Bool := x.wave == wi && x.peer.isNone
  let m ← s.readAt t 8
  let first := match q with
    | [] => true
    | x :: _ => mine x
  if (first || n = 0) && decide (n ≤ m) then
    pure { s.writeAt t 8 (m - n) with sems := s.sems.put k (q.filter fun x => !mine x) }
  else if q.any mine then waitEff .sem
  else
    let x : Waiter := { wave := wi, peer := none, value := u64 n, push := false }
    .error (.wait .sem (some { s with sems := s.sems.put k (q ++ [x]) }))

/-! ### Nodes (R191) -/

/-- A field of node i, and a change of one, through the context's page table. DESIGN CHOICE (log entry 76): bytes that cannot
be reached, or are uncorrectable, read as 0, and a change of them is dropped. -/
def State.nodeField (s : State) (ctx : Nat) (base i off n : Nat) : Nat :=
  ofBytesLE ((s.feRead (s.ctxs.get ctx) ((base + 64 * i + off) % 2 ^ 64) n).getD [])
def State.setNode (s : State) (ctx : Nat) (base i off n v : Nat) : State :=
  (s.feWrite (s.ctxs.get ctx) ((base + 64 * i + off) % 2 ^ 64) (bytesLE n v)).getD s

/-- Whether the walker's next access waits: the node array, a node's semaphore word or the graph's own lies in a page in
migration (R329). -/
def State.graphHeld (s : State) (g : Graph) (i : Nat) : Bool :=
  let c := s.ctxs.get g.ctx
  let word (a : Nat) : Bool := a ≠ 0 && s.feHeld c a 8
  s.feHeld c g.base.toNat (64 * g.count) || word g.sem.toNat || word (s.nodeField g.ctx g.base.toNat i 0x18 8)

/-- Status codes of a node. -/
def nodeLaunched : Nat := 1
def nodeDone : Nat := 2
def nodeFailed : Nat := 3
def nodeSkipped : Nat := 4

/-- Successors of a node, in list order. -/
def State.nodeSuccs (s : State) (g : Graph) (i : Nat) : List Nat :=
  let n := min 8 (s.nodeField g.ctx g.base.toNat i 1 1)
  (List.range n).map fun j => s.nodeField g.ctx g.base.toNat i (8 + 2 * j) 2

/-- A graph whose walk has nothing launched or launchable is complete: its post or record, and its array unlocked
(R193). -/
def State.settleGraph (s : State) (gi : Nat) : State :=
  let g := s.graphs.get gi
  if !g.live || !g.launched.isEmpty || !g.ready.isEmpty then s
  else
    let s := { s.dropLocks gi with graphs := s.graphs.put gi default }
    match g.source with
    | .packet ctx q seq =>
      let st (i : Nat) : Nat := s.nodeField g.ctx g.base.toNat i 6 1
      let all := List.range g.count
      if all.all fun i => st i == nodeDone then s.completePacket ctx q seq g.sem.toNat 0 0 (rep 0 0 0)
      else
        let i := (all.find? fun i => st i == nodeFailed).getD 0
        s.completePacket ctx q seq g.sem.toNat 1 pageFault (rep pageFault (u64 i) 0)
    | _ => if g.sem = 0 then s else s.post g.ctx g.sem.toNat 1

/-- The start of a walk: working counts and statuses set, the nodes without predecessors launchable (R193). DESIGN CHOICE (log
entry 76): a walk over an array that cannot be reached starts, and does not end. -/
def State.startGraph (s : State) (gi : Nat) (g : Graph) : State :=
  let all := List.range g.count
  let s := all.foldl (fun s i =>
    let np := s.nodeField g.ctx g.base.toNat i 2 2
    (s.setNode g.ctx g.base.toNat i 4 2 np).setNode g.ctx g.base.toNat i 6 1 0) s
  let ready := all.filter fun i => s.nodeField g.ctx g.base.toNat i 2 2 == 0
  let lock := mkLock 8 false g.ctx g.base.toNat (64 * g.count) true gi
  let s := { s.addLocks [lock] with graphs := s.graphs.put gi { g with live := true, launched := [], ready } }
  s.settleGraph gi

end Sys2Proof.Machine
end

