-- ==== Sys2Proof/Machine/ControlMem.lean ====
section
/-!
DEFINITION. Scalar memory accesses, semaphores, dependence graphs and the fence of the control stream (R191–R198, R272,
R274).
-/
namespace Sys2Proof.Machine

/-! ### Scalar accesses (R197, R198) -/

/-- The address a scalar access captured: an offset takes its low 32 bits in local space. -/
def OpCtx.addr (c : OpCtx) : Nat := if localBit c.f then c.caps.a.toNat % 2 ^ 32 else c.caps.a.toNat

/-- The check of a scalar access; it is over once a request has left for another package (R256). -/
def State.checkScalar (s : State) (c : OpCtx) (need : Need) (n : Nat) : Eff Element :=
  match s.askedAt c.wi c.uid 0 with
  | some t => pure (0, c.addr, t)
  | none => do
    let els ← s.checkAccess c.wi (localBit c.f) need n [(0, c.addr)]
    pure ((els.head?).getD (0, c.addr, .dev 0))

/-- A write of a wave's s register. -/
def State.putS (s : State) (wi d : Nat) (x : W64) : State := s.modWave wi fun w => w.setS d x

/-- Scalar accesses of a wave take effect in the order they issued, an access with an order once the store queue has drained
(R238), a release that reaches past the core once the core's stores have arrived (R240). -/
def State.scalarTurn (s : State) (c : OpCtx) (drain : Bool) : Eff State :=
  if (s.waves.get c.wi).ctl.ops.any fun o => decide (o.uid < c.uid) && scalarMemory o.instr then waitEff .other
  else
    let s := if drain then s.drainStores c.wi else s
    pure (if c.f.publishes then s.arriveAll (coreOf c.wi) else s)

def opSld : LongOp where
  locks := noLocks
  finish := fun c s => do
    let t := c.f.type
    let loc := localBit c.f
    let s ← s.scalarTurn c (c.f.order != .rlx)
    let e ← s.checkScalar c needLoad t.bytes
    let s := if c.f.pastL1 && !loc then s.atHome c.wi [e] else s
    let v ← s.loadCached c.wi c.uid 0 loc c.f.pastL1 t.bytes e
    pure ((s.loaded c.wi loc c.f [e]).putS c.wi c.f.d.toNat (extend64 t v))

def opSst : LongOp where
  locks := noLocks
  finish := fun c s => do
    let t := c.f.type
    let loc := localBit c.f
    let s ← s.scalarTurn c (c.f.order != .rlx)
    let e ← s.checkScalar c needStore t.bytes
    s.orderBuffer c.wi c.f loc (c.f.releases && e.isPeer)
    pure (s.storeElement c.wi loc c.f.releases t.bytes (c.caps.d.toNat % 2 ^ t.width) e)

/-- `satom` (R197): one indivisible step at the word's home. -/
def opSatom (op : AtomOp) : LongOp where
  locks := noLocks
  finish := fun c s => do
    let t := c.f.type
    let loc := localBit c.f
    let s ← s.scalarTurn c true
    let e ← s.checkScalar c needAtomic t.bytes
    if (s.askedAt c.wi c.uid 0).isNone then
      if !loc && s.buffered c.wi e then s.flushBuffer c.wi
      s.orderBuffer c.wi c.f loc false
    let x := c.caps.c.toNat % 2 ^ t.width
    let y := c.caps.c1.toNat % 2 ^ t.width
    let (m, s) ← match (if loc then none else some e.2.2) with
      | some (.peer pkg pa) => do
        let a ← s.remote c.wi c.uid 0 pkg pa (.atomic op t (u64 x) (u64 y))
        let v ← remoteValue pkg 0 e.2.1 .atomic a
        pure (v, s)
      | _ => s.atomLocal c.wi loc op t x y e
    pure ((s.acquireBy c.wi c.f).putS c.wi c.f.d.toNat (extend64 t m))

def execSld (f : Form) (s : State) : Result State := runLong (.sld f) f opSld s
def execSst (f : Form) (s : State) : Result State := runLong (.sst f) f opSst s
def execSatomAdd (f : Form) (s : State) : Result State := runLong (.satomAdd f) f (opSatom .add) s
def execSatomMin (f : Form) (s : State) : Result State := runLong (.satomMin f) f (opSatom .min) s
def execSatomMax (f : Form) (s : State) : Result State := runLong (.satomMax f) f (opSatom .max) s
def execSatomAnd (f : Form) (s : State) : Result State := runLong (.satomAnd f) f (opSatom .and) s
def execSatomOr (f : Form) (s : State) : Result State := runLong (.satomOr f) f (opSatom .or) s
def execSatomXor (f : Form) (s : State) : Result State := runLong (.satomXor f) f (opSatom .xor) s
def execSatomXchg (f : Form) (s : State) : Result State := runLong (.satomXchg f) f (opSatom .xchg) s
def execSatomCas (f : Form) (s : State) : Result State := runLong (.satomCas f) f (opSatom .cas) s
def execSatomInc (f : Form) (s : State) : Result State := runLong (.satomInc f) f (opSatom .inc) s

/-! ### fence (R272) -/

/-- Operations that access memory: all but those that read registers and the group table alone: a group's revoking and
freeing, and fragment forms but that of `mma.sp`, which reads its metadata (R294, R296, R409). -/
def PendingOp.memory (o : PendingOp) : Bool :=
  match o.instr with
  | .mgrpRevoke _ | .mgrpFree _ => false
  | .mma f | .mmaSr f => !f.optBit 3
  | _ => true

def execFenceCtrl (f : Form) (s : State) : Result State :=
  match s.before (.fenceCtrl f) with
  | some s' => .next s'
  | none =>
    if s.me.ctl.ops.any PendingOp.memory then .next (s.stay .other)
    else
      match s.raiseHeld fun _ => true with
      | some s' => .next s'
      | none =>
        runCtl (.fenceCtrl f) (fun s => do
          if f.releases then s.release s.cur
          s.settleBuffer s.cur
          pure (s.acquireBy s.cur f)) s

/-! ### Semaphores (R196) -/

/-- The count of `semw` and `sems`. -/
def Wave.semCount (w : Wave) (f : Form) : Nat := if f.b = 0 then f.optBits 8 3 else (w.getS f.b.toNat).toNat

/-- The check of a semaphore word; it is over once a request has left for another package. -/
def State.checkSem (s : State) (f : Form) : Eff Element :=
  let a := (s.me.getS f.a.toNat).toNat
  match s.askedAt s.cur 0 0 with
  | some t => pure (0, a, t)
  | none => do
    let els ← s.checkAccess s.cur false needAtomic 8 [(0, a)]
    pure ((els.head?).getD (0, a, .dev 0))

/-- What `sems` and `semw` do before their own step: earlier scalar accesses, and as a release all others, are performed; the
core's buffer drains where it must (R240, R248). -/
def State.semOrder (s : State) (fab release : Bool) (e : Element) : Eff Unit := do
  if s.me.ctl.ops.any fun o => scalarMemory o.instr then waitEff .other
  if release then s.release s.cur
  if fab then s.settleBuffer s.cur
  else if s.buffered s.cur e || (release && e.isPeer) then s.flushBuffer s.cur

/-- `sems`: a release at its scope. -/
def execSems (f : Form) (s : State) : Result State :=
  runCtl (.sems f) (fun s => do
    let e ← s.checkSem f
    let n := s.me.semCount f
    if (s.askedAt s.cur 0 0).isNone then s.semOrder (f.optBits 2 0 == 5) true e
    match e.2.2 with
    | .peer pkg pa =>
      let a ← s.remote s.cur 0 0 pkg pa (.sems (u64 n))
      let _ ← remoteValue pkg 0 e.2.1 .atomic a
      pure s
    | t => (s.l1Drop (coreOf s.cur) t.key).postAt t n) s

/-- `semw`: a wait, then an acquire at its scope. -/
def execSemw (f : Form) (s : State) : Result State :=
  runCtl (.semw f) (fun s => do
    let e ← s.checkSem f
    let n := s.me.semCount f
    if (s.askedAt s.cur 0 0).isNone then s.semOrder false false e
    match e.2.2 with
    | .peer pkg pa =>
      match s.remote s.cur 0 0 pkg pa (.semw (u64 n)) with
      | .error (.wait _ s') => .error (.wait .sem s')
      | .error x => .error x
      | .ok a =>
        let _ ← remoteValue pkg 0 e.2.1 .atomic a
        pure (s.acquire s.cur)
    | t => do
      let s ← (s.atHome s.cur [e]).takeSem s.cur t n
      pure (s.acquire s.cur)) s

/-! ### Graphs (R192, R193) -/

/-- What node accesses accept: the context's own memory and the host's (log entry 17). -/
def needNode : Need := { kind := .store, read := true, write := true, peer := false }

/-- The 64 bytes of a node or template, checked as single accesses of 8 bytes. -/
def State.readNode (s : State) (need : Need) (a : Nat) : Eff (List Byte) := do
  let els ← s.checkAccess s.cur false need 8 ((List.range 8).map fun k => (0, (a + 8 * k) % 2 ^ 64))
  let ws ← els.mapM fun e => s.readAt e.2.2 8
  pure (ws.flatMap fun v => bytesLE 8 v)

/-- The predecessors a template names, each checked in its turn (R192): `seen` are those before it. DESIGN CHOICE (log entry
76): a mention before counts as a successor already. -/
def State.checkPreds (s : State) (base i : Nat) : List Nat → List Nat → Eff Unit
  | _, [] => pure ()
  | seen, j :: r => do
    if i ≤ j then trapEff (allotValue (u64 j))
    let node ← s.readNode needNode (base + 64 * j)
    if 8 ≤ ofBytesLE ((node.drop 1).take 1) + seen.count j then trapEff (allotValue (u64 j))
    State.checkPreds s base i (seen ++ [j]) r

/-- `gnode` (R192): every check precedes every store. -/
def execGnode (f : Form) (s : State) : Result State :=
  runCtl (.gnode f) (fun s => do
    let w := s.me
    let ctx := w.id.ctx
    if w.ctl.ops.any fun o => scalarMemory o.instr then waitEff .other
    let base := (w.getS f.a.toNat).toNat
    let i := (w.getS f.d.toNat).toNat
    let node ← s.readNode { needLoad with peer := false } (w.getS f.b.toNat).toNat
    let field (off n : Nat) : Nat := ofBytesLE ((node.drop off).take n)
    let preds := ((List.range 4).map fun k => field (8 + 2 * k) 2).filter fun j => j ≠ 0xFFFF
    s.checkPreds base i [] preds
    let _ ← s.checkAccess s.cur false { needStore with peer := false } 8
      ((List.range 8).map fun k => (0, (base + 64 * i + 8 * k) % 2 ^ 64))
    let bytes := bytesLE 1 (field 0 1) ++ bytesLE 1 0 ++ bytesLE 2 preds.length ++ bytesLE 2 0 ++ bytesLE 1 0 ++
      bytesLE 1 (field 7 1) ++ List.replicate 16 0xFF#8 ++ node.drop 0x18
    let s := (s.feWrite (s.ctxs.get ctx) ((base + 64 * i) % 2 ^ 64) bytes).getD s
    let s := (s.l1Empty [coreOf s.cur])
    let s := preds.foldl (fun s j =>
      let n := s.nodeField ctx base j 1 1
      (s.setNode ctx base j (8 + 2 * n) 2 i).setNode ctx base j 1 1 (n + 1)) s
    pure (s.putS s.cur f.d.toNat (u64 (i + 1)))) s

/-- `grun` (R193): the array is locked and the walk starts. -/
def execGrun (f : Form) (s : State) : Result State :=
  runCtl (.grun f) (fun s => do
    let w := s.me
    let count := (w.getS f.b.toNat).toNat
    let base := (w.getS f.a.toNat).toNat
    if count = 0 || decide (65535 < count) then trapEff (allotValue (u64 count))
    else
      let els ← s.checkGlobals (s.ctxOf w) needNode 64 ((List.range count).map fun i => (0, (base + 64 * i) % 2 ^ 64))
      s.checkLinks (els.map fun e => (e.1, e.2.2))
      if w.ctl.ops.any fun o => scalarMemory o.instr then waitEff .other
      s.release s.cur
      let gi := s.uid + 1
      let who := lockAsker s.cur false
      if !s.lockTurn who w.id.ctx [mkLock 8 false w.id.ctx base (64 * count) true gi] then
        .error (.wait .other (some (s.joinLockq who w.id.ctx)))
      else
        let g : Graph :=
          { (default : Graph) with
            ctx := w.id.ctx
            base := u64 base
            count := count
            sem := w.getS f.c.toNat
            prio := (s.kernOf w).prio
            wave := s.cur }
        pure (({ s with uid := gi }.leaveLockq who).startGraph gi g)) s

end Sys2Proof.Machine
end

