-- ==== Sys2Proof/Machine/MeetOps.lean ====
section
/-!
DEFINITION. What barriers, channels and tile deques share: the prelude of R304, arrivals and departures, the channel
buffer, and the steps of a deque (R303–R323).
-/
namespace Sys2Proof.Machine

/-! ### The prelude (R304) -/

/-- The last of the prelude: as a release the wave's accesses are performed, and the write-combining buffer drains. It is
done once; a wave that has arrived, or whose request has left, only waits. -/
def State.prelude (s : State) : Eff Unit :=
  if s.me.arrival.isSome || (s.askedAt s.cur 0 0).isSome then pure ()
  else do
    s.release s.cur
    s.settleBuffer s.cur

/-- A barrier, channel or deque instruction: the vector side done, pending operations complete and their faults raised,
the write-combining buffer drained; then its own effect, and an acquire (R305, R318, R322). -/
def runMeet (i : Instr) (body : State → Eff State) (s : State) : Result State :=
  match s.before i with
  | some s' => .next s'
  | none =>
    if !s.me.vecIdle || !s.me.ctl.ops.isEmpty then .next (s.stay .other)
    else
      match s.raiseHeld fun _ => true with
      | some s' => .next s'
      | none =>
        runCtl i (fun s => do
          s.prelude
          let s ← body s
          pure (s.acquire s.cur)) s

/-- Core cycles of a wait bound: 2^(t − 1) ms; 0 is none (R315). -/
def boundCycles (t : Nat) : Nat := if t = 0 then 0 else 2 ^ (t - 1) * 2400000

/-- The bound an instruction of this chapter carries. -/
def boundOf (f : Form) : Nat := boundCycles (f.optBits 7 4)

def Wave.setArrival (w : Wave) (a : Option Arrival) : Wave := { w with arrival := a }

/-- The wave has arrived and waits. -/
def State.waitAt (s : State) (k : BarKind) (gen limit : Nat) (why : Wait := .barrier) : Eff State :=
  .error (.wait why (some (s.modMe fun w => w.setArrival (some { kind := k, gen, start := s.own, limit }))))

/-- The object of an instruction of this chapter: 64-byte aligned, in device memory of the context, or in a peer window
where one is allowed (R303). The check is over once a request has left for another package (R256). -/
def State.checkObject (s : State) (a : Nat) (peer : Bool) : Eff Element :=
  match s.askedAt s.cur 0 0 with
  | some t => pure (0, a, t)
  | none => do
    let els ← s.checkAccess s.cur false { needAtomic with peer := peer, host := false } 64 [(0, a)]
    pure ((els.head?).getD (0, 0, .dev 0))

/-- The pages of an object past its header's are checked as the header is. -/
def State.checkPages (s : State) (va bytes : Nat) : Eff Unit := do
  let pages := (List.range ((bytes - 1) / 4096 + 1)).drop 1
  let need : Need := { needAtomic with peer := false, host := false }
  let _ ← s.checkGlobals (s.ctxOf s.me) need 16 (pages.map fun k => (0, (va / 4096 + k) * 4096 % 2 ^ 64))
  pure ()

/-! ### Instances inside a gang (R306–R309) -/

/-- An arrival at an instance of the gang, or the departure of a wave that has arrived. -/
def State.meetGang (s : State) (key : Nat) (k : BarKind) (mask : W64) (limit : Nat) : Eff State :=
  let w := s.me
  let g := s.gangOf w
  match w.arrival with
  | some a => if a.gen < (g.bars.get key).gen then pure (s.modMe fun w => w.setArrival none) else waitEff .barrier
  | none =>
    let gen := (g.bars.get key).gen
    let join (b : Bar) : Bar := { b with arrived := b.arrived ++ [w.id.member], mask := mask }
    let g := { g with bars := g.bars.modify key join }.settle (s.kernOf w).desc.wgwaves
    let s := { s with gangs := s.gangs.put w.id.gang g }
    if gen < (g.bars.get key).gen then pure s else s.waitAt k gen limit

/-- The bits of the mask that name members of the gang. -/
def memberMask (n : Nat) : W64 := allLanes n

/-! ### Channels (R317, R318) -/

/-- The instruction of a wave waiting at a channel takes effect and the wave goes on. -/
def State.serveWaiter (s : State) (x : Waiter) (value : W64) : State :=
  (s.acquire x.wave).modWave x.wave fun w => (((w.setS x.d value).setS x.c 0).setArrival none).advance x.n false

/-- Waiting pushes and pops are served while the channel allows, in the order they came. -/
def State.serveChan (s : State) (k cap : Nat) : Nat → State
  | 0 => s
  | n + 1 =>
    let c := s.chans.get k
    match c.waiters with
    | x :: r =>
      if x.push then
        if c.values.length < cap then
          let s := { s with chans := s.chans.put k { values := c.values ++ [x.value], waiters := r } }
          State.serveChan (s.serveWaiter x 0) k cap n
        else s
      else
        match c.values with
        | v :: vs =>
          let s := { s with chans := s.chans.put k { values := vs, waiters := r } }
          State.serveChan (s.serveWaiter x v) k cap n
        | [] => s
    | [] => s

/-- The cap of a channel, or ALLOTMENT. -/
def State.chanCap (s : State) (pa : Nat) : Eff Nat := do
  let cap ← s.readAt (.dev pa) 4
  if cap = 0 || decide (2 ^ 20 < cap) then trapEff (allotValue (u64 cap)) else pure cap

/-! ### Tile deques (R319–R323) -/

/-- The bytes of a deque: device address by offset. -/
abbrev DeqAt := Nat → Nat

def State.deqField (s : State) (at_ : DeqAt) (off n : Nat) : Nat :=
  ofBytesLE ((List.range n).map fun i => s.mem.get (at_ (off + i)))
def State.setDeq (s : State) (at_ : DeqAt) (off n v : Nat) : State :=
  s.writeDev ((bytesLE n v).zipIdx.map fun e => (at_ (off + e.2), e.1))

/-- Offset of slot i; codes of its states (Table 13.4). -/
def slotOff (i : Nat) : Nat := 0x40 + 16 * i
def slotEmpty : Nat := 0
def slotQueued : Nat := 1
def slotClaimed : Nat := 2
def slotRunning : Nat := 3
def slotDone : Nat := 4
def slotTaken : Nat := 5

def State.slotState (s : State) (at_ : DeqAt) (i : Nat) : Nat := s.deqField at_ (slotOff i + 4) 1
def State.slotThief (s : State) (at_ : DeqAt) (i : Nat) : Nat := s.deqField at_ (slotOff i + 6) 2
def State.setSlot (s : State) (at_ : DeqAt) (i st : Nat) : State := s.setDeq at_ (slotOff i + 4) 1 st

/-- Whether a slot's lease has run out. -/
def State.leaseOver (s : State) (at_ : DeqAt) (i : Nat) : Bool :=
  let st := s.slotState at_ i
  (st == slotClaimed || st == slotRunning) && decide (s.deqField at_ (slotOff i + 8) 8 ≤ s.fab.tick)

/-- Lease expiry of a slot: Queued again, no thief. -/
def State.expireSlot (s : State) (at_ : DeqAt) (i : Nat) : State :=
  if s.leaseOver at_ i then (s.setSlot at_ i slotQueued).setDeq at_ (slotOff i + 6) 2 0 else s

/-- Expiry of a lease taken now: the lease in µs, 0 meaning 20,000, in ticks, rounded up. -/
def State.leaseEnd (s : State) (at_ : DeqAt) : Nat :=
  let us := s.deqField at_ 0x10 4
  s.fab.tick + ceilDiv (2 * (if us = 0 then 20000 else us)) (max 1 s.fab.ticklen)

/-- Uncorrectable data among what a deque operation reads: the header, and the slots of a header in range (R111). -/
def State.deqBadAt (s : State) (at_ : DeqAt) : Option Nat :=
  match s.dv.bad with
  | [] => none
  | _ =>
    let cap := s.deqField at_ 0 4
    let slots := if cap ≤ 4096 then (List.range (16 * cap)).map (0x40 + ·) else []
    (List.range 0x18 ++ slots).findSome? fun i => s.badDev (at_ i) 1

/-- A deque result (R322). -/
def deqResult (status slot tile : Nat) : W64 := u64 (status * 2 ^ 60 + slot * 2 ^ 48 + tile)

/-- Whether a header is in range. -/
def State.deqOk (s : State) (at_ : DeqAt) : Bool :=
  let cap := s.deqField at_ 0 4
  decide (1 ≤ cap) && decide (cap ≤ 4096) && decide (s.deqField at_ 4 4 ≤ cap)

/-- A result that acted on a slot. -/
def State.slotResult (s : State) (at_ : DeqAt) (i : Nat) : W64 := deqResult 0 i (s.deqField at_ (slotOff i) 4)

/-- One deque operation at the ingress atomic cache, after the expiries that are due (R321–R323). DESIGN CHOICE (log entry 40):
an un-numbered package (R394) claims as thief 0. -/
def State.deque (s : State) (at_ : DeqAt) (pkg : Nat) (set : Bool) (op : DeqOp) : W64 × State :=
  let cap := s.deqField at_ 0 4
  let slots := List.range cap
  let s := slots.foldl (fun s i => s.expireSlot at_ i) s
  let bottom := s.deqField at_ 4 4
  let is (st : Nat) (i : Nat) : Bool := s.slotState at_ i == st
  let thief := if set then pkg + 1 else 0
  let mine (i : Nat) : Bool := set && s.slotThief at_ i == thief
  match op with
  | .push tile =>
    if bottom = cap then (deqResult 2 0 0, s)
    else
      let s := s.setDeq at_ (slotOff bottom) 16 (tile.toNat + slotQueued * 2 ^ 32)
      let s := s.setDeq at_ 4 4 (bottom + 1)
      (s.slotResult at_ bottom, s)
  | .reset =>
    if slots.any fun i => is slotClaimed i || is slotRunning i then (deqResult 5 0 0, s)
    else
      let s := slots.foldl (fun s i => s.setDeq at_ (slotOff i) 16 slotEmpty) s
      (deqResult 0 0 0, (s.setDeq at_ 4 4 0).setDeq at_ 8 4 0)
  | .pop =>
    match (slots.filter (is slotQueued)).getLast? with
    | none => (deqResult 1 0 0, s)
    | some i => (s.slotResult at_ i, s.setSlot at_ i slotTaken)
  | .claim =>
    if !(s.deqField at_ 0x0C 1).testBit 0 then (deqResult 3 0 0, s)
    else
      match slots.find? (is slotQueued) with
      | none => (deqResult 1 0 0, s)
      | some i =>
        let s' := (s.setSlot at_ i slotClaimed).setDeq at_ (slotOff i + 6) 2 thief
        (s.slotResult at_ i, s'.setDeq at_ (slotOff i + 8) 8 (s.leaseEnd at_))
  | .run i =>
    if i < cap && (is slotClaimed i || is slotRunning i) && mine i then
      (s.slotResult at_ i, (s.setSlot at_ i slotRunning).setDeq at_ (slotOff i + 8) 8 (s.leaseEnd at_))
    else (deqResult 4 0 0, s)
  | .done i =>
    if i < cap && is slotRunning i && mine i then
      (s.slotResult at_ i, (s.setSlot at_ i slotDone).setDeq at_ 8 4 ((s.deqField at_ 8 4 + 1) % 2 ^ 32))
    else (deqResult 4 0 0, s)

/-- The answer to a thief whose header is out of range, which raises ALLOTMENT there. -/
def deqBad : W64 := u64 (15 * 2 ^ 60)

/-- The bytes of a deque through a context's page table; where a page is not device memory, the next frame. -/
def State.deqPages (s : State) (ctx va pa : Nat) : DeqAt := fun off =>
  match s.walk (s.ctxs.get ctx) (va + off) with
  | .leaf (.dev x) _ _ => x
  | _ => pa + off

/-- The bytes of a deque whose header's device address is given: past the header's page they are those of the next pages of
the context that has it mapped, as its owner's operations find them (R319; log entry 40). -/
def State.deqFrames (s : State) (pa : Nat) : DeqAt := fun off =>
  if pa % 4096 + off < 4096 then pa + off
  else
    let mapped (e : Nat × Ctx) : Option (Nat × Nat) :=
      (s.mappedNow e.2).findSome? fun m =>
        if m.2.1 * 4096 ≤ pa && decide (pa < (m.2.1 + m.2.2) * 4096) then some (e.1, m.1 + (pa - m.2.1 * 4096)) else none
    match (s.ctxs.filter fun e => e.2.holds pa).findSome? mapped with
    | some (ctx, va) => s.deqPages ctx va pa off
    | none => pa + off

/-- The same for a request of another package, whose header address is all it gives. -/
def State.dequeAt (s : State) (pa pkg : Nat) (op : DeqOp) : PeerAnswer × State :=
  let at_ := s.deqFrames pa
  match s.deqBadAt at_ with
  | some a => (.bad a, s)
  | none =>
    if s.deqOk at_ then
      let (v, s) := s.deque at_ pkg true op
      (.value v, s)
    else (.value deqBad, s)

end Sys2Proof.Machine
end

