-- ==== Sys2Proof/Machine/System.lean ====
section
/-!
DEFINITION. System instructions of the control stream, and `crew` (R106–R108, R112, R159, R168, R189, R190, R199, R200).
-/
namespace Sys2Proof.Machine

/-- The TRAP report: the operand in info0 (R199). -/
def trapReport (x : W64) : Report := rep trapCode x 0

/-- `trap` (R108, R199): TRAP at the instruction, with the next address as the restart point. -/
def execTrapTo (f : Form) (s : State) : Result State :=
  match s.before (.trapTo f) with
  | some s' => .next s'
  | none =>
    let w := s.me
    let x := if f.a ≠ 0 then w.getS f.a.toNat else u64 f.opt
    let s' := s.modMe fun w => w.advance f.parcels false
    .next (s'.takeTrap s.cur { trapReport x with pc := w.ctl.pc } s'.me.ctl.pc)

/-- Uncorrectable data in the frame that `eret` reads (R106, R111). -/
def State.frameBad (s : State) : Option Nat :=
  match s.dv.bad with
  | [] => none
  | _ =>
    match s.readLocalEff s.cur 0xD80 0x210 with
    | .error g => some g
    | .ok _ => none

/-- `eret` (R70, R71, R107). -/
def execEret (f : Form) (s : State) : Result State :=
  match s.before (.eret f) with
  | some s' => .next s'
  | none =>
    let w := s.me
    if !w.nest then .next (s.ctlStop (.trap (illegalOf (.eret f))))
    else
      match s.raiseHeld fun _ => true with
      | some s' => .next s'
      | none =>
        if w.trap.epc.toNat % 4 ≠ 0 then .next (s.ctlStop (.trap (illegalOf (.eret f))))
        else
          match s.frameBad with
          | some g => .next (s.uncorrectable s.cur w.ctl.pc g)
          | none => .next (s.modMe fun w => { w.leaveHandler with wait := .none })

/-- A state register as a wave reads it (Table 4.6); none for another number. -/
def State.readCsr (s : State) (n : Nat) : Option W64 :=
  let w := s.me
  let t := w.trap
  match n with
  | 0x01 => some (u64 w.id.ctx)
  | 0x02 => some (u64 (s.levelOf w))
  | 0x03 => some (u64 (w.id.lcore % 128 + 256 * (w.id.lcore / 128)))
  | 0x04 => some (u64 (s.cur % 32))
  | 0x08 => some t.trapen
  | 0x09 => some t.handler
  | 0x10 => some t.cause
  | 0x11 => some t.pc
  | 0x12 => some t.epc
  | 0x14 => some t.info0
  | 0x15 => some t.info1
  | 0x16 => some t.info2
  | 0x17 => some t.info3
  | _ => none

/-- A write of a state register: `st.handler` and `st.epc` take it, the others ignore it (R112, R199, R200). -/
def Wave.writeCsr (w : Wave) (n : Nat) (x : W64) : Wave :=
  match n with
  | 0x09 => { w with trap := { w.trap with handler := x &&& ~~~3#64 } }
  | 0x12 => { w with trap := { w.trap with epc := x } }
  | _ => w

def execCsrr (f : Form) (s : State) : Result State :=
  runCtl (.csrr f) (fun s =>
    match s.readCsr f.csr with
    | some x => pure (s.modMe fun w => w.setS f.d.toNat x)
    | none => trapEff (illegalOf (.csrr f))) s

def execCsrw (f : Form) (s : State) : Result State :=
  runCtl (.csrw f) (fun s =>
    match s.readCsr f.csr with
    | some _ => pure (s.modMe fun w => w.writeCsr f.csr (w.getS f.c.toNat))
    | none => trapEff (illegalOf (.csrw f))) s

/-- `acq` (R159): nothing once granted; ALLOTMENT for a demand no core could meet; else the gang's one request, and a
wait. -/
def execAcq (f : Form) (s : State) : Result State :=
  runCtl (.acq f) (fun s =>
    let w := s.me
    let g := s.gangOf w
    if g.granted then pure s
    else
      match g.cores.findSome? fun c => overPool (s.demand g c) grantable with
      | some (pool, amount) => trapEff (allotPool amount pool)
      | none => .error (.wait .grant (some (s.modGang w.id.gang fun g => { g with request := true })))) s

/-- `yield` (R70, R108): a raising point; a pending SUSPEND takes effect before the next instruction. -/
def execYield (f : Form) (s : State) : Result State :=
  match s.before (.yield f) with
  | some s' => .next s'
  | none =>
    match s.raiseHeld fun _ => true with
    | some s' => .next s'
    | none => .next (s.modMe fun w => w.advance f.parcels false)

/-- What `exit` leaves of a wave: nothing pending in queues, mask stack, spans or the held vector side (R168, R356). -/
def Wave.ended (w : Wave) : Wave :=
  { w with
    st := .exited
    wait := .none
    ctl := { w.ctl with queue := [], owed := [], brv := none, depth := 0, serial := none, clause := none }
    vec := { w.vec with back := [], masks := [], depth := 0, block := none, serial := none, held := false }
    tape := { w.tape with spans := [], pending := [], open_ := none }
    arrival := none }

/-- Whether stores of a wave are still in its core's write-combining buffer, or drained and not acknowledged. -/
def State.bufferOwes (s : State) (wi : Nat) : Bool :=
  ((s.cores.get (coreOf wi)).wcb.any fun e => e.waves.contains wi) ||
  (s.waves.get wi).remote.any fun r => r.owner == r.id && r.answer.isNone

/-- `exit` (R168): it waits for the vector side, the pending operations and the wave's own buffered stores, raises what they
owe (R70, R248; log entry 15), and ends the wave. -/
def execExitWave (f : Form) (s : State) : Result State :=
  match s.before (.exitWave f) with
  | some s' => .next s'
  | none =>
    let w := s.me
    if !w.vecIdle || !w.ctl.ops.isEmpty then .next (s.stay .other)
    else
      match s.raiseHeld fun _ => true with
      | some s' => .next s'
      | none =>
        match s.oweLoss s.cur with
        | some (r, s') => .next (s'.ctlStop (.trap r))
        | none =>
          if s.bufferOwes s.cur then .next (s.stay .other)
          else
            let s := s.modMe fun w => (w.advance f.parcels false).ended
            .next ((s.closeSession s.cur).noteExit s.cur)

def execNop (f : Form) (s : State) : Result State := runCtl (.nop f) (fun s => pure s) s
def execNopShort (s : State) : Result State := runCtl .nopShort (fun s => pure s) s

/-- `clk`: core cycles since device reset (R199). -/
def execClk (f : Form) (s : State) : Result State :=
  runCtl (.clk f) (fun s => pure (s.modMe fun w => w.setS f.d.toNat (u64 s.cycle))) s

/-- The value `tick` returns (R199, R404). -/
def State.tickValue (s : State) : W64 := u64 (s.fab.tick * 2 ^ 16 + s.fab.sub)

def execTick (f : Form) (s : State) : Result State :=
  runCtl (.tick f) (fun s => pure (s.modMe fun w => w.setS f.d.toNat s.tickValue)) s

/-! ### crew (R189, R190) -/

/-- Members a crew value names. -/
def crewMembers (x : W64) : List Nat := (List.range (x.toNat % 8)).map fun i => nbits x.toNat (15 + 8 * i) (8 + 8 * i)

/-- Whether a crew value may be written by a member of a gang (R190). -/
def crewOk (x : W64) (members self : Nat) : Bool :=
  let v := x.toNat
  let n := v % 8
  let ms := crewMembers x
  n ≠ 1 && n ≠ 7 && nbits v 7 3 == 0 && nbits v 63 56 == 0 &&
  (List.range 6).all (fun i => decide (i < n) || nbits v (15 + 8 * i) (8 + 8 * i) == 0) &&
  noDup ms && ms.all (fun m => decide (m < members)) && (n == 0 || ms.contains self)

def execCrew (f : Form) (s : State) : Result State :=
  runCtl (.crew f) (fun s =>
    let w := s.me
    let x := w.getS f.a.toNat
    if crewOk x (s.gangOf w).waves.length w.id.member then
      pure (s.modMe fun w => { w with ctl := { w.ctl with crew := x } })
    else trapEff (allotValue x)) s

end Sys2Proof.Machine
end

