-- ==== Sys2Proof/Machine/Barrier.lean ====
section
/-!
DEFINITION. Barriers, channels and tile deques (R303–R323), and the time-out of their waits (R315).
-/
namespace Sys2Proof.Machine

/-! ### Barriers -/

/-- `bar.wg` (R308): the waves of the workgroup. -/
def execBarWg (f : Form) (s : State) : Result State :=
  runMeet (.barWg f) (fun s =>
    let w := s.me
    s.meetGang (keyWg (w.id.member / (s.kernOf w).desc.wgwaves)) .wg 0 (boundOf f)) s

/-- `bar.gang` (R308): the waves of the gang. -/
def execBarGang (f : Form) (s : State) : Result State :=
  runMeet (.barGang f) (fun s => s.meetGang keyGang .gang 0 (boundOf f)) s

/-- MASK_MISMATCH (R309). -/
def maskReport (fixed m : W64) (id : Nat) : Report := rep maskMismatch fixed m (u64 id)

/-- `bar.m` (R309): the members of the mask that the first arrival fixes. -/
def execBarM (f : Form) (s : State) : Result State :=
  runMeet (.barM f) (fun s =>
    let w := s.me
    let g := s.gangOf w
    let id := f.optBits 3 0
    let m := w.getS f.a.toNat
    let b := g.bars.get (keyMasked id)
    if w.arrival.isSome then s.meetGang (keyMasked id) (.masked id) m (boundOf f)
    else if !m.getLsbD w.id.member || m &&& memberMask g.waves.length ≠ m then trapEff (allotValue m)
    else if !b.arrived.isEmpty && b.mask ≠ m then trapEff (maskReport b.mask m id)
    else s.meetGang (keyMasked id) (.masked id) m (boundOf f)) s

/-- Where an object that a wave waits at lies now: its page may have moved (R335); none while the page is not there (R331;
log entry 58). -/
def State.objectNow (s : State) (w : Wave) (va : Nat) : Option Nat :=
  match s.walk (s.ctxOf w) va with
  | .leaf (.dev pa) _ _ => some pa
  | _ => none

/-- The words of a device barrier object (R310). -/
def State.barWord (s : State) (pa off : Nat) : Eff Nat := s.readAt (.dev (pa + off)) 4

/-- `bar.dev` (R311): one indivisible step at the object's home, then a wait for the next generation. -/
def execBarDev (f : Form) (s : State) : Result State :=
  runMeet (.barDev f) (fun s =>
    let w := s.me
    match w.arrival with
    | some { kind := .dev va _, gen := g, .. } =>
      match s.objectNow w va with
      | none => waitEff .barrier
      | some pa => do
        let now ← s.barWord pa 4
        if now = g then waitEff .barrier else pure (s.modMe fun w => (w.setS f.d.toNat (u64 g)).setArrival none)
    | _ => do
      let va := (w.getS f.a.toNat).toNat
      let e ← s.checkObject va false
      let pa := devOf e
      let arrived ← s.barWord pa 0
      let g ← s.barWord pa 4
      let expected ← s.barWord pa 8
      if expected = 0 || decide (2 ^ 24 < expected) then trapEff (allotValue (u64 expected))
      else
        let n := (arrived + 1) % 2 ^ 32
        if n = expected then
          let s := (s.writeDev (cellsOf pa 4 0)).writeDev (cellsOf (pa + 4) 4 ((g + 1) % 2 ^ 32))
          pure (s.modMe fun w => w.setS f.d.toNat (u64 g))
        else (s.writeDev (cellsOf pa 4 n)).waitAt (.dev va pa) g (boundOf f)) s

/-- The fabric barrier of an id in a context's job, and this package's member index in it (R312, R313). -/
def State.fbarOf (s : State) (c : Ctx) (id : Nat) : Option (FBar × Nat) :=
  if c.jobst ≠ 2 then none
  else
    (s.fab.fbars.find? fun b => b.job == c.job.num && b.id == id).bind fun b =>
      (b.members.findIdx? fun p => s.fab.set && p == s.fab.pkg).map fun m => (b, m)

/-- Key of a context's count of fabric barrier arrivals, beside its counts of collectives. -/
def fbarKey (id : Nat) : Nat := 4096 + id

/-- `fbar` (R313): the arrival leaves with its time; the wave departs when its generation's release is delivered. -/
def execFbar (f : Form) (s : State) : Result State :=
  runMeet (.fbar f) (fun s =>
    let w := s.me
    let c := s.ctxOf w
    let id := (w.getS f.a.toNat).toNat % 4096
    match w.arrival with
    | some a =>
      let delivered := ((s.fab.fbars.find? fun b => b.job == c.job.num && b.id == id).map fun b => b.delivered).getD 0
      if c.jobst = 2 && decide (a.gen < delivered) then pure (s.modMe fun w => (w.setS f.d.toNat (u64 a.gen)).setArrival none)
      else waitEff .barrier
    | none =>
      match s.fbarOf c id with
      | none => trapEff (allotValue (u64 id))
      | some (b, m) =>
        let k := c.allreds.get (fbarKey id)
        let s := s.modCtx w.id.ctx fun c => { c with allreds := c.allreds.put (fbarKey id) (k + 1) }
        let time := if s.ported then some s.tickValue else none
        (s.send 0xFFFF (.fbarArrive b.job id m time)).waitAt (.fabric id) k (boundOf f)) s

/-! ### Channels (R318) -/

/-- A blocking channel instruction joins the waiters of its channel. -/
def State.waitChan (s : State) (va pa : Nat) (x : Waiter) (limit : Nat) : Eff State :=
  let s := { s with chans := s.chans.modify pa fun c => { c with waiters := c.waiters ++ [x] } }
  s.waitAt (.chan va pa) 0 limit .channel

def execChanPush (f : Form) (s : State) : Result State :=
  runMeet (.chanPush f) (fun s => do
    let w := s.me
    if w.arrival.isSome then waitEff .channel
    else
      let va := (w.getS f.a.toNat).toNat
      let e ← s.checkObject va false
      let pa := devOf e
      let cap ← s.chanCap pa
      s.checkPages va (64 + 8 * cap)
      let c := s.chans.get pa
      let v := w.getS f.b.toNat
      if c.values.length < cap then
        let s := { s with chans := s.chans.put pa { c with values := c.values ++ [v] } }
        pure ((s.modMe fun w => w.setS f.c.toNat 0).serveChan pa cap (c.waiters.length + 1))
      else if f.optBit 0 then pure (s.modMe fun w => w.setS f.c.toNat 1)
      else
        s.waitChan va pa
          { wave := s.cur, peer := none, value := v, push := true, c := f.c.toNat, n := f.parcels } (boundOf f)) s

def execChanPop (f : Form) (s : State) : Result State :=
  runMeet (.chanPop f) (fun s => do
    let w := s.me
    if w.arrival.isSome then waitEff .channel
    else
      let va := (w.getS f.a.toNat).toNat
      let e ← s.checkObject va false
      let pa := devOf e
      let cap ← s.chanCap pa
      s.checkPages va (64 + 8 * cap)
      let c := s.chans.get pa
      match c.values with
      | v :: vs =>
        let s := { s with chans := s.chans.put pa { c with values := vs } }
        pure ((s.modMe fun w => (w.setS f.d.toNat v).setS f.c.toNat 0).serveChan pa cap (c.waiters.length + 1))
      | [] =>
        if f.optBit 0 then pure (s.modMe fun w => w.setS f.c.toNat 2)
        else
          s.waitChan va pa
            { wave := s.cur, peer := none, value := 0, push := false, d := f.d.toNat, c := f.c.toNat, n := f.parcels }
            (boundOf f)) s

/-! ### Tile deques (R319–R324) -/

/-- A deque instruction: at this package's cache, or, for a thief, at the owner's. -/
def runDeque (i : Instr) (f : Form) (steal : Bool) (op : Wave → DeqOp) (s : State) : Result State :=
  runMeet i (fun s => do
    let w := s.me
    let va := (w.getS f.a.toNat).toNat
    let e ← s.checkObject va steal
    match e.2.2 with
    | .peer pkg pa =>
      let a ← s.remote s.cur 0 0 pkg pa (.deque (op w))
      match a with
      | .value v =>
        if v = deqBad then trapEff (allotValue (u64 va)) else pure (s.putS s.cur f.d.toNat v)
      | .done => pure (s.putS s.cur f.d.toNat 0)
      | .refused => trapEff (pfReport va false 0 4 .atomic)
      | .lost => trapEff (rep linkLost (u64 pkg) 0)
      | .bad pa => .error (.uncorr pa)
      | .error => pure (s.putS s.cur f.d.toNat 0)
    | _ =>
      let at_ := s.deqPages w.id.ctx va (devOf e)
      match s.deqBadAt at_ with
      | some pa => .error (.uncorr pa)
      | none =>
        if !s.deqOk at_ then trapEff (allotValue (u64 va))
        else
          s.checkPages va (0x40 + 16 * s.deqField at_ 0 4)
          let (v, s) := s.deque at_ s.fab.pkg s.fab.set (op w)
          pure (s.putS s.cur f.d.toNat v)) s

def execDeqPush (f : Form) (s : State) : Result State :=
  runDeque (.deqPush f) f false (fun w => .push ((w.getS f.b.toNat).setWidth 32)) s
def execDeqPushReset (f : Form) (s : State) : Result State := runDeque (.deqPushReset f) f false (fun _ => .reset) s
def execDeqPop (f : Form) (s : State) : Result State := runDeque (.deqPop f) f false (fun _ => .pop) s
def execDeqStealClaim (f : Form) (s : State) : Result State := runDeque (.deqStealClaim f) f true (fun _ => .claim) s
def execDeqStealRun (f : Form) (s : State) : Result State :=
  runDeque (.deqStealRun f) f true (fun w => .run (w.getS f.b.toNat).toNat) s
def execDeqStealDone (f : Form) (s : State) : Result State :=
  runDeque (.deqStealDone f) f true (fun w => .done (w.getS f.b.toNat).toNat) s

/-- LEASE_EXPIRY (R321): a slot whose lease has run out returns to Queued. -/
def tryLeaseExpiry (header slot : Nat) (s : State) : Option State :=
  let at_ := s.deqFrames header
  if s.deqOk at_ && decide (slot < s.deqField at_ 0 4) && s.leaseOver at_ slot then some (s.expireSlot at_ slot) else none
def execLeaseExpiry (header slot : Nat) (s : State) : Result State := orSame (tryLeaseExpiry header slot) s

/-! ### Time-outs (R315) -/

/-- The members that have not come, with their control addresses. -/
def State.missing (s : State) (g : Gang) (req arrived : List Nat) : List (Nat × Nat) :=
  (req.filter fun m => !arrived.contains m && !g.exited.contains m).map fun m =>
    (m, ((g.waves[m]?).map fun x => (s.waves.get x).ctl.pc.toNat).getD 0)

/-- The list of missing members in the wave's prologue area. -/
def missingCells (ms : List (Nat × Nat)) : List (Nat × Byte) :=
  ((ms.take 48).zipIdx).flatMap fun e => cellsOf (0xC00 + 8 * e.2) 8 (e.1.1 % 2 ^ 16 * 2 ^ 48 + e.1.2 % 2 ^ 48)

/-- BARRIER_TIMEOUT. -/
def timeoutReport (id missing info2 : Nat) : Report := rep barrierTimeoutCode (u64 id) (u64 missing) (u64 info2)

/-- A time-out of a gang's instance: the arrival withdrawn, the report, the list; none once the generation is released. -/
def State.timeoutGang (s : State) (w : Wave) (a : Arrival) (key id : Nat) : Option (Report × List (Nat × Nat) × State) :=
  let g := s.gangs.get w.id.gang
  let b := g.bars.get key
  if a.gen < b.gen then none
  else
    let ms := s.missing g (g.required (s.kernels.get g.kern).desc.wgwaves key b.mask) b.arrived
    let left := b.arrived.filter fun m => m ≠ w.id.member
    let b' : Bar := { b with arrived := left, mask := if left.isEmpty then 0 else b.mask }
    some (timeoutReport id ms.length 0xC00, ms, s.modGang w.id.gang fun g => { g with bars := g.bars.put key b' })

/-- A count that the spec does not state (log entry 58). -/
def State.unstated (s : State) : Nat := (Config.freeValue s.free).toNat

/-- The same at a device barrier: a decrement of arrived in the same generation. It waits while the object's page migrates
(R329); an object that is mapped no more is not touched (R331), and the count of the missing is then a free value. -/
def State.timeoutDev (s : State) (w : Wave) (a : Arrival) (va : Nat) : Option (Report × List (Nat × Nat) × State) :=
  match s.walk (s.ctxOf w) va with
  | .hold => none
  | .leaf (.dev pa) _ _ =>
    if s.mem.readNat (pa + 4) 4 ≠ a.gen then none
    else
      let arrived := s.mem.readNat pa 4
      let missing := s.mem.readNat (pa + 8) 4 - arrived
      some (timeoutReport va missing 0, [], s.writeDev (cellsOf pa 4 ((arrived + 2 ^ 32 - 1) % 2 ^ 32)))
  | _ => some (timeoutReport va s.unstated 0, [], s)

/-- An arrival of a member is forgotten, with its time; later ones move up a generation. -/
def FBar.forget (b : FBar) (m gen : Nat) : FBar :=
  let n := b.counts.get m
  if n ≤ gen then b
  else
    { b with
      counts := b.counts.put m (n - 1)
      times := b.times.zipIdx.map fun e =>
        if e.2 = m then e.1.eraseIdx (e.1.length - (n - gen)) else e.1 }

/-- The same at a fabric barrier: the switch forgets the arrival, or it never leaves. Where the context has left its job
meanwhile, how many are missing there is a free value. -/
def State.timeoutFbar (s : State) (w : Wave) (a : Arrival) (id : Nat) : Option (Report × List (Nat × Nat) × State) :=
  let c := s.ctxs.get w.id.ctx
  match s.fbarOf c id with
  | none => some (timeoutReport (0x1000 + id) s.unstated 0xC00, [], s)
  | some (b, m) =>
    if a.gen < b.gen then none
    else
      let ms := ((List.range b.members.length).filter fun i => decide (b.counts.get i ≤ a.gen) && i ≠ m).map fun i => (i, 0)
      let mine (x : Msg) : Bool :=
        match x.body with
        | .fbarArrive j i _ _ => j == b.job && i == id
        | _ => false
      let unsent := s.fab.outbox.filter mine
      let reached := b.counts.get m
      let out := if reached ≤ a.gen then
          match unsent[a.gen - reached]? with
          | some x => s.fab.outbox.erase x
          | none => s.fab.outbox
        else s.fab.outbox
      let fbars := s.fab.fbars.map fun x => if x.job = b.job && x.id = id then x.forget m a.gen else x
      let s := { s with fab := { s.fab with outbox := out, fbars := fbars } }
      let s := s.modCtx w.id.ctx fun c =>
        { c with allreds := c.allreds.put (fbarKey id) (c.allreds.get (fbarKey id) - 1) }
      let s := { s with waves := s.waves.mapVals fun _ x =>
          if x.id.ctx ≠ w.id.ctx then x
          else
            match x.arrival with
            | some y => if y.kind = .fabric id && a.gen < y.gen then x.setArrival (some { y with gen := y.gen - 1 }) else x
            | none => x }
      some (timeoutReport (0x1000 + id) ms.length 0xC00, ms, s)

/-- A blocking channel instruction gives up: it takes no effect. -/
def State.timeoutChan (s : State) (wave va pa : Nat) : Option (Report × List (Nat × Nat) × State) :=
  some (timeoutReport va 0 0, [],
    { s with chans := s.chans.modify pa fun c => { c with waiters := c.waiters.filter fun x => x.wave ≠ wave } })

/-- BARRIER_TIMEOUT (R315): the bound of a waiting wave has passed. It passes where the wave's streams run, at levels 1 and 2
while its context is Suspending too (R97). -/
def tryBarrierTimeout (wave : Nat) (s : State) : Option State := do
  let w := s.waves.get wave
  let a ← w.arrival
  if a.limit = 0 || decide (s.own < a.start + a.limit) || !s.mayIssue wave then none
  else
    let (r, ms, s) ← match a.kind with
      | .wg => s.timeoutGang w a (keyWg (w.id.member / (s.kernOf w).desc.wgwaves)) 0x100
      | .gang => s.timeoutGang w a keyGang 0x200
      | .masked id => s.timeoutGang w a (keyMasked id) id
      | .dev va _ => s.timeoutDev w a va
      | .fabric id => s.timeoutFbar w a id
      | .chan va pa => s.timeoutChan wave va pa
    let s := s.modWave wave fun w => (w.setArrival none)
    let s := s.writeLocal wave (missingCells ms)
    let pc := (s.waves.get wave).ctl.pc
    some (s.takeTrap wave { r with pc := pc } pc)
def execBarrierTimeout (wave : Nat) (s : State) : Result State := orSame (tryBarrierTimeout wave) s

end Sys2Proof.Machine
end

