-- ==== Sys2Proof/Machine/Fetch.lean ====
section
/-!
DEFINITION. The turns of the two streams and the passing of time: whether a stream may issue, what it issues next, and
the placing of one instruction where the next step fetches it (log entry 9).
-/
namespace Sys2Proof.Machine

/-- The instruction a control turn runs: an answer that has come, else the one fetched at the pc; or how the fetch or
the encoding check stops it (R52, R77). -/
def State.nextCtl (s : State) : Eff Instr :=
  let w := s.me
  if !w.vec.back.isEmpty && !w.ctl.owed.isEmpty then pure .backQueueAnswer
  else do
    let ps ← s.fetch (s.ctxOf w) w.ctl.pc
    match decode false ps with
    | .ok (i, _) => pure i
    | .error _ => trapEff (parcelReport ps)

/-- The step a token asks for. -/
def tokenStep : Token → Instr
  | .vrun .. => .vrunToken
  | .mpush .. | .melse .. | .mpop .. | .serial .. => .maskToken
  | .brv .. | .vany .. | .vall .. | .bqrd .. => .requestToken

/-- The instruction a vector turn runs, checked against its block (R73); none where the side has nothing to do. -/
def State.nextVec (s : State) : Option (Eff Instr) :=
  let w := s.me
  match w.vec.block with
  | some b => some do
    let ps ← s.fetch (s.ctxOf w) w.vecSite
    if b.len < b.at_ + ps.length then trapEff (parcelReport ps)
    else
      match decode true ps with
      | .ok (i, _) => pure i
      | .error _ => trapEff (parcelReport ps)
  | none => w.ctl.queue.head?.map fun t => pure (tokenStep t)

/-- The address a stopped vector turn reports: the instruction in its block. -/
def State.vecFail (s : State) (e : Stop) : State := s.vecStop s.me.vecSite e

/-- Tick length in core cycles (R314, R394). -/
def tickCycles (len : Nat) : Nat := 1200 * len

/-- Core cycles pass: the clock, the package's own timers unless held back (R428), and the exchange tick (R404). -/
def State.elapse (s : State) (n : Nat) : State :=
  let L := tickCycles s.fab.ticklen
  let sub := s.fab.sub + n
  { s with
    cycle := s.cycle + n
    own := if s.dv.stopped || s.dv.gated then s.own else s.own + n
    fab := { s.fab with sub := sub % L, tick := s.fab.tick + sub / L } }

/-- The time one step takes: one cycle, and as many more as the part takes (log entry 7). -/
def State.tickStep (s : State) : State :=
  { s with free := s.free + 1 }.elapse (1 + Config.stallCycles s.free)

/-- The first issue of a workgroup starts its time (R149). -/
def State.noteIssue (s : State) : State :=
  let w := s.me
  let wg := w.id.member / (s.kernOf w).desc.wgwaves
  if (s.gangOf w).starts.get wg = 0 then s.modGang w.id.gang fun x => { x with starts := x.starts.put wg (s.own + 1) } else s

/-! ### Placing one instruction (log entry 9) -/

/-- A leaf entry of a 4 KiB page of device memory that may be fetched and read (R326). -/
def fetchLeaf (frame : Nat) : Nat := frame + 0x17

/-- A pointer entry (R326). -/
def tableEntry (table : Nat) : Nat := table + 1

/-- The code of the placed instruction: at virtual 0, frame 0x5000 of group 0, its tables at 0 to 0x4FFF; a block
header stands before an instruction of the vector stream. -/
def placedMem (vec : Bool) (w : Nat) : Mem :=
  let code : List Byte := (parcelsOfNat w).flatMap bytesOfParcel
  let len := match (code.head?.getD 0).toNat % 4 with
    | 1 => 2
    | 2 => 3
    | _ => 1
  let head : List Byte := if vec then bytesLE 4 (len * 4 + 3) else []
  Tab.putAll (α := Byte) [] (cellsOf 0 8 (tableEntry 0x1000) ++ cellsOf 0x1000 8 (tableEntry 0x2000) ++
    cellsOf 0x2000 8 (tableEntry 0x3000) ++ cellsOf 0x3000 8 (tableEntry 0x4000) ++
    cellsOf 0x4000 8 (fetchLeaf 0x5000) ++ cellsAt 0x5000 (head ++ code))

/-- The wave that runs the placed instruction: at wave start, or inside a block of one iteration. -/
def placedWave (vec : Bool) (len : Nat) : Wave :=
  { st := .running
    id := { ctx := 0, kern := 1, gang := 1, width := 32, spillsz := 8192 }
    vec := if vec then
        { block := some { site := 0, base := 0, len := len, at_ := 0, iter := 0, trip := 1, mask := allLanes 32,
                          span := none } }
      else {} }

/-- A context, kernel, gang and wave placed for one instruction, standing where the next step runs it. -/
def State.placed (s : State) (nbits w : Nat) : State :=
  let w := w % 2 ^ nbits
  let vec := streamOf (BitVec.ofNat 32 w)
  let len := match w % 4 with
    | 1 => 2
    | 2 => 3
    | _ => 1
  { s with
    mem := s.mem.putAll (placedMem vec w)
    ctxs := s.ctxs.put 0 { st := .running, pairs := [0], ways := [0], pcgroups := [0] }
    kernels := s.kernels.put 1 { st := .running, ctx := 0, desc := { width := 32 }, placed := 1 }
    gangs := s.gangs.put 1 { st := .resident, ctx := 0, kern := 1, waves := [0], starts := [(0, 1)] }
    waves := s.waves.put 0 (placedWave vec len)
    sched := [if vec then .vec 0 else .ctl 0]
    cur := 0 }

end Sys2Proof.Machine
end

