-- ==== Sys2Proof/Machine/Lanes.lean ====
section
/-!
DEFINITION. Moves between the lanes of a wave, reductions and scans (R42–R44, R222–R228).
-/
namespace Sys2Proof.Machine

/-- `mov` of the vector stream (R223). -/
def execMovV (f : Form) (s : State) : Result State :=
  runLanes (.movV f) f f.type (formRegs1 f f.type) false (fun w l => w.vsrc f.type l (f.srcA true)) s

/-- `movk` (R223): a word of a block constant, or the whole of it. -/
def execMovk (f : Form) (s : State) : Result State :=
  runLanes (.movk f) f f.type [] false (fun w _ =>
    let k := (w.vec.k.get f.a.toNat).toNat
    if f.type.is64 then k else k / 2 ^ (32 * f.variant) % 2 ^ 32) s

/-- The lanes of A with p[B] = 1 (R224). -/
def Wave.chosen (w : Wave) (f : Form) (A : W64) : W64 := A &&& w.getP f.b.toNat

/-- A permuting instruction: its results by lane. One with a lane-uniform operand makes no check where no lane is active
(R222). -/
def runPermute (i : Instr) (f : Form) (t : ElemType) (regs : List Nat) (g : W64 → State → Eff Lanes) (s : State)
    (uni : Bool := false) : Result State :=
  runVec i f (fun A s =>
    if uni && A = 0 then pure s
    else do
      s.checkRegs (dstRegs t f.d.toNat ++ regs)
      let rs ← g A s
      pure (s.vputs t f.d.toNat rs)) s

/-- `lane` (R224): the rank of a lane among the chosen ones. -/
def execLaneRank (f : Form) (s : State) : Result State :=
  runPermute (.laneRank f) f .n32 [] (fun A s =>
    let S := lanesOf (s.me.chosen f A)
    pure (lanesMap A fun l => (S.filter fun j => decide (j < l)).length)) s

/-- An instruction that moves lanes: its destination and source lanes; what it reads there must be correctable (R111). -/
def runLaneMove (i : Instr) (f : Form) (regs : List Nat) (g : W64 → State → Eff (List (Nat × Nat))) (s : State)
    (uni : Bool := false) : Result State :=
  runPermute i f f.type (formRegs1 f f.type ++ regs) (fun A s => do
    let w := s.me
    let ms ← g A s
    s.checkEccOf (formRegs1 f f.type) (ms.map Prod.snd)
    pure (ms.map fun e => (e.1, w.vsrc f.type e.2 (f.srcA true)))) s uni

def execPerm (f : Form) (s : State) : Result State :=
  runLaneMove (.perm f) f (srcRegs .n32 (f.srcB true)) (fun A s =>
    let w := s.me
    pure (lanesMap A fun l => w.vsrc .n32 l (f.srcB true) % w.id.width)) s

def execBcast (f : Form) (s : State) : Result State :=
  runLaneMove (.bcast f) f (srcRegs .n32 (f.srcB true)) (fun A s => do
    let L ← s.uniform A (f.srcB true)
    pure (lanesMap A fun _ => L % s.me.id.width)) s true

/-- `compress` (R224) writes low lanes by position, active or not. -/
def execCompress (f : Form) (s : State) : Result State :=
  runLaneMove (.compress f) f [] (fun A s => pure ((lanesOf (s.me.chosen f A)).zipIdx.map fun e => (e.2, e.1))) s

def execExpand (f : Form) (s : State) : Result State :=
  runLaneMove (.expand f) f [] (fun A s => pure (lanesOf (s.me.chosen f A)).zipIdx) s

def execSlideup (f : Form) (s : State) : Result State :=
  runLaneMove (.slideup f) f (srcRegs .n32 (f.srcB true)) (fun A s => do
    let n ← s.uniform A (f.srcB true)
    pure (lanesMap (maskWhere A fun l => decide (n ≤ l)) fun l => l - n)) s true

def execSlidedn (f : Form) (s : State) : Result State :=
  runLaneMove (.slidedn f) f (srcRegs .n32 (f.srcB true)) (fun A s => do
    let w := s.me
    let n ← s.uniform A (f.srcB true)
    pure (lanesMap (maskWhere A fun l => decide (l + n < w.id.width)) fun l => l + n)) s true

/-- `match` (R225): keys compare bit for bit; the result is a 64-bit lane mask whatever the type. -/
def execMatchLanes (f : Form) (s : State) : Result State :=
  runPermute (.matchLanes f) f .b64 (formRegs1 f f.type) (fun A s =>
    let w := s.me
    let key (l : Nat) : Nat := w.vsrc f.type l (f.srcA true)
    pure (lanesMap A fun l => (maskWhere A fun j => key j == key l).toNat)) s

/-- `ballot` (R226). -/
def execBallot (f : Form) (s : State) : Result State :=
  runPermute (.ballot f) f .b64 [] (fun A s => pure (lanesMap A fun _ => (s.me.chosen f A).toNat)) s

/-! ### Reductions and scans (R42–R44, R227, R228) -/

/-- One combining step of an operation under a type, on bits. -/
def redOp (f : Form) (x y : Nat) : Nat :=
  let t := f.type
  let F := fmtOf t
  match f.c.toNat with
  | 0 =>
    if t.isFloat then F.encode { mode := f.rounding } false ((F.decode x).add (f.rounding == .rd) (F.decode y))
    else reduce t false (valOf t x + valOf t y)
  | 1 =>
    if t.isFloat then F.encode rne false (fvMin (F.decode x) (F.decode y)) else wrapNat t.width (min (valOf t x) (valOf t y))
  | 2 =>
    if t.isFloat then F.encode rne false (fvMax (F.decode x) (F.decode y)) else wrapNat t.width (max (valOf t x) (valOf t y))
  | 3 => x &&& y
  | 4 => x ||| y
  | _ => x ^^^ y

/-- The identity of an operation (R44). -/
def redIdentity (f : Form) : Nat :=
  let t := f.type
  let F := fmtOf t
  match f.c.toNat with
  | 0 => if t.isFloat then F.sign else 0
  | 1 => if t.isFloat then F.inf.getD F.maxFin else wrapNat t.width (maxOf t)
  | 2 => if t.isFloat then F.sign + F.inf.getD F.maxFin else wrapNat t.width (minOf t)
  | 3 => 2 ^ t.width - 1
  | _ => 0

/-- One level of the tree of R42: neighbours combined. -/
def treeLevel (op : Nat → Nat → Nat) : List Nat → List Nat
  | x :: y :: r => op x y :: treeLevel op r
  | l => l

/-- The tree of R42 over 2^n lanes. -/
def treeRed (op : Nat → Nat → Nat) : Nat → List Nat → List Nat
  | 0, l => l
  | n + 1, l => treeRed op n (treeLevel op l)

/-- One step of the Kogge–Stone scan at a distance (R43). -/
def scanStep (op : Nat → Nat → Nat) (d : Nat) (x : List Nat) : List Nat :=
  x.take d ++ (x.zip (x.drop d)).map fun e => op e.1 e.2

/-- The scan of R43 over 2^n lanes, from distance d. -/
def scanAll (op : Nat → Nat → Nat) : Nat → Nat → List Nat → List Nat
  | 0, _, x => x
  | n + 1, d, x => scanAll op n (2 * d) (scanStep op d x)

/-- The lanes' values, the identity where inactive. -/
def Wave.redSources (w : Wave) (f : Form) (A : W64) : List Nat :=
  (List.range w.id.width).map fun l => if A.getLsbD l then w.vsrc f.type l (f.srcA true) else redIdentity f

/-- A result of a float type: a NaN is the canonical one (R23). -/
def canonNan (t : ElemType) (x : Nat) : Nat :=
  if t.isFloat && ((fmtOf t).decode x).isNan then (fmtOf t).nan else x

def runReduce (i : Instr) (f : Form) (g : Nat → List Nat → Nat → Nat) (s : State) : Result State :=
  runVec i f (fun A s => do
    let t := f.type
    s.checkRegs (dstRegs t f.d.toNat ++ formRegs1 f t)
    let w := s.me
    let x := w.redSources f A
    let rs := lanesMap A fun l => canonNan t (g (Nat.log2 w.id.width) x l)
    s.checkFinite t (nfSame t) rs
    pure (s.vputs t f.d.toNat rs)) s

def execRedLanes (f : Form) (s : State) : Result State :=
  runReduce (.redLanes f) f (fun n x => let r := ((treeRed (redOp f) n x).head?).getD 0; fun _ => r) s

def execScanLanes (f : Form) (s : State) : Result State :=
  runReduce (.scanLanes f) f (fun n x => let y := scanAll (redOp f) n 1 x; fun l => (y[l]?).getD 0) s

end Sys2Proof.Machine
end

