-- ==== Sys2Proof/Machine/PageOps.lean ====
section
/-!
DEFINITION. Frames, quiescence and the page commands as shared operations (R330–R335), and spans of memory read and
written through a context's page table.
-/
namespace Sys2Proof.Machine

/-! ### Spans -/

/-- A span cut at page boundaries. -/
def pieces (va n : Nat) : List (Nat × Nat) :=
  let first := min n (4096 - va % 4096)
  if n = 0 then []
  else (va % 2 ^ 64, first) :: ((List.range ((n - first + 4095) / 4096)).map fun k =>
    ((va + first + 4096 * k) % 2 ^ 64, min 4096 (n - first - 4096 * k)))

/-- The bytes of a span, each page checked. -/
def State.readSpan (s : State) (c : Ctx) (need : Need) (lane va n : Nat) : Eff (List Byte) := do
  let ps ← (pieces va n).mapM fun p => do
    let t ← s.checkGlobal c need lane p.1 1
    s.checkLinks [(lane, t)]
    let v ← s.readAt t p.2
    pure (bytesLE p.2 v)
  pure ps.flatten

/-- A span's pages checked. -/
def State.checkSpan (s : State) (c : Ctx) (need : Need) (lane va n : Nat) : Eff Unit :=
  (pieces va n).foldlM (fun _ p => do
    let _ ← s.checkGlobal c need lane p.1 1
    pure ()) ()

/-! ### Quiescence (R333) -/

/-- Compute dies on which a context holds pairs or way-groups. -/
def Ctx.dies (c : Ctx) : List Nat := (sortNat (c.pairs.map (· / 64) ++ c.ways.map (· / 32))).eraseDups

/-- Stamps of the accesses of a wave that are not yet performed: operations that have issued and wait at no leaf with hold set,
but for an `evict` whose trimming is done, requests to other packages that do not wait there, a gather, a vector access
that has begun, and the store queue. -/
def State.waveStamps (s : State) (wi : Nat) (w : Wave) : List Nat :=
  let trimmed (o : PendingOp) : Bool := (s.ctxs.get w.id.ctx).trimmed.any fun e => e.1 == o.uid
  (w.ctl.ops.filter fun o => !s.unreached wi o && !trimmed o && !o.held).map PendingOp.stamp ++
  (w.remote.filter fun r => r.answer.isNone && !r.queued).map Remote.stamp ++
  w.vec.gather.toList.map Gather.stamp ++ w.vec.access.toList.map VecAccess.stamp ++ w.stq.map QStore.stamp

/-- The home die of a device address, in the context that holds it (R234). -/
def State.dieAt (s : State) (pa : Nat) : Option Nat :=
  (s.ctxs.find? fun e => e.2.holds pa).map fun e => (homeOf e.2.ways pa).2

/-- The die where an ordered add is held. -/
def State.addDie (s : State) (a : HeldAdd) : Nat :=
  if a.home then (homeOf (s.ctxs.get (s.kernels.get a.kern).ctx).ways a.pa).2 else dieOf a.wave

/-- Stamps of the accesses of a context that agents outside the dies have issued: the walker, the front end, the mirror. -/
def State.agentStamps (s : State) (ci : Nat) (c : Ctx) : List Nat :=
  (s.graphs.flatMap fun e => if e.2.ctx = ci then e.2.copies.map fun a => a.2.1 else []) ++ c.posts.map Prod.snd ++
  ((List.range 16).filterMap fun j => (s.queues.get (16 * ci + j)).signal.map PeerSignal.stamp) ++
  (if c.mirOut.isEmpty then [] else [c.mirAt])

/-- The quiescence counter of a die: the lowest stamp of an access its cores have issued or its slices hold. -/
def State.quiescence (s : State) (d : Nat) : Nat :=
  let ws := s.waves.flatMap fun e => if dieOf e.1 = d then s.waveStamps e.1 e.2 else []
  let es := s.cores.flatMap fun e =>
    if e.1 / 128 = d then e.2.wcb.map WcbEntry.stamp ++ e.2.out.map fun x => x.2.stamp else []
  let adds := s.adds.filterMap fun a => if s.addDie a = d then some a.stamp else none
  let lines := s.fab.lines.filterMap fun e => e.2.bind fun l => if dieOf l.wave = d then some l.stamp else none
  let peers := s.sems.flatMap fun e =>
    if s.dieAt e.1 = some d then (e.2.filter fun x => x.peer.isSome).map Waiter.stamp else []
  let agents := s.ctxs.flatMap fun e => if e.2.dies.contains d then s.agentStamps e.1 e.2 else []
  (ws ++ es ++ adds ++ lines ++ peers ++ agents).foldl min s.epoch

/-- The least counter over the dies of a context. -/
def State.quiet (s : State) (c : Ctx) : Nat := (c.dies.map s.quiescence).foldl min s.epoch

/-- EPOCH_ADVANCE (R333): the epoch counts 1,024 core cycles. -/
def tryEpochAdvance (s : State) : Option State :=
  if s.epoch < s.cycle / 1024 then some { s with epoch := s.epoch + 1 } else none
def execEpochAdvance (s : State) : Result State := orSame tryEpochAdvance s

/-! ### Frames (R332, R334) -/

/-- The frames of a page that is mapped no more: as a whole, or, where some of them are mapped still or cool already, one by
one those left (R332). The pages mapped and those cooling are given by first frame and size. -/
def unmappedFrames (now cooling : List (Nat × Nat)) (m : Nat × Nat) : List (Nat × Nat) :=
  match (now ++ cooling).filter fun x => decide (x.1 < m.1 + m.2) && decide (m.1 < x.1 + x.2) with
  | [] => [m]
  | near => ((List.range m.2).map (m.1 + ·)).filterMap fun f =>
    if near.any fun x => decide (x.1 ≤ f) && decide (f < x.1 + x.2) then none else some (f, 1)

/-- The Cooling pages of a context, by first frame and size. -/
def Ctx.cooling (c : Ctx) : List (Nat × Nat) :=
  c.frames.filterMap fun e =>
    match e.2 with
    | .cooling n _ _ => some (e.1, n)
    | _ => none

/-- A page goes to the cooling shelf, unless one as large stands there at its frame. -/
def shelve (epoch : Nat) (f : Tab FrameSt) (m : Nat × Nat) : Tab FrameSt :=
  match f.get m.1 with
  | .cooling n _ none => if m.2 ≤ n then f else f.put m.1 (.cooling m.2 epoch none)
  | _ => f.put m.1 (.cooling m.2 epoch none)

/-- Whether a device address lies in a Cooling page of a context (R402). -/
def Ctx.cools (c : Ctx) (pa : Nat) : Bool :=
  c.frames.any fun e =>
    match e.2 with
    | .cooling n _ _ => decide (e.1 ≤ pa / 4096) && decide (pa / 4096 < e.1 + n)
    | _ => false

/-- Pages unmapped in a range of virtual addresses go to the cooling shelf, freed now; one that cools already goes on. -/
def State.coolUnmapped (s : State) (ci first last : Nat) : State :=
  let c := s.ctxs.get ci
  let now := s.mappedNow c
  let inside (m : Nat × Nat × Nat) : Bool := decide (m.1 < last) && decide (first < m.1 + 4096 * m.2.2)
  let gone := (c.mapped.filter inside).flatMap fun m => unmappedFrames (now.map Prod.snd) c.cooling m.2
  s.modCtx ci fun c =>
    { c with
      mapped := (now ++ c.mapped.filter fun m => !inside m).eraseDups
      frames := gone.foldl (shelve s.epoch) c.frames }

/-- An entry appended to a free list (R338, R344). -/
def State.appendFree (s : State) (ci : Nat) (t : Trimmed) : State :=
  let c := s.ctxs.get ci
  let count := ofBytesLE ((s.feRead c (t.list.toNat + 4) 4).getD [])
  let s := (s.feWrite c (t.list.toNat + 16 + 16 * count) (bytesLE 8 t.data.toNat ++ bytesLE 8 t.info.toNat)).getD s
  (s.feWrite c (t.list.toNat + 4) (bytesLE 4 (count + 1))).getD s

/-- Whether the free list of an entry lies in a page in migration, so that the trimmer waits (R329). -/
def State.listHeld (s : State) (c : Ctx) (t : Trimmed) : Bool :=
  let count := ofBytesLE ((s.feRead c (t.list.toNat + 4) 4).getD [])
  s.feHeld c t.list.toNat 16 || s.feHeld c (t.list.toNat + 16 + 16 * count) 16

/-- COOLING_END (R334, R344): quiescence has passed the free epoch. A page freed by software is Free; one freed by the
trimmer is appended to its list, pages of one `evict` in ascending order. -/
def tryCoolingEnd (ctx frame : Nat) (s : State) : Option State :=
  let c := s.ctxs.get ctx
  match c.frames.get frame with
  | .cooling _ f entry =>
    if s.quiet c ≤ f then none
    else
      match entry with
      | none => some (s.modCtx ctx fun c => { c with frames := c.frames.put frame .plain })
      | some t =>
        let before := c.frames.any fun e =>
          match e.2 with
          | .cooling _ _ (some x) => x.uid == t.uid && decide (x.index < t.index)
          | _ => false
        if before || s.listHeld c t then none
        else some ((s.appendFree ctx t).modCtx ctx fun c => { c with frames := c.frames.put frame (.pooled t) })
  | _ => none
def execCoolingEnd (ctx frame : Nat) (s : State) : Result State := orSame (tryCoolingEnd ctx frame) s

/-- Whether a free list names an entry no longer: software has taken it (Table 14.1). -/
def State.takenFrom (s : State) (c : Ctx) (t : Trimmed) : Bool :=
  match s.feRead c t.list.toNat 16 with
  | none => false
  | some hd =>
    match s.feRead c (t.list.toNat + 16) (16 * min (fieldOf hd 0 4) (fieldOf hd 4 4)) with
    | none => false
    | some es =>
      !(List.range (es.length / 16)).any fun i =>
        fieldOf es (16 * i) 8 == t.data.toNat && fieldOf es (16 * i + 8) 8 == t.info.toNat

/-- Pooled frames that software has taken from their list are Mapped (Table 14.1). -/
def State.noteTaken (s : State) : State :=
  let taken (c : Ctx) : FrameSt → Bool
    | .pooled t => s.takenFrom c t
    | _ => false
  if s.ctxs.all fun e => e.2.frames.all fun f => !taken e.2 f.2 then s
  else
    { s with ctxs := s.ctxs.mapVals fun _ c =>
        { c with frames := c.frames.mapVals fun _ f => if taken c f then .plain else f } }

/-! ### Page commands (R330, R331, R335) -/

/-- A page command that is refused. -/
def PageBlock.fail (b : PageBlock) (code : Nat) : PageBlock := { b with err := true, errcode := code }

/-- The level at which a walk from a table ends. -/
def leafLevel (mem : Mem) (va : Nat) : Nat → Nat → Nat
  | 0, _ => 0
  | l + 1, table =>
    let e := mem.readNat (table + 8 * (va / (4096 * 512 ^ (l + 1)) % 512)) 8
    if nbit e 0 && !nbit e 1 then leafLevel mem va l (nbits e 51 12 * 4096) else l + 1

/-- The leaf entry of a page that MIGRATE may move, and its frame's address, in the table itself: valid, 4 KiB, target 0, not
held. -/
def State.migratable (s : State) (c : Ctx) (va : Nat) : Option (Nat × Nat) :=
  if !canonical va then none
  else
    match s.walkFrom c va 4 c.pgroot with
    | .leaf (.dev pa) _ entry => if leafLevel s.mem va 4 c.pgroot = 0 then some (entry, pa) else none
    | _ => none

/-- A page command in an op (R330): INV, MIGRATE or INVALL begins, or the write is refused; ignored while the region is
not ready (R422). -/
def State.pageCommand (s : State) (ci op : Nat) : State :=
  if !s.dv.pg then s else
  let c := s.ctxs.get ci
  let b := c.page
  let set (b : PageBlock) : State := s.modCtx ci fun c => { c with page := b }
  if b.doing ≠ .none then set { b with err := true }
  else
    let b := { b with cmd := u64 op }
    let va := b.arg0.toNat
    match op with
    | 0 => set b
    | 1 =>
      if va % 4096 ≠ 0 || b.arg1 = 0 || b.arg1.toNat % 4096 ≠ 0 then set (b.fail 2)
      else (set { b with doing := .inv s.epoch va (va + b.arg1.toNat) }).noteMapped ci
    | 2 =>
      let new := b.arg1.toNat
      if va % 4096 ≠ 0 || new % 4096 ≠ 0 || !c.holds new then set (b.fail 2)
      else
        match s.migratable c va with
        | none => set (b.fail 3)
        | some (entry, old) =>
          let e := s.mem.readNat entry 8
          let s := (s.noteMapped ci).writeDev (cellsOf entry 8 (e + 128))
          let s : State := { s with uid := s.uid + 1 }
          s.modCtx ci fun c =>
            { c with
              page := { b with doing := .migrate s.epoch entry old new s.uid }
              tlb := c.tlb.filter fun l => l.entry ≠ entry
              frames := if c.frames.get (old / 4096) = .plain then c.frames.put (old / 4096) (.held (new / 4096))
                else c.frames }
    | 3 => (set { b with doing := .inv s.epoch 0 (2 ^ 64) }).noteMapped ci
    | _ => set (b.fail 1)

/-- A page command of a context slot, as an input of system software. -/
def pageInput (ci op : Nat) (s : State) : Result State := .next (s.pageCommand ci op)

/-- INV and INVALL (R331). -/
def execInv (ctx : Nat) (s : State) : Result State := pageInput ctx 1 s
def execInvall (ctx : Nat) (s : State) : Result State := pageInput ctx 3 s

/-- The L1 lines of a context's cores go. -/
def State.dropLines (s : State) (ci : Nat) : State :=
  s.l1Empty ((s.ctxs.get ci).pairs.flatMap fun p => [2 * p, 2 * p + 1])

/-- Whether a cached leaf covers an address of a range. -/
def CachedLeaf.covers (l : CachedLeaf) (first last : Nat) : Bool :=
  let size := 4096 * 512 ^ l.lvl
  decide (l.page * size < last) && decide (first < (l.page + 1) * size)

/-- INV_COMPLETE (R331): the caches drop what they hold of the range, and the wait is for accesses up to then; once every
counter has passed it, what was unmapped cools. -/
def tryInvComplete (ctx : Nat) (s : State) : Option State :=
  let c := s.ctxs.get ctx
  match c.page.doing with
  | .inv e first last =>
    if c.tlb.any fun l => l.covers first last then
      some (s.modCtx ctx fun c =>
        { c with
          page := { c.page with doing := .inv s.epoch first last }
          tlb := c.tlb.filter fun l => !l.covers first last })
    else if s.quiet c ≤ e then none
    else
      some (((s.coolUnmapped ctx first last).dropLines ctx).modCtx ctx fun c => { c with page := { c.page with doing := .none } })
  | _ => none
def execInvComplete (ctx : Nat) (s : State) : Result State := orSame (tryInvComplete ctx) s

/-- MIGRATE (R335): hold is set and the page invalidated. -/
def execMigrate (ctx : Nat) (s : State) : Result State := pageInput ctx 2 s

/-- A device address once a page has moved. -/
def movedTo (old new pa : Nat) : Nat := if pa / 4096 = old / 4096 then new + pa % 4096 else pa

/-- A table under keys changed. -/
def Tab.mapKeys {α : Type} [Inhabited α] [DecidableEq α] (t : Tab α) (f : Nat → Nat) : Tab α :=
  t.foldl (fun acc e => acc.put (f e.1) e.2) []

/-- A barrier or channel that a wave waits at, once its page has moved. -/
def BarKind.moved (m : Nat → Nat) : BarKind → BarKind
  | .dev va pa => .dev va (m pa)
  | .chan va pa => .chan va (m pa)
  | k => k

/-- What the machine keeps by device address follows a page to its new frame: channels and semaphores with those that wait,
leases, and the places that collectives and mirrors have had translated (R335). A barrier's deque and cone, and a group's
window and acknowledgement area, stay the frames that BIND and `mgrp.bind` translated (R401, R409). -/
def State.movePage (s : State) (old new : Nat) : State :=
  let m := movedTo old new
  let piece (p : Nat × Nat) : Nat × Nat := (m p.1, p.2)
  let line (l : Nat) : Nat := m (256 * l) / 256
  let stand (a : Arrival) : Arrival := { a with kind := a.kind.moved m }
  let ctx (c : Ctx) : Ctx :=
    { c with job := { c.job with mirror := c.job.mirror.map piece }, mirrored := c.mirrored.map line }
  { s with
    chans := s.chans.mapKeys m
    sems := s.sems.mapKeys m
    leases := s.leases.map fun l => (line l.1, l.2)
    waves := s.waves.mapVals fun _ w => if w.arrival.isNone then w else { w with arrival := w.arrival.map stand }
    ctxs := s.ctxs.mapVals fun _ c => ctx c
    fab := { s.fab with
      reds := s.fab.reds.map fun r => { r with dst := r.dst.map piece } } }

/-- The frames of a context once a page has moved: the old one is Free; a page that cools or is pooled is so in its new
frame. -/
def Ctx.moveFrame (c : Ctx) (old new : Nat) : Ctx :=
  let f := c.frames.get (old / 4096)
  let is := match f with
    | .held _ => .plain
    | f => f
  { c with frames := (c.frames.put (old / 4096) .plain).put (new / 4096) is }

/-- MIGRATE_COMPLETE (R335): the page copied to its new frame and the leaf rewritten, in one step; uncorrectable granules
stay so in the new frame (log entry 23). -/
def tryMigrateComplete (ctx : Nat) (s : State) : Option State :=
  let c := s.ctxs.get ctx
  match c.page.doing with
  | .migrate e entry old new _ =>
    if s.quiet c ≤ e then none
    else
      let bad := s.dv.bad.filterMap fun b =>
        if (b.1 == .hbm || b.1 == .l2) && decide (old / 32 ≤ b.2) && decide (b.2 < old / 32 + 128)
        then some (b.1, b.2 - old / 32 + new / 32) else none
      let s := s.writeDev ((List.range 4096).map fun i => (new + i, s.mem.get (old + i)))
      let s := { s with dv := { s.dv with bad := s.dv.bad ++ bad } }
      let x := s.mem.readNat entry 8
      let s := s.writeDev (cellsOf entry 8 (x - nbits x 51 12 * 4096 + new - 128))
      let s := ((s.movePage old new).dropLines ctx).modCtx ctx fun c =>
        { c.moveFrame old new with page := { c.page with doing := .none } }
      some (s.modCtx ctx fun c => { c with mapped := (s.mappedNow c ++ c.mapped.filter fun m => m.2.1 ≠ old / 4096).eraseDups })
  | _ => none
def execMigrateComplete (ctx : Nat) (s : State) : Result State := orSame (tryMigrateComplete ctx) s

end Sys2Proof.Machine
end

