-- ==== Sys2Proof/Machine/LinkOps.lean ====
section
/-!
DEFINITION. What a fabric message does where it is processed, at this package and in the switch role: requests and
responses, fabric barriers and the cone record, multicast lines, collectives (R314, R401–R414).
-/
namespace Sys2Proof.Machine

/-! ### Jobs (R400) -/

/-- The switch's number among message destinations and senders (log entry 19). -/
def switchDest : Nat := 0xFFFF

/-- The context of this package bound to a job. -/
def State.jobCtx (s : State) (job : Nat) : Option (Nat × Ctx) :=
  s.ctxs.find? fun e => decide (e.2.jobst = 2) && decide (e.2.job.num = job)

/-- Whether a job's messages are exchanged at ticks (R405). -/
def State.tickwise (s : State) (job : Nat) : Bool :=
  match s.jobCtx job with
  | some (_, c) => c.level == 2
  | none => false

/-- Whether a package number is this package's (R394). -/
def State.isSelf (s : State) (p : Nat) : Bool := s.fab.set && p == s.fab.pkg

/-- Whether a package has a context bound to a job (log entry 24). -/
def State.boundTo (s : State) (job p : Nat) : Bool :=
  if s.isSelf p then (s.jobCtx job).isSome else Config.peerMember s.cycle job p

/-- Whether this package is the anchor of a job in UALink mode (R393). -/
def State.isAnchor (s : State) (job : Nat) : Bool :=
  s.fab.mode && !(List.range s.fab.pkg).any fun p => s.boundTo job p

/-- The fabric changed. -/
def State.modFab (s : State) (f : Fabric → Fabric) : State := { s with fab := f s.fab }

/-! ### The buddy mirror (R416) -/

/-- The place in the mirror of a device address, past its header. -/
def Job.mirrorOff (j : Job) (pa : Nat) : Option Nat :=
  (j.mirror.zipIdx.find? fun e => decide (e.1.1 ≤ pa) && decide (pa < e.1.1 + e.1.2)).map fun e => 4096 * e.2 + (pa - e.1.1)

/-- Lines of the mirror once some have been written over. -/
def mirrorOver (old new : List (Nat × List Byte)) : List (Nat × List Byte) :=
  (old.filter fun x => !new.any fun y => y.1 == x.1) ++ new

/-! ### Messages held for a boundary (R405, R406) -/

/-- The latest tick a package has closed. -/
def State.closedOf (s : State) (p : Nat) : Option Nat := (s.fab.closes.find? fun c => c.1 == p).map Prod.snd

/-- A message stands with the tick of its creation: the sender's first tick not closed yet, and at least a given one. -/
def State.hold (s : State) (sender least : Nat) (m : FabMsg) : State :=
  let tick := max least (max s.fab.bound (((s.closedOf sender).map (· + 1)).getD 0))
  s.modFab fun f => { f with held := f.held ++ [{ sender, tick, msg := m }] }

/-- A message created at the boundary at hand: in answer to one processed there, or by the switch in its own role. -/
def State.holdNow (s : State) (sender : Nat) (m : FabMsg) : State :=
  s.modFab fun f => { f with held := f.held ++ [{ sender, tick := f.bound, msg := m }] }
def State.holdSwitch (s : State) (m : FabMsg) : State := s.holdNow switchDest m

/-! ### Requests and responses (R402) -/

/-- Bytes an operation touches. -/
def reqExtent (pa : Nat) : PeerOp → Nat × Nat
  | .load n => (pa, n)
  | .store cells => (cells.foldl (fun m c => min m c.1) pa, cells.foldl (fun m c => max m (c.1 + 1)) (pa + 1) - pa)
  | .atomic _ t _ _ => (pa, t.bytes)
  | .sems _ | .semw _ => (pa, 8)
  | _ => (pa, 64)

/-- Whether a request is accepted: within the groups of the context bound to the sender's job, and no cooling frame
(R402). -/
def State.acceptsBytes (s : State) (job : Option Nat) (a n : Nat) : Bool :=
  match job.bind s.jobCtx with
  | none => false
  | some (_, c) => c.holds a && c.holds (a + n - 1) && !c.cools a && !c.cools (a + n - 1)
def State.accepts (s : State) (r : PeerReq) : Bool := s.acceptsBytes r.job (reqExtent r.pa r.op).1 (reqExtent r.pa r.op).2

/-- The group entry of a job (R407), and a change of it. -/
def State.groupOf (s : State) (job id : Nat) : Option McGroup := s.fab.groups.find? fun g => g.job == job && g.id == id
def State.modGroup (s : State) (job id : Nat) (f : McGroup → McGroup) : State :=
  s.modFab fun x => { x with groups := x.groups.map fun g => if g.job = job && g.id = id then f g else g }

/-- The index of a package in a group. -/
def McGroup.rank (g : McGroup) (p : Nat) : Option Nat := g.members.findIdx? fun m => m.pkg == p

/-- Device address of a byte of a member's window. -/
def McMember.at_ (m : McMember) (off : Nat) : Nat :=
  ((m.window[(m.first + off) / 4096]?).getD 0) + (m.first + off) % 4096

/-- A line at this package's member: written, or the reason it is not (R411). -/
def State.lineHere (s : State) (g : McGroup) (m : McMember) (off : Nat) (cells : List (Nat × Byte)) : Nat × State :=
  if !m.bound then (1, s)
  else if g.lines ≤ off / 256 then (0, s)
  else (0xFF, s.writeDev (cells.map fun c => (m.at_ (off / 256 * 256 + c.1), c.2)))

/-- Whether a line for this package's own member meets a range in force (R245, Table 11.4). -/
def State.lineLocked (s : State) (g : McGroup) (m : McMember) (off : Nat) (cells : List (Nat × Byte)) : Bool :=
  match s.jobCtx g.job with
  | none => false
  | some (ci, _) =>
    cells.any fun c => (s.lockHit false ci ((m.base + off / 256 * 256 + c.1) % 2 ^ 64) 1 true).isSome

/-- A line of another package for this package's member: accepted as any request is (R402). -/
def State.lineFrom (s : State) (job : Option Nat) (group off : Nat) (cells : List (Nat × Byte)) : PeerAnswer × State :=
  match job.bind fun j => s.groupOf j group with
  | none => (.value 1, s)
  | some g =>
    match g.members.find? fun m => s.isSelf m.pkg with
    | none => (.value 1, s)
    | some m =>
      if m.bound && decide (off / 256 < g.lines) && !s.acceptsBytes job (m.at_ (off / 256 * 256)) 256 then (.refused, s)
      else
        let (r, s) := s.lineHere g m off cells
        (if r = 0xFF then .done else .value (u64 r), s)

/-- A status of `mgrp` (R410). -/
def groupStatus (code index : Nat) : W64 := u64 (code * 2 ^ 60 + index)

/-- Bytes a group's entry takes in the anchor area (R400). -/
def groupRoom (members : Nat) : Nat := 256 + 32 * members

/-- A group defined in the switch role: the status and the state after (R410). -/
def State.groupDef (s : State) (job group lines : Nat) (members : List Nat) : Nat × State :=
  if (s.groupOf job group).isSome then (1, s)
  else if members.isEmpty || decide (1024 < members.length) || !members.Nodup || !members.all fun p => s.boundTo job p
    then (5, s)
  else
    let used := s.fab.room.get job + groupRoom members.length
    let size := ((s.jobCtx job).map fun c => c.2.job.ancsz).getD 0
    let full := s.fab.mode && (if s.isAnchor job then decide (size < used) else Config.anchorFull s.cycle job)
    if full then (6, s)
    else
      let ms : List McMember :=
        members.map fun p => { pkg := p, bound := false, revoked := false, window := [], first := 0, ack := 0 }
      (0, s.modFab fun f => { f with
        groups := f.groups ++ [{ job, id := group, lines, members := ms }]
        room := if f.mode then f.room.put job used else f.room })

/-- Whether a line of a group is unacknowledged: of this package, or of another member (log entry 46). -/
def State.lineOut (s : State) (g : McGroup) : Bool :=
  (s.fab.lines.any fun e => e.2.any fun l => l.job == g.job && l.group == g.id) ||
  ((g.members.any fun m => !s.isSelf m.pkg && (m.bound || m.revoked)) && Config.peerLine s.cycle g.job g.id)

/-- A group freed (R410): busy while a line of it is unacknowledged. Its collectives cease with it, and what has joined one
completes no more. -/
def State.groupFree (s : State) (job group : Nat) : Nat × State :=
  match s.groupOf job group with
  | none => (2, s)
  | some g =>
    if s.lineOut g then (4, s)
    else (0, s.modFab fun f => { f with
      groups := f.groups.filter fun x => !(x.job == job && x.id == group)
      colls := f.colls.filter fun x => !(x.job == job && x.group == group)
      reds := f.reds.map fun r => if r.job = job && r.group = group && r.st = 2 then { r with st := 4 } else r
      room := if f.mode then f.room.put job (f.room.get job - groupRoom g.members.length) else f.room })

/-- A member revoked (R408): one that was never bound stays Unbound (log entry 47). -/
def McMember.revoke (m : McMember) : McMember := if m.bound || m.revoked then { m with bound := false, revoked := true } else m

/-- A member bound or revoked: status, index (R408, R410). -/
def State.groupSet (s : State) (job group pkg : Nat) (f : McMember → McMember) : Nat × Nat × State :=
  match s.groupOf job group with
  | none => (2, 0, s)
  | some g =>
    match g.rank pkg with
    | none => (3, 0, s)
    | some i =>
      (0, i, s.modGroup job group fun g => { g with members := g.members.map fun m => if m.pkg = pkg then f m else m })

/-- The ingress atomic cache takes the line of an atomic, or keeps it, for 2 µs (R249). -/
def State.takeLease (s : State) (pa : Nat) : State :=
  let line := pa / 256
  { s with leases := (s.leases.filter fun l => l.1 ≠ line) ++ [(line, s.cycle + 4800)] }

/-- What an accepted request reads or writes here (R249, R402). -/
def State.perform (s : State) (r : PeerReq) : PeerAnswer × State :=
  match r.op with
  | .load n =>
    match s.readAt (.dev r.pa) n with
    | .ok v => (.value (u64 v), s)
    | .error _ => (.bad r.pa, s)
  | .store cells => (.done, s.writeDev cells)
  | .atomic op t x y =>
    match s.readAt (.dev r.pa) t.bytes with
    | .ok m =>
      let s := s.writeDev (cellsOf r.pa t.bytes (atomNew op t m x.toNat y.toNat))
      (.value (u64 m), s.takeLease r.pa)
    | .error _ => (.bad r.pa, s)
  | .sems n =>
    match s.postAt (.dev r.pa) n.toNat with
    | .ok s => (.done, s.takeLease r.pa)
    | .error _ => (.bad r.pa, s)
  | .deque op => s.dequeAt r.pa r.sender op
  | _ => (.refused, s)

/-- A response leaves. -/
def State.respond (s : State) (r : PeerReq) (a : PeerAnswer) : State :=
  s.send r.sender (.resp { sender := s.fab.pkg, id := r.id, answer := a })

/-- A request is processed (R402): refused, or performed and answered; a `semw` waits in its word's queue (R196); one of
another kind has an error response and nothing observes it (R392). -/
def State.serveReq (s : State) (r : PeerReq) : State :=
  let job := r.job.getD 0
  match r.op with
  | .mcast group off cells =>
    let (a, s) := s.lineFrom r.job group off cells
    s.respond r a
  | .groupDef group lines members =>
    let (c, s) := s.groupDef job group lines members
    s.respond r (.value (groupStatus c 0))
  | .groupBind group on =>
    let (c, i, s) := s.groupSet job group r.sender fun m => if on then { m with bound := true, revoked := false } else m.revoke
    s.respond r (.value (groupStatus c (if on then i else 0)))
  | .groupFree group =>
    let (c, s) := s.groupFree job group
    s.respond r (.value (groupStatus c 0))
  | .foreign _ => s.respond r .error
  | .semw n =>
    if s.accepts r && n = 0 then
      let (a, s) := s.perform { r with op := .sems 0 }
      s.respond r a
    else if s.accepts r then
      let x : Waiter := { wave := 0, peer := some (r.sender, r.id), value := n, push := false, stamp := s.epoch }
      ({ s with sems := s.sems.modify r.pa fun q => q ++ [x] }).serveSem r.pa 1
    else s.respond r .refused
  | _ =>
    if s.accepts r then
      let (a, s) := s.perform r
      s.respond r a
    else s.respond r .refused

/-- The request of this package with a number, as long as it is unanswered. -/
def State.requestOf (s : State) (id : Nat) : Option (Nat × Nat × PeerReq) :=
  s.fab.outbox.findSome? fun m =>
    match m.body with
    | .req r => if r.id = id then some (m.dest, m.tick, r) else none
    | _ => none

/-- A wave's remote accesses once a request is answered: a drained entry is over, its loss owed (R248, R402). -/
def Wave.answered (w : Wave) (id pkg line : Nat) (a : PeerAnswer) : Wave :=
  if w.remote.all fun r => r.id ≠ id then w
  else
    let drain := w.remote.any fun r => r.id == id && r.owner == id
    let loss : List Loss := match a with
      | .refused => [{ peer := pkg, line := u64 line, refused := true }]
      | .lost => [{ peer := pkg, line := u64 line, refused := false }]
      | _ => []
    { w with
      losses := w.losses ++ (if drain then loss else [])
      remote := (w.remote.filter fun r => !(r.id == id && r.owner == id)).map fun r =>
        if r.id = id then { r with answer := some a } else r }

/-- A graph once a request of one of its SIGNAL nodes is answered. -/
def Graph.answered (g : Graph) (id : Nat) (good : Bool) : Graph :=
  { g with
    asked := g.asked.map fun a => if a.2.1 = id then (a.1, id, some good) else a
    copies := g.copies.filter fun c => !g.asked.any fun a => a.1 == c.1 && a.2.1 == id }

/-- The response of a member to a line: positive, or its reason (R411, Table 11.4). -/
def lineReason : PeerAnswer → Nat
  | .value v => v.toNat
  | .lost => 3
  | .refused | .error => 1
  | .bad _ => 5
  | .done => 0xFF

/-- A package to which no route is left, with the time of the loss (R415). -/
def State.noteLost (s : State) (p : Nat) : State :=
  if s.isSelf p || s.fab.lost.any (fun l => l.1 == p) then s
  else s.modFab fun f => { f with lost := f.lost ++ [(p, f.tick, s.cycle)] }

/-- A response is processed at this package. -/
def State.takeResp (s : State) (r : PeerResp) : State :=
  match s.requestOf r.id with
  | none => s
  | some (pkg, _, q) =>
    let s := if r.answer = .lost && s.ported then s.noteLost pkg else s
    let s := s.modFab fun f => { f with
      outbox := f.outbox.filter fun m => match m.body with
        | .req x => x.id ≠ r.id
        | _ => true
      lines := f.lines.mapVals fun _ l => l.map fun l =>
        match l.remote.find? fun e => e.2 == r.id with
        | some (i, _) => { l with answers := l.answers.map fun e => if e.1 = i then (i, some (lineReason r.answer)) else e }
        | none => l }
    let good := match r.answer with
      | .value _ | .done => true
      | _ => false
    let s := s.queues.foldl (fun s e =>
      match e.2.signal with
      | some x =>
        if x.id ≠ r.id then s
        else
          let s := s.modQueue e.1 fun y => { y with signal := none }
          if good then s.completePacket (e.1 / 16) (e.1 % 16) x.n x.cmpl 0 0 (rep 0 0 0)
          else
            (s.completePacket (e.1 / 16) (e.1 % 16) x.n x.cmpl 5 0 (rep 0 (u64 x.addr) 0)).queueError e.1 4
      | none => s) s
    let mine (w : Wave) : Wave := w.answered r.id pkg (q.pa / 256 * 256) r.answer
    { s with
      waves := s.waves.mapVals fun _ w => mine w
      graphs := s.graphs.mapVals fun _ g => g.answered r.id good
      ctxs := s.ctxs.mapVals fun _ c =>
        { c with
          posts := c.posts.filter fun p => p.1 ≠ r.id
          mirOut := if r.answer = .done then c.mirOut.filter (· ≠ r.id) else c.mirOut
          save := c.save.map fun x => { x with waves := x.waves.map fun e => (e.1, mine e.2) } } }

/-! ### Fabric barriers (R312–R314) -/

def State.fbar? (s : State) (job id : Nat) : Option FBar := s.fab.fbars.find? fun b => b.job == job && b.id == id
def State.modFbar (s : State) (job id : Nat) (f : FBar → FBar) : State :=
  s.modFab fun x => { x with fbars := x.fbars.map fun b => if b.job = job && b.id = id then f b else b }

/-- A time in core cycles: tick count × L + sub-tick. -/
def timeCycles (ticklen : Nat) (t : W64) : Nat := t.toNat / 2 ^ 16 * tickCycles ticklen + t.toNat % 2 ^ 16

/-- The time of member m's arrival of generation g, while it is held. -/
def FBar.timeAt (b : FBar) (m g : Nat) : Option (Nat × W64) :=
  let ts := (b.times[m]?).getD []
  let first := b.counts.get m - ts.length
  if g < first then none else ts[g - first]?

/-- The release time of generation g, while it is held. -/
def FBar.releaseAt (b : FBar) (g : Nat) : Option Nat :=
  let first := b.gen - b.releases.length
  if g < first then none else b.releases[g - first]?

/-- An arrival at the switch; a generation with every member is released now. -/
def FBar.arrive (b : FBar) (m cyc : Nat) (t : W64) (now : Nat) : FBar :=
  let b := { b with
    counts := b.counts.put m (b.counts.get m + 1)
    times := b.times.zipIdx.map fun e => if e.2 = m then e.1 ++ [(cyc, t)] else e.1 }
  if (List.range b.members.length).all fun i => decide (b.gen < b.counts.get i) then
    { b with gen := b.gen + 1, releases := b.releases ++ [now] }
  else b

/-- The lags of the release of generation g and who is stealable after it (R314). -/
def FBar.judge (b : FBar) (g : Nat) : FBar :=
  if g = 0 then b
  else
    let ms := List.range b.members.length
    let t (m : Nat) : Nat := ((b.timeAt m g).map Prod.fst).getD 0
    let I := ((b.releaseAt g).getD 0 : Int) - ((b.releaseAt (g - 1)).getD 0 : Int)
    let first := (ms.map t).foldl min (t 0)
    let lags := ms.map fun m =>
      let old := (b.lags[m]?).getD []
      let new := old ++ [decide (b.frac * I < ((t m - first) * 1000 : Nat))]
      new.drop (new.length - 16)
    { b with lags := lags, stealable := lags.map fun l => decide (b.need ≤ (l.filter fun x => x).length) }

/-- What a delivered generation no longer needs goes: 16 times of each member, 17 release times are kept. -/
def FBar.trim (b : FBar) (g : Nat) : FBar :=
  { b with
    times := b.times.zipIdx.map fun e => e.1.drop (g - 15 - (b.counts.get e.2 - e.1.length))
    releases := b.releases.drop (g - 16 - (b.gen - b.releases.length)) }

/-- The cone copy of generation g: member m, generation g − 15 + k, at 128 m + 8 k (R401). -/
def FBar.coneBytes (b : FBar) (g : Nat) : List Byte :=
  (List.range b.members.length).flatMap fun m => (List.range 16).flatMap fun k =>
    bytesLE 8 (if g + k < 15 then 0 else ((b.timeAt m (g + k - 15)).map fun t => t.2.toNat).getD 0)

/-- The device addresses of pieces, byte by byte. -/
def pieceBytes (ps : List (Nat × Nat)) : List Nat := ps.flatMap fun p => (List.range p.2).map fun i => p.1 + i

/-- A release is delivered at this package: its stores first (R314, R401). -/
def State.deliverRelease (s : State) (job id : Nat) : State :=
  match s.fbar? job id with
  | none => s
  | some b =>
    if b.gen ≤ b.delivered then s
    else
      let g := b.delivered
      let b' := b.judge g
      let me := b.members.findIdx fun p => s.isSelf p
      let was := (b.stealable[me]?).getD false
      let is := (b'.stealable[me]?).getD false
      let s := match b.deque with
        | some pa =>
          if was = is then s
          else
            let old := (s.mem.get (pa + 0x0C)).toNat
            s.writeDev (cellsOf (pa + 0x0C) 1 (old / 2 * 2 + (if is then 1 else 0)))
        | none => s
      let s := if b.cone.isEmpty then s else s.writeDev ((pieceBytes b.cone).zip (b.coneBytes g))
      s.modFbar job id fun _ => { b'.trim g with delivered := g + 1 }

/-- The core cycle count of the exchange tick. -/
def State.fabTime (s : State) : Nat := s.fab.tick * tickCycles s.fab.ticklen + s.fab.sub

/-- An arrival is processed at the switch; at level 2 a release is a message of the next boundary. -/
def State.fbarArrived (s : State) (job id m : Nat) (t : W64) : State :=
  match s.fbar? job id with
  | none => s
  | some b =>
    let s' := s.modFbar job id fun b => b.arrive m (timeCycles s.fab.ticklen t) t s.fabTime
    let gen := ((s'.fbar? job id).map fun b => b.gen).getD 0
    if s.tickwise job && decide (b.gen < gen) then s'.holdSwitch (.release job id b.gen) else s'

/-! ### Multicast lines (R270, R411) -/

def State.lineOf (s : State) (id : Nat) : Option McLine := s.fab.lines.get id
def State.setLine (s : State) (id : Nat) (l : Option McLine) : State := s.modFab fun f => { f with lines := f.lines.put id l }

/-- Whether every member has answered, and no earlier line of the group is out (R411). -/
def State.lineDone (s : State) (id : Nat) (l : McLine) : Bool :=
  l.sent && l.answers.all (fun a => a.2.isSome) &&
  !s.fab.lines.any fun e => decide (e.1 < id) && match e.2 with
    | some x => x.job == l.job && x.group == l.group
    | none => false

/-- The summary of Table 11.4. -/
def McLine.summary (l : McLine) : W64 :=
  let neg := l.answers.filter fun a => a.2 ≠ some 0xFF
  let reason := ((neg.head?).bind fun a => a.2).getD 0
  let first := ((neg.head?).map fun a => a.1).getD 0xFFFF
  u64 (reason * 2 ^ 48 + (l.answers.length - neg.length) * 2 ^ 32 + first * 2 ^ 16 + neg.length)

/-- The bitmap of negative responses. -/
def McLine.bitmap (l : McLine) : Nat :=
  l.answers.foldl (fun b a => if a.2 = some 0xFF then b else b + 2 ^ a.1) 0

/-- The response of the member at an index to a line, noted. -/
def State.noteReply (s : State) (id i reason : Nat) : State :=
  match s.lineOf id with
  | none => s
  | some l => s.setLine id (some { l with answers := l.answers.map fun e => if e.1 = i then (i, some reason) else e })

/-- What the switch finds of a member of a group for a line: a response of its own or of this package's member, or none where
the line goes out to the member. -/
def State.lineAt (s : State) (g : McGroup) (m : McMember) (off : Nat) (cells : List (Nat × Byte)) : Option Nat × State :=
  if s.isSelf m.pkg then
    if m.bound && decide (off / 256 < g.lines) && s.lineLocked g m off cells then (some 4, s)
    else
      let (r, s) := s.lineHere g m off cells
      (some r, s)
  else if !m.bound then (some 1, s)
  else if g.lines ≤ off / 256 then (some 0, s)
  else if !s.routed m.pkg then (some 3, s)
  else (none, s)

/-- The switch replicates a line: what each member answers at once, and a message to each other member. At level 2 every
response is a message of that member's (R405). -/
def State.replicate (s : State) (id : Nat) : State :=
  match s.lineOf id with
  | none => s
  | some l =>
    match s.groupOf l.job l.group with
    | none => s
    | some g =>
      let at2 := s.tickwise l.job
      let tick := if at2 then s.fab.bound - 1 else s.fab.tick
      let one (acc : List (Nat × Option Nat) × List (Nat × Nat) × State) (e : McMember × Nat) :
          List (Nat × Option Nat) × List (Nat × Nat) × State :=
        let (as, rs, s) := acc
        let (m, i) := e
        let (a, s) := s.lineAt g m l.off l.cells
        match a with
        | some r => if at2 then (as ++ [(i, none)], rs, s.holdNow m.pkg (.mcastReply id i r)) else (as ++ [(i, some r)], rs, s)
        | none =>
          let (rid, s) := s.fresh
          let body : MsgBody :=
            .req { sender := s.fab.pkg, job := some l.job, id := rid, pa := 0, op := .mcast l.group l.off l.cells }
          let s := s.modFab fun f => { f with outbox := f.outbox ++ [{ dest := m.pkg, tick, body }] }
          (as ++ [(i, none)], rs ++ [(i, rid)], s)
      let (as, rs, s) := g.members.zipIdx.foldl one ([], [], s)
      s.setLine id (some { l with sent := true, answers := as, remote := rs })

/-- The acknowledgement arrives: the bitmap in the issuer's area, of which the issuer's core keeps no older copy, then the
summary in the pair (R270). -/
def State.deliverAck (s : State) (id : Nat) : State :=
  match s.lineOf id with
  | none => s
  | some l =>
    let me := (s.groupOf l.job l.group).bind fun g => g.members.find? fun m => s.isSelf m.pkg
    let s := match me with
      | some m => (s.writeDev (cellsOf m.ack 128 l.bitmap)).l1Drop (coreOf l.wave) m.ack
      | none => s
    let s := s.modWave l.wave fun w => (lanesOf l.lanes).foldl (fun w i => w.setV64 l.dest i l.summary) w
    s.setLine id none

/-- Lines at level 2 whose answers are complete send their acknowledgement for the next boundary. -/
def State.ackLines (s : State) : State :=
  s.fab.lines.foldl (fun s e =>
    match e.2 with
    | some l =>
      let out := s.fab.held.any fun h => h.msg == .mcastAck e.1
      if s.tickwise l.job && s.lineDone e.1 l && !out then s.holdSwitch (.mcastAck e.1) else s
    | none => s) s

/-! ### Collectives (R412, R413) -/

/-- The element operation of a collective, its identity (R44), and the value of one element over the ranks. -/
def redAtom : AllredOp → AtomOp
  | .add => .add
  | .min => .min
  | .max => .max
def redIdent (op : AllredOp) (t : ElemType) : Nat :=
  match op with
  | .add => if t = .f32 then fmtF32.sign else 0
  | .min => if t = .f32 then fmtF32.inf.getD 0 else wrapNat t.width (maxOf t)
  | .max => if t = .f32 then fmtF32.sign + fmtF32.inf.getD 0 else wrapNat t.width (minOf t)

/-- Levels of the tree over P ranks: the least n with P ≤ 2^n. -/
def treeLevels (P : Nat) : Nat := if P ≤ 1 then 0 else Nat.log2 (P - 1) + 1

def combineElement (op : AllredOp) (t : ElemType) (y : List Nat) : Nat :=
  let n := treeLevels y.length
  let padded := y ++ List.replicate (2 ^ n - y.length) (redIdent op t)
  let r := ((treeRed (fun a b => atomNew (redAtom op) t a b 0) n padded).head?).getD 0
  if t = .f32 then fmtF32.encode rne false (fmtF32.decode r) else r

/-- The result of a collective whose members have all contributed. -/
def Coll.compute (c : Coll) : Coll :=
  if c.parts.length < c.size then c
  else
    let src (i : Nat) : List W64 := ((c.parts.find? fun p => p.1 == i).map Prod.snd).getD []
    let srcs := (List.range c.size).map src
    { c with result := some ((List.range c.count).map fun e =>
        u64 (combineElement c.op c.t (srcs.map fun x => ((x[e]?).getD 0).toNat))) }

def Coll.names (c : Coll) (job group k : Nat) : Bool := c.job == job && c.group == group && c.k == k

def State.modRed (s : State) (uid : Nat) (f : OwnRed → OwnRed) : State :=
  s.modFab fun x => { x with reds := x.reds.map fun r => if r.uid = uid then f r else r }

/-- This package's contribution on its way to the switch that stands first in a group. -/
def State.ownRed (s : State) (job group st : Nat) : Option OwnRed :=
  s.fab.reds.find? fun r => r.job == job && r.group == group && r.st == st

/-- A contribution is processed at the switch: it joins the member's next collective, or is turned away. -/
def State.contribute (s : State) (c : Contribution) : State :=
  match s.groupOf c.job c.group with
  | none => s
  | some g =>
    let own := match g.members[c.member]? with
      | some m => s.isSelf m.pkg
      | none => false
    let red := if own then s.ownRed c.job c.group 0 else none
    let note (s : State) (st k : Nat) : State :=
      match red with
      | some r => s.modRed r.uid fun r => { r with st := st, k := k }
      | none => s
    let next := s.fab.colls.find? fun x =>
      x.job == c.job && x.group == c.group && !x.parts.any fun p => p.1 == c.member
    let finish (s : State) (k : Nat) : State :=
      let whole := s.fab.colls.any fun x => x.names c.job c.group k && x.result.isSome
      if s.tickwise c.job && whole then s.holdSwitch (.result c.job c.group k) else s
    match next with
    | some x =>
      if x.op = c.op && x.t = c.t && x.count = c.elems.length then
        let s := note s 2 x.k
        let join (y : Coll) : Coll :=
          if y.names x.job x.group x.k then { y with parts := y.parts ++ [(c.member, c.elems)] }.compute else y
        let s := s.modFab fun f => { f with colls := f.colls.map join }
        finish s x.k
      else note s 1 0
    | none =>
      let s := note s 2 g.next
      let x : Coll :=
        { job := c.job
          group := c.group
          k := g.next
          op := c.op
          t := c.t
          count := c.elems.length
          size := g.members.length
          parts := [(c.member, c.elems)]
          result := none }
      let s := (s.modFab fun f => { f with colls := f.colls ++ [x.compute] }).modGroup c.job c.group
        fun g => { g with next := g.next + 1 }
      finish s x.k

/-- A result reaches this package and is written (R413). -/
def State.deliverResult (s : State) (job group k : Nat) : State :=
  match s.fab.colls.find? fun x => x.names job group k, s.fab.reds.find? fun r =>
      r.job == job && r.group == group && r.k == k && r.st == 2 with
  | some c, some r =>
    match c.result with
    | none => s
    | some ys =>
      let bytes := ys.flatMap fun y => bytesLE c.t.bytes y.toNat
      let s := s.writeDev ((pieceBytes r.dst).zip bytes)
      (s.modRed r.uid fun r => { r with st := 3 }).modFab fun f =>
        { f with colls := f.colls.filter fun x => !x.names job group k }
  | _, _ => s

/-! ### Processing (R405) -/

/-- What a message does where it is processed. -/
def State.process (s : State) (m : FabMsg) : State :=
  match m with
  | .peerReq r => s.serveReq r
  | .peerResp r => s.takeResp r
  | .fbarArrive job id m t => s.fbarArrived job id m t
  | .contribution c => s.contribute c
  | .replica id => s.replicate id
  | .mcastReply id i r => s.noteReply id i r
  | .release job id _ => s.deliverRelease job id
  | .result job group k => s.deliverResult job group k
  | .mcastAck id => s.deliverAck id

/-- A message of this package to the switch, as the switch receives it, and its job. -/
def MsgBody.toSwitch? (s : State) (m : Msg) : Option (Nat × FabMsg) :=
  match m.body with
  | .fbarArrive j i x t => t.map fun t => (j, .fbarArrive j i x t)
  | .allred c => some (c.job, .contribution c)
  | .mcast id => ((s.lineOf id).map fun l => l.job).map fun j => (j, .replica id)
  | _ => none

/-- Fabric barrier arrivals leave with their time, once a port carries flits (R313). -/
def State.leaveArrivals (s : State) : State :=
  let stays (m : Msg) : Bool := match m.body with
    | .fbarArrive _ _ _ none => true
    | _ => false
  if !s.ported || !s.fab.outbox.any stays then s
  else s.modFab fun f => { f with outbox := f.outbox.map fun m =>
    match m.body with
    | .fbarArrive j i k none => { m with tick := f.tick, body := .fbarArrive j i k (some s.tickValue) }
    | _ => m }

/-- The messages of one boundary in the order of R405: ascending sender, then as created; this package's own among
them. -/
def State.boundaryMsgs (s : State) : List FabMsg :=
  let due := s.fab.held.filter fun h => decide (h.tick ≤ s.fab.bound)
  let own := s.fab.outbox.filterMap fun m =>
    if m.tick ≤ s.fab.bound then
      match MsgBody.toSwitch? s m with
      | some (j, x) => if s.tickwise j && s.ported then some x else none
      | none => none
    else none
  let ps := (sortNat (s.fab.pkg :: due.map (·.sender))).eraseDups
  ps.flatMap fun p => (if p = s.fab.pkg then own else []) ++ (due.filter fun h => h.sender == p).map HeldMsg.msg

end Sys2Proof.Machine
end

