-- ==== Sys2Proof/Machine/Link.lean ====
section
/-!
DEFINITION. Multicast stores, group definitions and all-reduce (R269–R271, R407–R414), and the fabric messages that
reach the package and its switch role (R402–R406).
-/
namespace Sys2Proof.Machine

/-! ### mcast.st (R269–R271) -/

/-- PAGE_FAULT of a multicast store. -/
def mcastFault {α : Type} (va lane reason : Nat) : Eff α := trapEff (pfReport va false lane reason .mcast)

/-- The group of an id in a context's group table: this package's member is Bound or Revoked (R407). -/
def State.groupFor (s : State) (c : Ctx) (id : Nat) : Option McGroup :=
  if c.jobst ≠ 2 then none
  else (s.groupOf c.job.num id).bind fun g =>
    if g.members.any fun m => s.isSelf m.pkg && (m.bound || m.revoked) then some g else none

/-- The checks of the lanes, at the lowest lane that fails (R256, R269). -/
def checkLine (n : Nat) (known : Bool) (group line : Nat) : List (Nat × Nat) → Eff Unit
  | [] => pure ()
  | (l, a) :: r =>
    if a % n ≠ 0 then mcastFault a l 3
    else if a / 256 ≠ line then mcastFault a l 5
    else if !known then mcastFault group l 6
    else checkLine n known group line r

def execMcastSt (f : Form) (s : State) : Result State :=
  runVec (.mcastSt f) f (fun A s => if A = 0 then pure s else do
    let w := s.me
    let t := f.type
    s.checkRegs (dstRegs t f.d.toNat ++ addrRegs f false ++ [f.b.toNat, f.b.toNat + 1] ++ [f.c.toNat])
    let id ← s.uniform A (.reg f.c.toNat)
    let els := w.vecEls f false false A
    match els with
    | [] => pure s
    | (_, a0) :: _ =>
      let c := s.ctxOf w
      checkLine t.bytes (s.groupFor c id).isSome id (a0 / 256) els
      if !s.ported then trapEff (rep linkLost (u64 switchDest) 0)
      else
        if f.order == .rel then
          s.release s.cur
          s.settleBuffer s.cur
        else s.flushBuffer s.cur
        let cells := els.flatMap fun e => cellsOf (e.2 % 256) t.bytes (w.vsrc t e.1 (.reg f.d.toNat))
        let (n, s) := s.fresh
        let l : McLine :=
          { wave := s.cur
            site := w.vecSite
            ctx := w.id.ctx
            job := c.job.num
            group := id
            off := a0
            cells := cells
            tick := s.fab.tick
            sent := false
            answers := []
            remote := []
            dest := f.b.toNat
            lanes := A
            stamp := s.epoch
            pos := w.vec.block
            taken := w.taken }
        pure ((s.setLine n (some l)).send switchDest (.mcast n))) s

/-! ### mgrp (R409, R410) -/

/-- A status of `mgrp` written. -/
def State.putStatus (s : State) (c : OpCtx) (code index : Nat) : State := s.putS c.wi c.f.d.toNat (groupStatus code index)

/-- What the group actions share: the descriptor's reserved bits, then NOJOB. -/
def groupOp (reserved : W64 → Bool) (pre : OpCtx → State → Eff (List Nat))
    (act : OpCtx → Ctx → Nat → List Nat → State → Eff State) : LongOp where
  locks := noLocks
  finish := fun c s => do
    if reserved c.caps.c then trapEff (allotValue c.caps.c)
    else
      let l ← pre c s
      let x := s.ctxOf (s.waves.get c.wi)
      if x.jobst ≠ 2 then pure (s.putStatus c 7 0) else act c x (c.caps.c.toNat % 4096) l s

/-- Bits above the group id that are not 0. -/
def beyondId (x : W64) : Bool := x.toNat / 4096 != 0

/-- Memory that a member gives a group and may not use so is one it may not reach: PAGE_FAULT 4 for reason 1 (R409; log
entry 80). -/
def asPlace {α : Type} (e : Eff α) : Eff α :=
  match e with
  | .error (.trap r) =>
    if r.code = pageFault && nbits r.i1.toNat 7 4 = 1 then trapEff { r with i1 := r.i1 + 0x30 } else .error (.trap r)
  | e => e

/-- The member list of `mgrp.def`: none where its count is out of range. -/
def State.memberList (s : State) (c : OpCtx) : Eff (List Nat) := do
  let x := s.ctxOf (s.waves.get c.wi)
  let need : Need := { needLoad with peer := false, host := false }
  let a := c.caps.a.toNat
  let n ← s.readSpan x need 0 a 4
  let count := ofBytesLE n
  if count = 0 || decide (1024 < count) then pure []
  else do
    let bs ← s.readSpan x need 0 (a + 4) (2 * count)
    pure ((List.range count).map fun i => fieldOf bs (2 * i) 2)

/-- `mgrp.def` (R409): 39:16 of the descriptor give the lines less one. -/
def opMgrpDef : LongOp :=
  groupOp (fun x => nbits x.toNat 15 12 ≠ 0 || nbits x.toNat 63 40 ≠ 0) (fun c s => asPlace (s.memberList c))
    (fun c x id l s =>
      let (code, s) := s.groupDef x.job.num id (nbits c.caps.c.toNat 39 16 + 1) l
      pure (s.putStatus c code 0))

/-- A page of device memory the context maps writable, translated now (R401, R409). -/
def State.frameOf (s : State) (x : Ctx) (va : Nat) : Eff Nat := do
  let t ← s.checkGlobal x { needStore with peer := false, host := false } 0 va 1
  match t with
  | .dev pa => pure pa
  | _ => pure 0

/-- Canonical and aligned, in the order of R328. -/
def checkPlace (va n : Nat) (k : AKind) : Eff Unit :=
  if !canonical va then trapEff (pfReport va false 0 2 k)
  else if va % n ≠ 0 then trapEff (pfReport va false 0 3 k)
  else pure ()

/-- `mgrp.bind`: the window's pages and the acknowledgement area are translated now. -/
def opMgrpBind : LongOp :=
  groupOp beyondId (fun _ _ => pure []) (fun c x id _ s => do
    let me := s.fab.pkg
    match s.groupOf x.job.num id with
    | none => pure (s.putStatus c 2 0)
    | some g =>
      if !(s.fab.set && (g.rank me).isSome) then pure (s.putStatus c 3 0)
      else
        let base := c.caps.a.toNat
        let ack := c.caps.b.toNat
        checkPlace base 256 .store
        checkPlace ack 128 .store
        let pages ← (pieces base (256 * g.lines)).mapM fun p => do
          let pa ← asPlace (s.frameOf x p.1)
          pure (pa / 4096 * 4096)
        let area ← asPlace (s.frameOf x ack)
        let (code, i, s) := s.groupSet x.job.num id me fun m =>
          { m with bound := true, revoked := false, window := pages, first := base % 4096, ack := area, base := base }
        pure (s.putStatus c code i))

/-- `mgrp.revoke`. -/
def opMgrpRevoke : LongOp :=
  groupOp beyondId (fun _ _ => pure []) (fun c x id _ s =>
    let me := if s.fab.set then s.fab.pkg else 0xFFFFF
    let (code, _, s) := s.groupSet x.job.num id me McMember.revoke
    pure (s.putStatus c code 0))

/-- `mgrp.free`. -/
def opMgrpFree : LongOp :=
  groupOp beyondId (fun _ _ => pure []) (fun c x id _ s =>
    let (code, s) := s.groupFree x.job.num id
    pure (s.putStatus c code 0))

def execMgrpDef (f : Form) (s : State) : Result State := runLong (.mgrpDef f) f opMgrpDef s
def execMgrpBind (f : Form) (s : State) : Result State := runLong (.mgrpBind f) f opMgrpBind s
def execMgrpRevoke (f : Form) (s : State) : Result State := runLong (.mgrpRevoke f) f opMgrpRevoke s
def execMgrpFree (f : Form) (s : State) : Result State := runLong (.mgrpFree f) f opMgrpFree s

/-! ### allred (R412–R414) -/

/-- The fields of an `allred`'s descriptor: group, count. -/
def redGroup (c : OpCtx) : Nat := c.caps.c.toNat % 4096
def redCount (c : OpCtx) : Nat := nbits c.caps.c.toNat 43 16
def redBytes (c : OpCtx) : Nat := redCount c * c.f.type.bytes
def redKind (f : Form) : AllredOp :=
  match f.optBits 1 0 with
  | 0 => .add
  | 1 => .min
  | _ => .max

/-- ILLEGAL_LAYOUT of a collective. -/
def redLayout {α : Type} (c : OpCtx) : Eff α := trapEff (rep illegalLayout 12 c.caps.c)

/-- Whether the descriptor and the ranges are good. -/
def State.redOk (s : State) (c : OpCtx) : Bool :=
  let x := s.ctxOf (s.waves.get c.wi)
  let d := c.caps.c.toNat
  let (a, b, n) := (c.caps.a.toNat, c.caps.b.toNat, redBytes c)
  nbits d 15 12 = 0 && nbits d 63 44 = 0 && redCount c ≠ 0 && (s.groupFor x (redGroup c)).isSome &&
  (a = b || decide (a + n ≤ b) || decide (b + n ≤ a))

/-- What an `allred` needs of its source. -/
def needRed : Need := { needLoad with peer := false, host := false }

/-- The page checks of both ranges, and the pieces of the destination. -/
def State.redPieces (s : State) (c : OpCtx) : Eff (List (Nat × Nat)) := do
  let x := s.ctxOf (s.waves.get c.wi)
  let (a, b, n, w) := (c.caps.a.toNat, c.caps.b.toNat, redBytes c, c.f.type.bytes)
  checkPlace a w .load
  s.checkSpan x needRed 0 a n
  checkPlace b w .store
  (pieces b n).mapM fun p => do
    let pa ← s.frameOf x p.1
    pure (pa, p.2)

/-- The pieces as an operation keeps them. -/
def redDesc (ps : List (Nat × Nat)) : List Byte := ps.flatMap fun p => bytesLE 8 p.1 ++ bytesLE 8 p.2
def descPieces (b : List Byte) : List (Nat × Nat) :=
  (List.range (b.length / 16)).map fun i => (fieldOf b (16 * i) 8, fieldOf b (16 * i + 8) 8)

/-- The elements of the source. -/
def State.redSource (s : State) (c : OpCtx) : Eff (List W64) := do
  let w := c.f.type.bytes
  let bs ← s.readSpan (s.ctxOf (s.waves.get c.wi)) needRed 0 c.caps.a.toNat (redBytes c)
  pure ((List.range (redCount c)).map fun e => u64 (fieldOf bs (w * e) w))

/-- An `allred` of the same context and group that issued earlier and has not contributed. -/
def State.redAhead (s : State) (c : OpCtx) : Bool :=
  let x := (s.waves.get c.wi).id.ctx
  s.waves.any fun e => e.2.id.ctx == x && e.2.ctl.ops.any fun o =>
    match o.instr with
    | .allred _ => decide (o.uid < c.uid) && decide (o.caps.c.toNat % 4096 = redGroup c) &&
        !s.fab.reds.any fun r => r.uid == o.uid
    | _ => false

/-- A contribution of this package to a group's collective, among its messages. -/
def Msg.contributes (m : Msg) (r : OwnRed) : Bool :=
  match m.body with
  | .allred x => x.job == r.job && x.group == r.group
  | _ => false

/-- This package has nothing more to do with a collective: a contribution not yet with the switch never reaches it. -/
def State.endRed (s : State) (r : OwnRed) (drop : Bool) : State :=
  s.modFab fun f => { f with
    reds := f.reds.filter fun x => x.uid ≠ r.uid
    outbox := if r.st = 0 then f.outbox.eraseP fun m => m.contributes r else f.outbox
    colls := if drop then f.colls.filter fun x => !x.names r.job r.group r.k else f.colls }

/-- The lowest package of a group that cannot be reached. -/
def State.lostMember (s : State) (g : McGroup) : Option Nat :=
  ((g.members.map McMember.pkg).filter fun p => !s.isSelf p && !s.routed p).foldl (fun a p =>
    match a with
    | some q => some (min p q)
    | none => some p) none

/-- The checks and the release at issue; the contribution, once; then the wait for the result. -/
def opAllred : LongOp where
  start := fun c s => do
    if !s.redOk c then redLayout c
    else
      let ps ← s.redPieces c
      s.settleBuffer c.wi
      pure ({ c with desc := redDesc ps }, s)
  locks := fun c s =>
    let x := (s.waves.get c.wi).id.ctx
    let n := redBytes c
    if n = 0 then [] else [mkLock 7 false x c.caps.a.toNat n false c.uid, mkLock 7 false x c.caps.b.toNat n true c.uid]
  finish := fun c s => do
    let x := s.ctxOf (s.waves.get c.wi)
    match s.fab.reds.find? fun r => r.uid == c.uid with
    | some r =>
      let g := s.groupOf r.job r.group
      if r.st = 1 then .error (.trapIn (rep illegalLayout 12 c.caps.c) (s.endRed r false))
      else if r.st = 3 then
        let P := (g.map fun g => g.members.length).getD 0
        let rank := (g.bind fun g => g.rank s.fab.pkg).getD 0
        pure ((s.endRed r false).putS c.wi c.f.d.toNat (u64 (P + 2 ^ 16 * rank)))
      else
        match g.bind s.lostMember with
        | some p => .error (.trapIn (rep linkLost (u64 p) 0) (s.endRed r (r.st == 2)))
        | none => waitEff .other
    | none =>
      let elems ← s.redSource c
      if s.redAhead c then waitEff .other
      else
        let job := x.job.num
        let g := s.groupOf job (redGroup c)
        let con : Contribution :=
          { job, group := redGroup c, member := (g.bind fun g => g.rank s.fab.pkg).getD 0, op := redKind c.f, t := c.f.type,
            elems }
        let r : OwnRed := { uid := c.uid, job, group := redGroup c, k := 0, st := 0, dst := descPieces c.desc }
        let s := s.modFab fun f => { f with reds := f.reds ++ [r] }
        .error (.wait .other (some (s.send switchDest (.allred con))))

def execAllred (f : Form) (s : State) : Result State := runLong (.allred f) f opAllred s

/-! ### Messages at the package and the switch (R402–R406) -/

/-- A message leaves the outbox. -/
def State.takeOut (s : State) (b : MsgBody) : State :=
  match s.fab.outbox.find? fun m => m.body == b with
  | some m => s.modFab fun f => { f with outbox := f.outbox.erase m }
  | none => s

/-- A message of another package is processed now, or held for its boundary at level 2 (R405). -/
def State.receive (s : State) (tickwise : Bool) (sender least : Nat) (m : FabMsg) : State :=
  if tickwise then s.hold sender least m else s.process m

/-- A package that speaks has a route (R415). -/
def State.heard (s : State) (p : Nat) : State :=
  s.modFab fun f => { f with lost := f.lost.filter fun l => l.1 ≠ p, downs := f.downs.filter fun d => d.2 ≠ p }

/-- Whether fabric messages reach this package: it has a number, and a port carries flits (R394, R395). -/
def State.onFabric (s : State) : Bool := s.fab.set && s.ported

/-- PEER_REQUEST (R402): of another package. -/
def tryPeerRequest (req : PeerReq) (s : State) : Option State :=
  if !s.onFabric || s.isSelf req.sender then none
  else
    let at2 := match req.job with
      | some j => s.tickwise j
      | none => false
    some ((s.heard req.sender).receive at2 req.sender 0 (.peerReq req))
def execPeerRequest (req : PeerReq) (s : State) : Result State := orSame (tryPeerRequest req) s

/-- PEER_RESPONSE (R405): of the package asked, to a request still unanswered. -/
def tryPeerResponse (resp : PeerResp) (s : State) : Option State :=
  match s.requestOf resp.id with
  | none => none
  | some (dest, tick, r) =>
    if dest ≠ resp.sender || !(s.ported || resp.answer == .lost) then none
    else
      let at2 := match r.job with
        | some j => s.tickwise j
        | none => false
      let lost := resp.answer == .lost
      some ((if lost then s else s.heard dest).receive (at2 && !lost) dest (tick + 1) (.peerResp resp))
def execPeerResponse (resp : PeerResp) (s : State) : Result State := orSame (tryPeerResponse resp) s

/-- FBAR_ARRIVAL (R313): at the switch; this package's own arrivals are those it has sent, over a port that carries flits. At
level 2 they come with the boundary. -/
def tryFbarArrival (job id member : Nat) (time : BitVec 64) (s : State) : Option State :=
  match s.fbar? job id with
  | none => none
  | some b =>
    match b.members[member]? with
    | none => none
    | some p =>
      if s.isSelf p then
        let m : MsgBody := .fbarArrive job id member (some time)
        if s.tickwise job || !s.ported || !s.fab.outbox.any fun x => x.body == m then none
        else some ((s.takeOut m).fbarArrived job id member time)
      else if !s.onFabric then none
      else some ((s.heard p).receive (s.tickwise job) p 0 (.fbarArrive job id member time))
def execFbarArrival (job id member : Nat) (time : BitVec 64) (s : State) : Result State :=
  orSame (tryFbarArrival job id member time) s

/-- FBAR_RELEASE (R313, R314): the next generation's release is delivered; at level 2 it comes with a boundary. -/
def tryFbarRelease (job id : Nat) (s : State) : Option State :=
  match s.fbar? job id with
  | none => none
  | some b =>
    if s.tickwise job || !s.onFabric || decide (b.gen ≤ b.delivered) then none else some (s.deliverRelease job id)
def execFbarRelease (job id : Nat) (s : State) : Result State := orSame (tryFbarRelease job id) s

/-- MCAST_REPLICATE (R411). -/
def tryMcastReplicate (id : Nat) (s : State) : Option State :=
  match s.lineOf id with
  | none => none
  | some l => if l.sent || !s.ported || s.tickwise l.job then none else some ((s.takeOut (.mcast id)).replicate id)
def execMcastReplicate (id : Nat) (s : State) : Result State := orSame (tryMcastReplicate id) s

/-- The vector side stands at an `mcast.st` again, where nothing after it has executed (R165). -/
def Wave.backTo (w : Wave) (l : McLine) : Wave :=
  let there : Wave := { w with taken := l.taken, vec := { w.vec with block := l.pos } }
  let next (n : Nat) : Bool :=
    let x := there.vadvance n
    x.vec.block = w.vec.block && x.taken = w.taken
  if l.pos.isSome && (next 2 || next 3) then there else w

/-- A line that no link can carry to the switch: its store raises LINK_LOST, at it, or, where the vector side has gone on,
naming it (DESIGN CHOICE, log entry 71). A vector instruction under way ends first; a trap that waits goes first. -/
def State.loseLine (s : State) (id : Nat) (l : McLine) : Option State :=
  let w := s.waves.get l.wave
  let gone := (s.takeOut (.mcast id)).setLine id none
  let r : Report := { rep linkLost (u64 switchDest) 0 with pc := l.site, vec := true }
  if l.lanes = 0 || w.st ≠ .running then some gone
  else if w.midVec then none
  else if w.vec.pend.isSome then some (gone.modWave l.wave fun w => { w with vec := { w.vec with more := w.vec.more ++ [r] } })
  else some (({ gone with cur := l.wave }.modMe fun w => w.backTo l).vecTrapAt r)

/-- MCAST_ACK (R270, R271): the acknowledgement arrives; or no link to the switch is left. -/
def tryMcastAck (id : Nat) (s : State) : Option State :=
  match s.lineOf id with
  | none => none
  | some l =>
    if !s.ported then s.loseLine id l
    else if s.tickwise l.job || !s.lineDone id l then none
    else some (s.deliverAck id)
def execMcastAck (id : Nat) (s : State) : Result State := orSame (tryMcastAck id) s

/-- ALLRED_CONTRIBUTION (R413): at the switch; this package's own contributions are those it has sent, over a port that carries
flits. -/
def tryAllredContribution (con : Contribution) (s : State) : Option State :=
  match (s.groupOf con.job con.group).bind fun g => g.members[con.member]? with
  | none => none
  | some m =>
    if s.isSelf m.pkg then
      let b : MsgBody := .allred con
      if s.tickwise con.job || !s.ported || !s.fab.outbox.any fun x => x.body == b then none
      else some ((s.takeOut b).contribute con)
    else if !s.onFabric then none
    else some ((s.heard m.pkg).receive (s.tickwise con.job) m.pkg 0 (.contribution con))
def execAllredContribution (con : Contribution) (s : State) : Result State := orSame (tryAllredContribution con) s

/-- ALLRED_RESULT (R413): the result is written here, and the `allred` completes. -/
def tryAllredResult (job group k : Nat) (s : State) : Option State :=
  let here := s.fab.colls.any fun x => x.names job group k && x.result.isSome
  let mine := s.fab.reds.any fun r => r.job == job && r.group == group && r.k == k && r.st == 2
  if s.tickwise job || !s.onFabric || !here || !mine then none else some (s.deliverResult job group k)
def execAllredResult (job group k : Nat) (s : State) : Result State := orSame (tryAllredResult job group k) s

/-- The members of the jobs at level 2 whose tick is not closed hold the boundary back (R406). -/
def State.tickOpen (s : State) : Bool :=
  s.ctxs.any fun e => decide (e.2.jobst = 2) && e.2.level == 2 && (List.range 1024).any fun p =>
    !s.isSelf p && s.boundTo e.2.job.num p && match s.closedOf p with
      | some t => decide (t < s.fab.bound)
      | none => true

/-- Whether a message of the switch is due that no link can carry here (R395). -/
def State.switchCut (s : State) : Bool :=
  !s.ported && s.fab.held.any fun h => h.sender == switchDest && decide (h.tick ≤ s.fab.bound)

/-- TICK_BOUNDARY (R405, R406): the messages of the tick before, in order; where no context is at level 2, none wait. -/
def tryTickBoundary (s : State) : Option State :=
  if s.fab.tick ≤ s.fab.bound || s.tickOpen || s.switchCut then none
  else
    let ms := s.boundaryMsgs
    let b := s.fab.bound
    let mine (m : Msg) : Bool := s.ported && decide (m.tick ≤ b) && match MsgBody.toSwitch? s m with
      | some (j, _) => s.tickwise j
      | none => false
    let any2 := s.ctxs.any fun e => decide (e.2.jobst = 2) && e.2.level == 2
    let s := s.modFab fun f => { f with
      held := f.held.filter fun h => decide (b < h.tick)
      outbox := f.outbox.filter fun m => !mine m
      bound := if any2 then b + 1 else f.tick }
    some (ms.foldl State.process s).ackLines
def execTickBoundary (s : State) : Result State := orSame tryTickBoundary s

/-- TICK_CLOSE (R406): of another package. -/
def tryTickClose (pkg tick : Nat) (s : State) : Option State :=
  if !s.onFabric || s.isSelf pkg then none
  else
    let last := max tick ((s.closedOf pkg).getD 0)
    some ((s.heard pkg).modFab fun f => { f with closes := (f.closes.filter fun c => c.1 ≠ pkg) ++ [(pkg, last)] })
def execTickClose (pkg tick : Nat) (s : State) : Result State := orSame (tryTickClose pkg tick) s

/-- TIMING_MESSAGE (R404): whether the tick is aligned within 25 ns. Messages that align it come over the fabric (R394,
R395). -/
def tryTimingMessage (aligned : Bool) (s : State) : Option State :=
  if s.onFabric || !aligned then some (s.modFab fun f => { f with sync := aligned }) else none
def execTimingMessage (aligned : Bool) (s : State) : Result State := orSame (tryTimingMessage aligned) s

/-! ### The buffer and the ingress atomic cache (R248, R249) -/

/-- WCB_ENTRY_DRAIN (R248): an entry 1 µs old leaves. -/
def tryWcbEntryDrain (core entry : Nat) (s : State) : Option State :=
  match (s.cores.get core).wcb[entry]? with
  | none => none
  | some e =>
    if s.cycle < e.since + 2400 then none
    else some ((s.drainEntry e).modCore core fun c => { c with wcb := c.wcb.eraseIdx entry })
def execWcbEntryDrain (core entry : Nat) (s : State) : Result State := orSame (tryWcbEntryDrain core entry) s

/-- INGRESS_LEASE_EXPIRY (R249). -/
def tryIngressLeaseExpiry (line : Nat) (s : State) : Option State :=
  if s.leases.any fun l => l.1 == line && decide (l.2 ≤ s.cycle) then
    some { s with leases := s.leases.filter fun l => l.1 ≠ line }
  else none
def execIngressLeaseExpiry (line : Nat) (s : State) : Result State := orSame (tryIngressLeaseExpiry line) s

end Sys2Proof.Machine
end

