-- ==== Sys2Proof/Machine/Exact.lean ====
section
/-!
DEFINITION. Exact rational arithmetic, extended by the infinities and NaN with the rules of IEEE 754-2019, as the render
units form their sums and products before one rounding (R366, R367).
-/
namespace Sys2Proof.Machine

/-- A rational n / d, d positive. -/
structure Rational where
  n : Int
  d : Nat
  deriving DecidableEq, Repr, Inhabited

/-- n / d in lowest terms; 0 for d = 0. -/
def Rational.mk' (n : Int) (d : Nat) : Rational :=
  let g := Nat.gcd n.natAbs d
  if d = 0 then { n := 0, d := 1 } else { n := n / g, d := d / g }

def Rational.ofInt (n : Int) : Rational := { n := n, d := 1 }
def Rational.add (x y : Rational) : Rational := Rational.mk' (x.n * y.d + y.n * x.d) (x.d * y.d)
def Rational.neg (x : Rational) : Rational := { x with n := -x.n }
def Rational.sub (x y : Rational) : Rational := x.add y.neg
def Rational.mul (x y : Rational) : Rational := Rational.mk' (x.n * y.n) (x.d * y.d)
/-- The quotient; 0 for a zero divisor, which no caller passes. -/
def Rational.div (x y : Rational) : Rational :=
  if y.n = 0 then { n := 0, d := 1 } else Rational.mk' (x.n * y.d * (if y.n < 0 then -1 else 1)) (x.d * y.n.natAbs)
def Rational.lt (x y : Rational) : Bool := decide (x.n * y.d < y.n * x.d)
def Rational.le (x y : Rational) : Bool := decide (x.n * y.d ≤ y.n * x.d)
def Rational.isZero (x : Rational) : Bool := x.n == 0
def Rational.zero : Rational := Rational.ofInt 0
def Rational.one : Rational := Rational.ofInt 1

/-- A rational as a value to round: its quotient with the remainder as a sticky bit. -/
def Rational.fv (x : Rational) : FV := (fvOfInt x.n 0 false).div (.fin false x.d 0)

/-- Rounding to an integer, ties to even. -/
def Rational.round (x : Rational) : Int := (x.fv.toInt rne).getD 0
/-- The greatest integer not above. -/
def Rational.floor (x : Rational) : Int := x.n / (x.d : Int)

/-- An extended real. -/
inductive XR where
  | nan
  | inf (neg : Bool)
  | fin (q : Rational)
  deriving DecidableEq, Repr, Inhabited

/-- The exact value of a floating value. -/
def FV.xr : FV → XR
  | .nan => .nan
  | .inf n => .inf n
  | .fin n m e =>
    let v : Int := if n then -(m : Int) else m
    .fin (if 0 ≤ e then Rational.ofInt (v * ((2 ^ e.toNat : Nat) : Int)) else Rational.mk' v (2 ^ (-e).toNat))

/-- The exact value of an f32 word. -/
def f32X (x : Nat) : XR := (fmtF32.decode x).xr

def XR.neg : XR → XR
  | .nan => .nan
  | .inf n => .inf (!n)
  | .fin q => .fin q.neg

def XR.add : XR → XR → XR
  | .fin x, .fin y => .fin (x.add y)
  | .nan, _ => .nan
  | _, .nan => .nan
  | .inf a, .inf b => if a == b then .inf a else .nan
  | .inf a, .fin _ => .inf a
  | .fin _, .inf b => .inf b

def XR.mul : XR → XR → XR
  | .fin x, .fin y => .fin (x.mul y)
  | .nan, _ => .nan
  | _, .nan => .nan
  | .inf a, .inf b => .inf (a != b)
  | .inf a, .fin y => if y.isZero then .nan else .inf (a != decide (y.n < 0))
  | .fin x, .inf b => if x.isZero then .nan else .inf (b != decide (x.n < 0))

def XR.sub (x y : XR) : XR := x.add y.neg
def XR.sum (l : List XR) : XR := l.foldl XR.add (.fin Rational.zero)
def XR.scale (q : Rational) (x : XR) : XR := (XR.fin q).mul x

def XR.isFin : XR → Bool
  | .fin _ => true
  | _ => false

/-- The rational of a finite value; 0 for the others, which callers exclude. -/
def XR.rat : XR → Rational
  | .fin q => q
  | _ => Rational.zero

/-- Order of extended reals that are not NaN. -/
def XR.le : XR → XR → Bool
  | .fin x, .fin y => x.le y
  | .inf a, .inf b => a || !b
  | .inf a, .fin _ => a
  | .fin _, .inf b => !b
  | _, _ => false

/-- round_f32_rne, once (R367): an exact zero is +0, a NaN canonical. -/
def XR.f32 : XR → Nat
  | .nan => fmtF32.nan
  | .inf n => if n then 0xFF800000 else 0x7F800000
  | .fin q => fmtF32.encode rne false q.fv

end Sys2Proof.Machine
end

