-- ==== Sys2Proof/Machine/TapeOps.lean ====
section
/-!
DEFINITION. The saggar (R346–R359): records, spans and chunks of a wave's tape, room made in the share, fills, and the
reservations and keys of ordered adds.
-/
namespace Sys2Proof.Machine

/-! ### Records (R348) -/

/-- Bytes of a record of a wave of W lanes, words of `n` bytes. -/
def recordSize (W n : Nat) (words : List W64) : Nat :=
  (if W ≤ 32 then 4 else 8) + n * (words.filter fun x => x ≠ 0).length + 4

/-- The link word of a record. -/
def Record.link (r : Record) : Nat := r.kind * 2 ^ 16 + r.bytes

/-- Checkpoint kinds; every other kind is data (R348, R366). -/
def Record.isCkpt (r : Record) : Bool := r.kind == 2 || r.kind == 3

/-! ### Spans (R349–R353) -/

/-- Checkpoint records of a span in recording order, and its data records. -/
def Span.ckpts (x : Span) : List Record := x.records.filter Record.isCkpt
def Span.data (x : Span) : List Record := x.records.filter fun r => !r.isCkpt

/-- Whether a span is complete. -/
def Span.complete (x : Span) : Bool := x.st != .open_

/-- Bytes of a dropped span's stub. -/
def Span.stub (x : Span) : Nat := ceilDiv (16 + x.ckpts.foldl (fun n r => n + r.bytes) 0) 256 * 256

/-- Bytes a span takes in the tape spill. -/
def Span.spillBytes (x : Span) : Nat := if x.st = .dropped then x.stub else 256 * x.spill.length

/-- Bytes of the tape spill, and bytes of the share in chunks held. -/
def Tape.spillBytes (t : Tape) : Nat := t.spans.foldl (fun n x => n + x.spillBytes) 0
def Tape.usedChunks (t : Tape) : Nat := t.spans.foldl (fun n x => n + x.share.length) 0

/-- The top span (R349). -/
def Tape.top (t : Tape) : Option Span := t.spans.getLast?

/-- The top span replaced, or removed. -/
def Tape.setTop (t : Tape) (x : Option Span) : Tape := { t with spans := t.spans.dropLast ++ x.toList }

/-- A new open span. -/
def newSpan (num : Nat) (recompute refill : Bool) : Span :=
  { num, recompute, refill, st := .open_, records := [], written := 16, share := [], spill := [] }

/-- A boundary takes effect (R351, R364). -/
def Tape.boundary (t : Tape) (c : SpanCmd) : Tape :=
  match c with
  | .begin num recompute refill =>
    match t.top with
    | some x =>
      if refill && x.st = .dropped then
        let cks := x.ckpts.foldl (fun (acc : List Record × Nat) r => (acc.1 ++ [{ r with start := acc.2 }], acc.2 + r.bytes))
          ([], 16)
        t.setTop (some { newSpan num false true with records := cks.1, written := cks.2 })
      else { t with spans := t.spans ++ [newSpan num (recompute && !refill) false] }
    | none => { t with spans := t.spans ++ [newSpan num (recompute && !refill) false] }
  | .finish =>
    match t.top with
    | some x => if x.data.isEmpty then t.setTop none else t.setTop (some { x with st := .resident })
    | none => t

/-- The boundaries that the vector side has reached, `taken` tokens done, take effect. -/
def Tape.catchUp (t : Tape) (taken : Nat) : Tape :=
  let due := t.pending.filter fun e => decide (e.1 ≤ taken)
  due.foldl (fun t e => t.boundary e.2) { t with pending := t.pending.filter fun e => decide (taken < e.1) }

/-- Room for the two stacks of the spill area (R347). -/
def Wave.spillRoom (w : Wave) : Nat := w.id.spillsz - 4096

/-- The first complete span with a chunk in the share. -/
def oldestHeld : List Span → Option Nat
  | [] => none
  | x :: r => if x.complete && !x.share.isEmpty then some 0 else (oldestHeld r).map (· + 1)

/-- One step of the loop of R352: what overflow does to the oldest complete span, or to the open one. -/
def Tape.overflowStep (t : Tape) : Option Tape :=
  match oldestHeld t.spans with
  | some k =>
    match t.spans[k]? with
    | none => none
    | some x =>
      let x' : Span := if x.recompute then { x with st := .dropped, records := x.ckpts, share := [], spill := [] }
        else { x with st := .spilled, spill := x.spill ++ x.share, share := [] }
      some { t with
        spans := t.spans.set k x'
        dropped := if x.recompute then t.dropped + 1 else t.dropped
        spilled := if x.recompute then t.spilled else t.spilled + 1 }
  | none =>
    match t.top with
    | none => none
    | some x =>
      match x.share with
      | c :: r =>
        if c < x.written / 256 then some (t.setTop (some { x with share := r, spill := x.spill ++ [c] })) else none
      | [] => none

/-- Room made in the share for chunks of the open span (R352), or the amount and subcode of the trap. -/
def Tape.makeRoom (share room need : Nat) : Nat → Tape → Except (Nat × Nat) Tape
  | 0, t => .ok t
  | n + 1, t =>
    let free := share - t.usedChunks
    if need ≤ free then .ok t
    else
      match t.overflowStep with
      | none => .error (256 * (need - free), 10)
      | some t' =>
        if room < t'.spillBytes + t'.log then .error (t'.spillBytes + t'.log - room, 6)
        else Tape.makeRoom share room need n t'

/-- A record appended to the open span (R352, R361). -/
def Tape.append (share room : Nat) (t : Tape) (kind W n : Nat) (words : List W64) : Except (Nat × Nat) Tape :=
  match t.top with
  | none => .error (0, 4)
  | some x =>
    let bytes := recordSize W n words
    let last := ceilDiv (x.written + bytes) 256
    let need := last - (x.share.length + x.spill.length)
    match Tape.makeRoom share room need (t.spans.length + last + 1) t with
    | .error e => .error e
    | .ok t =>
      match t.top with
      | none => .error (0, 4)
      | some x =>
        let first := x.share.length + x.spill.length
        .ok (t.setTop (some { x with
          share := x.share ++ (List.range need).map (· + first)
          records := x.records ++ [{ kind, words, bytes, start := x.written }]
          written := x.written + bytes }))

/-- Chunks a span still needs: its header's, and those of the records it holds (R353). -/
def Span.live (x : Span) (c : Nat) : Bool :=
  c == 0 || x.records.any fun r => decide (r.start / 256 ≤ c) && decide (c ≤ (r.start + r.bytes - 1) / 256)

/-- The chunks of a record of the top span are filled back into the share (R353), or the amount and subcode of the trap. -/
def Tape.fill (share : Nat) (t : Tape) (x : Span) (r : Record) : Except (Nat × Nat) Span :=
  let back := x.spill.filter fun c => decide (r.start / 256 ≤ c)
  if share < t.usedChunks + back.length then .error (256, 10)
  else if back.isEmpty then .ok x
  else .ok { x with spill := x.spill.filter (fun c => !back.contains c), share := sortNat (x.share ++ back), st := .resident }

/-- The newest data record of the top span, filled, leaves it (R353, R362). -/
def Tape.pop (t : Tape) (x : Span) (r : Record) : Tape :=
  let x := { x with records := x.records.filter fun q => q != r }
  if x.data.isEmpty then t.setTop none else t.setTop (some { x with share := x.share.filter fun c => x.live c })

/-! ### The wave's tape in an effect -/

/-- Whether the wave has a share (R346), and its chunks. -/
def State.hasShare (s : State) (w : Wave) : Bool := (s.gangOf w).granted && decide ((s.kernOf w).desc.tape ≠ 0)
def State.shareChunks (s : State) (w : Wave) : Nat := (s.kernOf w).desc.tape / 256

def tapeEff {α : Type} (x : Except (Nat × Nat) α) : Eff α :=
  match x with
  | .ok a => .ok a
  | .error (amount, sub) => trapEff (allotTape amount sub)

/-- The tape as the block at hand sees it. -/
def Wave.seen (w : Wave) : Tape := w.tape.catchUp w.taken

def State.setTape (s : State) (t : Tape) : State := s.modMe fun w => { w with tape := t }

/-! ### The bytes of the tape spill (R347, R352, R353, R355)

Their layout is not architected: a spill leaves free bytes, and what is found changed gives free words (log entry 31). -/

/-- What stands in the 256-byte places of the tape spill, from its foot: chunks of spans, and parts of stubs. -/
def Span.places (x : Span) : List (Nat × Nat × Bool) :=
  if x.st = .dropped then (List.range (x.stub / 256)).map fun i => (x.num, i, true) else x.spill.map fun c => (x.num, c, false)
def Tape.places (t : Tape) : List (Nat × Nat × Bool) := t.spans.flatMap Span.places

/-- Free bytes. -/
def freeBytes (n k : Nat) : List Byte := (List.range k).map fun i => (Config.freeValue (n + i)).setWidth 8

/-- The address of a place. -/
def Wave.placeAt (w : Wave) (k : Nat) : Nat := (w.id.spill.toNat + 4096 + 256 * k) % 2 ^ 64

/-- The places whose bytes are not those a spill left there. -/
def State.changed (s : State) (w : Wave) : List Nat :=
  (List.range w.tape.notes.length).filter fun k =>
    match (w.tape.notes[k]?).join with
    | none => false
    | some n => s.feRead (s.ctxOf w) (w.placeAt k) 256 != some (freeBytes n 256)

/-- Whether a record of a span lies in a place. -/
def Record.liesIn (r : Record) (x : Span) (p : Nat × Nat × Bool) : Bool :=
  x.num == p.1 && if p.2.2 then r.isCkpt else decide (r.start / 256 ≤ p.2.1) && decide (p.2.1 ≤ (r.start + r.bytes - 1) / 256)

/-- A record with free words. -/
def Record.freed (r : Record) (n : Nat) : Record :=
  let word (v : W64) : W64 := if r.kind == 1 || r.kind == 3 then v else (v.setWidth 32).setWidth 64
  { r with words := r.words.zipIdx.map fun e => word (Config.freeValue (n + e.2)) }

/-- What fills and reads of the tape spill will return: free words of the records that lie in changed places. -/
def State.readSpill (s : State) : State :=
  let w := s.me
  match s.changed w with
  | [] => s
  | ks =>
    let ps := ks.filterMap fun k => w.tape.places[k]?
    let span (e : Span × Nat) : Span :=
      { e.1 with records := e.1.records.zipIdx.map fun r =>
          if ps.any fun p => r.1.liesIn e.1 p then r.1.freed (s.free + 2 ^ 32 * e.2 + 64 * r.2) else r.1 }
    let t := { w.tape with
      spans := w.tape.spans.zipIdx.map span
      notes := w.tape.notes.zipIdx.map fun e => if ks.contains e.2 then none else e.1 }
    { s.setTape t with free := s.free + 2 ^ 32 * (t.spans.length + 1) }

/-- The length of the common foot of two lists of places. -/
def commonFoot : List (Nat × Nat × Bool) → List (Nat × Nat × Bool) → Nat
  | x :: r, y :: q => if x = y then commonFoot r q + 1 else 0
  | _, _ => 0

/-- The bytes of the places from `k` on are written, and noted. -/
def State.writeSpill (s : State) (t : Tape) (k : Nat) : State :=
  let w := s.me
  let n := t.places.length - k
  let s' := (List.range n).foldl (fun s i =>
    (s.feWrite (s.ctxOf w) (w.placeAt (k + i)) (freeBytes (s.free + 256 * i) 256)).getD s) s
  let new := (List.range n).map fun i => some (s.free + 256 * i)
  ({ s' with free := s.free + 256 * n }).setTape { t with notes := t.notes.take k ++ new }

/-- The tape after spills and fills. The range of the tape spill whose bytes move stands in the range-lock table as engine 2's
while they do, which is within this step; it waits for a range in force that bars it, and for a page in migration (R245, R329,
R355). -/
def State.moveTape (s : State) (t : Tape) : Eff State :=
  let w := s.me
  let k := commonFoot w.tape.places t.places
  let top := max w.tape.places.length t.places.length
  if top = k then pure (s.setTape t)
  else
    let who := lockAsker s.cur true
    let l := mkLock 2 false w.id.ctx (w.placeAt k) (256 * (top - k)) (decide (k < t.places.length)) 0
    if !s.lockTurn who w.id.ctx [l] then .error (.wait .other (some (s.joinLockq who w.id.ctx)))
    else if s.feHeld (s.ctxOf w) (w.placeAt k) (256 * (top - k)) then waitEff .hold
    else pure ((s.leaveLockq who).writeSpill t k)

/-- Records of one kind of the block at hand, one after the other, moved in one go: only while a span was open at its `vrun`
(R349). -/
def State.records (s : State) (kind n : Nat) (rows : List (List W64)) : Eff State :=
  let w := s.me
  let span := w.vec.block.bind fun b => b.span
  if !s.hasShare w then trapEff (allotTape 0 1)
  else if span.isNone then trapEff (allotTape 0 4)
  else do
    let t ← rows.foldlM (fun t words => tapeEff (t.append (s.shareChunks w) w.spillRoom kind w.id.width n words)) w.seen
    s.moveTape t
def State.record (s : State) (kind n : Nat) (words : List W64) : Eff State := s.records kind n [words]

/-- ILLEGAL_LAYOUT for a record of another kind (R357). -/
def wrongKind (r : Record) : Report := rep illegalLayout 9 (u64 r.link)

/-- What `tpop` meets: a dropped top span, or the record it takes and the tape after (R362). -/
def State.popRecord (s : State) (kind : Nat) : Eff (Option (Record × Tape)) :=
  let w := s.me
  let t := w.seen
  if !s.hasShare w then trapEff (allotTape 0 1)
  else
    match t.top with
    | none => trapEff (allotTape 0 7)
    | some x =>
      if x.st = .open_ then trapEff (allotTape x.num 8)
      else if x.st = .dropped then pure none
      else
        match x.data.getLast? with
        | none => trapEff (allotTape 0 7)
        | some r => do
          let x ← tapeEff (t.fill (s.shareChunks w) x r)
          if r.kind ≠ kind then trapEff (wrongKind r) else pure (some (r, t.pop x r))

/-! ### Ordered adds (R45, R147, R246, R358, R359) -/

/-- The key of a lane's next ordered add (R147). -/
def Wave.addKey (w : Wave) (lane seq : Nat) : Nat :=
  w.id.phase % 256 * 2 ^ 56 + w.id.task % 2 ^ 24 * 2 ^ 32 + w.id.inWg % 16 * 2 ^ 28 + lane * 2 ^ 22 + seq

/-- The checks of ordered adds under the counters of some lanes, each of `bytes` in the add log: the key sequence, then at
levels 1 and 2 the reservation (R147, R256, R358). -/
def State.checkAdds (s : State) (wi bytes : Nat) (lanes : List Nat) : Eff Unit :=
  let w := s.waves.get wi
  match lanes.eraseDups.find? fun l => decide (2 ^ 22 - 1 < w.vec.seq.get l + lanes.count l) with
  | some l => trapEff (allotSeq l)
  | none =>
    if s.levelOf w = 0 then pure ()
    else
      let t := w.seen
      let total := bytes * lanes.length
      if w.spillRoom < t.spillBytes + t.log + total && !lanes.isEmpty then
        trapEff (allotTape (t.spillBytes + t.log + total - w.spillRoom) 6)
      else
        let top := w.id.spill.toNat + w.id.spillsz - t.log
        let need : Need := { kind := .add, read := false, write := true, peer := false }
        let pages (k : Nat) : List Nat :=
          let a := top - bytes * (k + 1)
          a :: ((List.range 2).map fun j => (a / 4096 + j + 1) * 4096).filter fun b => decide (b < a + bytes)
        (lanes.zipIdx.flatMap fun e => (pages e.2).map fun a => (e.1, a)).foldlM (fun _ e => do
          let _ ← s.checkGlobal (s.ctxOf w) need e.1 e.2 1
          pure ()) ()

/-- The address of the next reservation of the add log (R347, R358). -/
def Wave.logVa (w : Wave) (bytes : Nat) : Nat := w.id.spill.toNat + w.id.spillsz - (w.tape.log + bytes)

/-- Ordered adds issue: each takes its lane's counter and its reservation, and leaves for its word's home (R267, R246).
`group` numbers the render adjoint that makes them. -/
def State.issueAdds (s : State) (wi : Nat) (adds : List (Nat × Nat × W32)) (group : Nat := 0) : State :=
  adds.foldl (fun s e =>
    let s := s.arriveLine (coreOf wi) e.2.1
    let w := s.waves.get wi
    let seq := w.vec.seq.get e.1
    let level := s.levelOf w
    let (id, s) := s.fresh
    let a : HeldAdd :=
      { uid := id, kern := w.id.kern, pa := e.2.1, key := w.addKey e.1 seq, value := e.2.2, tile := [], home := false,
        bytes := 16, wave := wi, stamp := s.epoch, group, logVa := w.logVa 16 }
    let s := { s with adds := s.adds ++ [a] }
    s.modWave wi fun w =>
      { w with
        vec := { w.vec with seq := w.vec.seq.put e.1 (seq + 1) }
        tape := if level = 0 then w.tape else { w.tape with log := w.tape.log + 16 } }) s

/-- The AX48 value of a tile add's entry or the f32 value of a lane add, added to an f32 word (R45, R298). -/
def addWord (m : Nat) (x : FV) : Nat := fmtF32.encode rne false ((fmtF32.decode m).add false x)

/-- An add applied at its words. -/
def State.applyAdd (s : State) (a : HeldAdd) : State :=
  match a.tile with
  | [] => s.writeDev (cellsOf a.pa 4 (addWord (s.mem.readNat a.pa 4) (f32 a.value)))
  | es => s.writeDev (es.zipIdx.flatMap fun e =>
      cellsOf (a.pa + 4 * e.2) 4 (addWord (s.mem.readNat (a.pa + 4 * e.2) 4) (fmtAx48.decode e.1.toNat)))

/-- An add that has come home waits in its reservation: free bytes stand there (R359; log entry 31). -/
def State.logAdd (s : State) (id : Nat) : State :=
  match s.adds.find? fun a => a.uid == id && a.home && a.note.isNone with
  | none => s
  | some a =>
    match s.feWrite (s.ctxs.get (s.kernels.get a.kern).ctx) a.logVa (freeBytes s.free a.bytes) with
    | none => s
    | some s' =>
      { s' with
        free := s.free + a.bytes
        adds := s'.adds.map fun b => if b.uid = id then { b with note := some s.free } else b }

/-- An add read back from the log: its value is free where the bytes there have been changed (R355). -/
def State.readLog (s : State) (a : HeldAdd) : HeldAdd × State :=
  match a.note with
  | none => (a, s)
  | some n =>
    if s.feRead (s.ctxs.get (s.kernels.get a.kern).ctx) a.logVa a.bytes == some (freeBytes n a.bytes) then (a, s)
    else
      let word (i : Nat) : W64 := Config.freeValue (s.free + i)
      ({ a with value := (word 0).setWidth 32, tile := a.tile.zipIdx.map fun e => (word e.2).setWidth 48 },
        { s with free := s.free + 1024 })

/-- First byte past an add's words; its lane. -/
def HeldAdd.past (a : HeldAdd) : Nat := a.pa + if a.tile.isEmpty then 4 else 4096
def HeldAdd.lane (a : HeldAdd) : Nat := nbits a.key 27 22

/-- Whether an add must come home before another of its wave: it issued earlier, to a word of the same (R238, R267). The lanes
of one render adjoint keep no order (R390). -/
def HeldAdd.ahead (b a : HeldAdd) : Bool :=
  b.wave == a.wave && decide (b.uid < a.uid) && decide (b.pa < a.past) && decide (a.pa < b.past) &&
  (a.group == 0 || b.group != a.group || b.lane == a.lane)

/-- ORDERED_ADD_ARRIVAL (R246, R359): an add reaches its home. At level 0 it is applied; at levels 1 and 2 it waits for the
commit. -/
def tryOrderedAddArrival (id : Nat) (s : State) : Option State := do
  let a ← s.adds.find? fun a => a.uid == id && !a.home
  if s.adds.any fun b => !b.home && b.ahead a then none
  else if (s.kernels.get a.kern).desc.level = 0 then
    some { s.applyAdd a with adds := s.adds.filter fun b => b.uid != id }
  else some { s with adds := s.adds.map fun b => if b.uid = id then { b with home := true } else b }
def execOrderedAddArrival (id : Nat) (s : State) : Result State := orSame (tryOrderedAddArrival id) s

end Sys2Proof.Machine
end

