-- ==== Sys2Proof/Machine/RenderOps.lean ====
section
/-!
DEFINITION. Shared operations of the render units (R366–R374): reads of records, the choice of a trap among lanes, screen
triangles, edge functions and samples, and the ordered adds of the adjoints.
-/
namespace Sys2Proof.Machine

/-! ### Lanes and their stops -/

/-- Where a stop stands: a wait for a read, after which the choice is made; then the order of R203, R256 and R366, memory
traps before ILLEGAL_LAYOUT. -/
def Stop.rank : Stop → Nat
  | .wait .. => 0
  | .trap r | .trapIn r _ =>
    if r.code = allotment then 1 else if r.code = pageFault then 2 else if r.code = rangeLocked then 3
    else if r.code = linkLost then 4 else 6
  | .uncorr _ => 5

/-- The stop of least rank, the lowest lane's among equals. -/
def worstStop : List Stop → Option Stop
  | [] => none
  | e :: r =>
    match worstStop r with
    | none => some e
    | some x => if x.rank < e.rank then some x else some e

/-- Every lane's result, or the stop that is reported. -/
def lanesEff {α : Type} (A : W64) (g : Nat → Eff α) : Eff (List (Nat × α)) :=
  let rs := (lanesOf A).map fun l => (l, g l)
  let stops := rs.filterMap fun e =>
    match e.2 with
    | .error x => some x
    | .ok _ => none
  match worstStop stops with
  | some x => .error x
  | none => .ok (rs.filterMap fun e =>
      match e.2 with
      | .ok v => some (e.1, v)
      | .error _ => none)

/-! ### Reads (R366) -/

/-- A single access of the wave at `.pkg`; the lane is the one that named the address. -/
def State.renderRead (s : State) (lane va n : Nat) (dev : Bool := false) : Eff Nat := do
  let va := va % 2 ^ 64
  let els ← match s.askedAt s.cur 0 (0x1000 + va) with
    | some t => pure [(lane, va, t)]
    | none => s.checkAccess s.cur false { needLoad with peer := !dev, host := !dev } n [(lane, va)]
  match els with
  | e :: _ => s.loadElement s.cur 0 (0x1000 + va) false .load n e
  | [] => pure 0

/-- The alignment of a record before it is read (R366). -/
def State.renderAlign (s : State) (lane va n : Nat) (dev : Bool := false) : Eff Unit := do
  let _ ← s.checkGlobal (s.ctxOf s.me) { needLoad with peer := !dev, host := !dev } lane (va % 2 ^ 64) n
  pure ()

/-- The alignment of a record that is only added to (R366). -/
def renderAligned (lane va n : Nat) : Eff Unit :=
  if va % 2 ^ 64 % n ≠ 0 then trapEff (pfReport (va % 2 ^ 64) false lane 3 .load) else pure ()

/-- ILLEGAL_LAYOUT of the render instructions (R368). -/
def layout10 (desc : Nat) : Report := rep illegalLayout 10 (u64 desc)
def layout11 (lane index : Nat) : Report := rep illegalLayout 11 (u64 (lane * 2 ^ 56 + index % 2 ^ 32))

/-! ### Screen triangles (R370–R373) -/

/-- A vertex as read and snapped: X, Y in 1/256 pixel, 1/w. -/
structure Vertex where
  x  : Int
  y  : Int
  iw : Rational
  ok : Bool
  deriving DecidableEq, Repr, Inhabited

/-- A screen triangle record. -/
structure ScreenTri where
  v     : List Vertex
  prim  : Nat
  nattr : Nat
  attr  : Nat
  grad  : Nat
  deriving DecidableEq, Repr, Inhabited

/-- Snapping of a vertex and its validity (R371). -/
def snap (x y iw : Nat) : Vertex :=
  let s (w : Nat) : Int := (((fmtF32.decode w).mul (.fin false 1 8)).toInt rne).getD 0
  let fits (n : Int) : Bool := decide (-(2 ^ 31) ≤ n) && decide (n < 2 ^ 31)
  let good (w : Nat) : Bool := (fmtF32.decode w).isFin
  { x := s x, y := s y, iw := (f32X iw).rat
    ok := good x && good y && good iw && !(fmtF32.decode iw).isZero && fits (s x) && fits (s y) }

/-- The record of triangle t, from a reader of n bytes at an address. -/
def readTri (rd : Nat → Nat → Eff Nat) (a : Nat) : Eff ScreenTri := do
  let v ← [0, 1, 2].mapM fun k => do
    let x ← rd (a + 16 * k) 4
    let y ← rd (a + 16 * k + 4) 4
    let iw ← rd (a + 16 * k + 8) 4
    pure (snap x y iw)
  let prim ← rd (a + 0x0C) 4
  let nattr ← rd (a + 0x1C) 2
  let attr ← rd (a + 0x30) 8
  let grad ← rd (a + 0x38) 8
  pure { v, prim, nattr, attr, grad }

def ScreenTri.valid (t : ScreenTri) : Bool := t.v.all fun v => v.ok

def ScreenTri.X (t : ScreenTri) (k : Nat) : Int := ((t.v[k]?).getD default).x
def ScreenTri.Y (t : ScreenTri) (k : Nat) : Int := ((t.v[k]?).getD default).y
def ScreenTri.iw (t : ScreenTri) (k : Nat) : Rational := ((t.v[k]?).getD default).iw

/-- E_ij at a point (R372). -/
def ScreenTri.edge (t : ScreenTri) (i j : Nat) (px py : Int) : Int :=
  (t.X j - t.X i) * (py - t.Y i) - (t.Y j - t.Y i) * (px - t.X i)

/-- The vertices of the edge opposite vertex k. -/
def edgeOf (k : Nat) : Nat × Nat :=
  match k with
  | 0 => (1, 2)
  | 1 => (2, 0)
  | _ => (0, 1)

/-- E_k at a point, and A. -/
def ScreenTri.E (t : ScreenTri) (k : Nat) (px py : Int) : Int := t.edge (edgeOf k).1 (edgeOf k).2 px py
def ScreenTri.area (t : ScreenTri) : Int := t.E 0 0 0 + t.E 1 0 0 + t.E 2 0 0

/-- Whether an edge i→j of a front-facing triangle passes a sample (R373). -/
def ScreenTri.passes (t : ScreenTri) (i j : Nat) (e : Int) : Bool :=
  decide (0 < e) || (e == 0 && ((t.Y j == t.Y i && decide (t.X i < t.X j)) || decide (t.Y j < t.Y i)))

/-- Coverage of a point (R373). -/
def ScreenTri.covers (t : ScreenTri) (px py : Int) : Bool :=
  let a := t.area
  if a = 0 then false
  else [0, 1, 2].all fun k =>
    let (i, j) := edgeOf k
    if 0 < a then t.passes i j (t.edge i j px py) else t.passes j i (-(t.edge i j px py))

/-- Sample positions (Table 16.3). -/
def sampleXY (n : Nat) : Nat × Nat :=
  if n = 16 then (8, 8)
  else (([6, 14, 2, 10, 9, 3, 12, 5, 0, 8, 15, 11, 4, 13, 7, 1][n]?).getD 8,
        ([2, 6, 10, 14, 4, 7, 8, 12, 1, 0, 3, 11, 15, 13, 9, 5][n]?).getD 8)

/-- The point of a sample of a pixel (R374). -/
def samplePoint (x y n : Nat) : Int × Int :=
  ((256 * x + 16 * (sampleXY n).1 : Nat), (256 * y + 16 * (sampleXY n).2 : Nat))

/-- The coverage mask of a pixel under a mode: 0 one sample, 1 four, 2 sixteen. -/
def ScreenTri.coverage (t : ScreenTri) (mode x y : Nat) : Nat :=
  let ss : List Nat := if mode = 0 then [16] else List.range (if mode = 1 then 4 else 16)
  ss.zipIdx.foldl (fun m e => let p := samplePoint x y e.1; if t.covers p.1 p.2 then m + 2 ^ e.2 else m) 0

/-! ### Adds of the adjoints (R367) -/

/-- What the adds' words must be, checked for every lane and add before the first; then they issue in order. -/
def State.renderAdds (s : State) (adds : List (Nat × Nat × Nat)) : Eff (State → State) := do
  let need : Need := { kind := .add, read := false, write := true, peer := false, host := false }
  let els ← s.checkAccess s.cur false need 4 (adds.map fun e => (e.1, e.2.1 % 2 ^ 64))
    (s.checkAdds s.cur 16 (adds.map Prod.fst))
  let out := (els.zip adds).filterMap fun e =>
    match e.1.2.2 with
    | .dev pa => some (e.1.1, pa, u32 e.2.2.2)
    | _ => none
  pure fun s =>
    let (g, s) := s.fresh
    s.issueAdds s.cur out g

/-- NONFINITE over several registers of a lane, lane by lane (R366). -/
def State.checkRender (s : State) (typea : Nat) (rs : List (Nat × List Nat)) : Eff Unit :=
  if !s.nfOn then pure ()
  else
    match rs.find? fun e => e.2.any fun x => fmtF32.nonFinite x with
    | some e => trapEff (nfReport (u64 e.1) typea 0 0 0)
    | none => pure ()

/-- Results of a lane to consecutive registers. -/
def State.putRegs (s : State) (d : Nat) (rs : List (Nat × List Nat)) : State :=
  s.modMe fun w => rs.foldl (fun w e => e.2.zipIdx.foldl (fun w x => w.setV (d + x.2) e.1 (u32 x.1)) w) w

end Sys2Proof.Machine
end

