-- ==== Sys2Proof/Machine/Page.lean ====
section
/-!
DEFINITION. Token pages: `attn.step`, `attn.mass`, `evict` and `pgq` (R336–R345).
-/
namespace Sys2Proof.Machine

/-! ### Sequence tables (R337) -/

/-- The header of a sequence table. -/
structure SeqHeader where
  npages : Nat
  maxp   : Nat
  total  : Nat
  sinks  : Nat
  recent : Nat
  dim    : Nat
  type   : ElemType
  free   : Nat
  deriving DecidableEq, Repr

/-- A header that keeps Table R337; none for one that breaks it. -/
def seqHeader (b : List Byte) : Option SeqHeader :=
  let size := if fieldOf b 0x11 1 = 0 then 4 else 2
  let np := fieldOf b 0 4
  let maxp := fieldOf b 4 4
  let dim := fieldOf b 0x10 1
  if decide (2 < fieldOf b 0x11 1) || maxp = 0 || decide (65536 < maxp) || decide (maxp < np) || dim = 0 ||
      decide (128 / size < dim) || fieldOf b 0x12 6 ≠ 0 || fieldOf b 0x20 32 ≠ 0 then none
  else
    some { npages := np, maxp := maxp, total := fieldOf b 8 4, sinks := fieldOf b 0xC 2, recent := fieldOf b 0xE 2,
           dim := dim, type := (ElemType.ofCode (fieldOf b 0x11 1)).getD .f32, free := fieldOf b 0x18 8 }

/-- ILLEGAL_LAYOUT of a sequence table. -/
def layout8 {α : Type} (table : Nat) : Eff α := trapEff (rep illegalLayout 8 (u64 table))

/-- Whether a remap entry's addresses are aligned. -/
def entryOk (data info : Nat) : Bool := data % 4096 == 0 && info % 256 == 0

/-! ### The reads of an attention step (R340) -/

/-- A lane-uniform pair, as State.uniform. -/
def State.uniformPair (s : State) (A : W64) (r : Nat) : Eff Nat :=
  let w := s.me
  let v (l : Nat) : Nat := (w.getV64 r l).toNat
  let v0 := v (lowest A)
  let same := maskWhere A fun l => v l == v0
  if same = A then pure v0 else trapEff (rep nonUniform 0 A same (u64 v0))

/-- Words read as single accesses of `n` bytes, from device memory alone where `dev` says so. -/
def State.readWords (s : State) (lane va n count : Nat) (dev : Bool) : Eff (List Byte) := do
  let ws ← (List.range count).mapM fun i => s.renderRead lane (va + n * i) n dev
  pure (ws.flatMap (bytesLE n))

/-- An included slot: its number, key row and value row widened to f32. -/
structure Slot where
  t : Nat
  k : List W32
  v : List W32
  deriving DecidableEq, Repr

/-- What an attention instruction has read. -/
structure Attn where
  lane  : Nat
  m     : W32
  l     : W32
  hdr   : SeqHeader
  info  : Nat
  slots : List Slot
  deriving DecidableEq, Repr

/-- A row of D elements widened exactly. -/
def widenRow (t : ElemType) (D : Nat) (b : List Byte) : List W32 :=
  (List.range D).map fun j => u32 (fmtF32.encode rne false ((fmtOf t).decode (fieldOf b (j * t.bytes) t.bytes)))

/-- The uniform operands, then the chain of reads, each made only when all before it is valid. -/
def State.attnReads (s : State) (f : Form) (A : W64) : Eff Attn := do
  let w := s.me
  let lane := lowest A
  let table ← s.uniformPair A f.b.toNat
  let index ← s.uniform A (.reg f.c.toNat)
  let limit ← s.uniform A (.reg (f.c.toNat + 1))
  let m ← s.uniform A (.reg (f.d.toNat + 1))
  let l ← s.uniform A (.reg (f.d.toNat + 2))
  let hb ← s.readWords lane table 8 8 false
  match seqHeader hb with
  | none => layout8 table
  | some h =>
    if decide (h.npages ≤ index) || decide (w.id.width < h.dim) then layout8 table
    else
      let eb ← s.readWords lane (table + 0x40 + 16 * index) 8 2 false
      let data := fieldOf eb 0 8
      let info := fieldOf eb 8 8
      if !entryOk data info then layout8 table
      else
        let mb ← s.readWords lane info 4 64 true
        let valid := fieldOf mb 0x80 2
        let inc := (List.range 16).filter fun t => valid.testBit t && decide (fieldOf mb (0x40 + 4 * t) 4 ≤ limit)
        let slots ← inc.mapM fun t => do
          let kb ← s.readWords lane (data + 128 * t) 4 32 true
          let vb ← s.readWords lane (data + 0x800 + 128 * t) 4 32 true
          pure { t := t, k := widenRow h.type h.dim kb, v := widenRow h.type h.dim vb : Slot }
        pure { lane := lane, m := u32 m, l := u32 l, hdr := h, info := info, slots := slots }

/-- The scores of the included slots: the tree sum of R42 over W lanes. -/
def Wave.score (w : Wave) (f : Form) (x : Attn) (k : List W32) : W32 :=
  let D := x.hdr.dim
  let xs := (List.range w.id.width).map fun j =>
    if j < D then (f32Mul (w.getV f.a.toNat j) ((k[j]?).getD 0)).toNat else 0x80000000
  let op (p q : Nat) : Nat := (f32Add (u32 p) (u32 q)).toNat
  u32 (((treeRed op (Nat.log2 w.id.width) xs).head?).getD 0)

def f32Max (x y : W32) : W32 := f32Enc rne (fvMax (f32 x) (f32 y))

/-- −infinity. -/
def negInf : W32 := 0xFF800000

def attnRegs (f : Form) : List Nat :=
  let d := f.d.toNat
  [d, d + 1, d + 2, f.a.toNat, f.b.toNat, f.b.toNat + 1, f.c.toNat, f.c.toNat + 1]

/-- `attn.step` (R341). -/
def execAttnStep (f : Form) (s : State) : Result State :=
  runVec (.attnStep f) f (fun A s => do
    if A = 0 then pure s
    else
      s.checkRegs (attnRegs f)
      let w := s.me
      let x ← s.attnReads f A
      if x.slots.isEmpty then pure s
      else
        let ss := x.slots.map fun e => (e, w.score f x e.k)
        let mn := ss.foldl (fun m e => f32Max m e.2) x.m
        if mn = negInf then pure s
        else
          let al := f32Exp2 (f32Sub x.m mn)
          let ps := ss.map fun e => (e.1, f32Exp2 (f32Sub e.2 mn))
          let ln := ps.foldl (fun l e => f32Add l e.2) (f32Mul x.l al)
          let y (j : Nat) : W32 :=
            ps.foldl (fun a e => f32Fma e.2 ((e.1.v[j]?).getD 0) a) (f32Mul (w.getV f.d.toNat j) al)
          let acc := (lanesMap A fun j => (y j).toNat).filter fun e => decide (e.1 < x.hdr.dim)
          let info (l : Nat) : Report := nfReport (u64 l) x.hdr.type.code 0 0 0
          s.checkFinite .f32 info acc
          s.checkFinite .f32 info [(x.lane, ln.toNat)]
          let s := s.vputs .f32 f.d.toNat acc
          let s := s.vputs .f32 (f.d.toNat + 1) (lanesMap A fun _ => mn.toNat)
          pure (s.vputs .f32 (f.d.toNat + 2) (lanesMap A fun _ => ln.toNat))) s

/-- `attn.mass` (R342): one ordered add for each included slot, under lane t's counter; every check precedes every add. -/
def execAttnMass (f : Form) (s : State) : Result State :=
  runVec (.attnMass f) f (fun A s => do
    if A = 0 then pure s
    else
      s.checkRegs (attnRegs f)
      let w := s.me
      let x ← s.attnReads f A
      if x.m = negInf || x.l = 0 then pure s
      else
        let need : Need := { kind := .add, read := false, write := true, peer := false, host := false }
        let els ← s.checkAccess s.cur false need 4 (x.slots.map fun e => (e.t, x.info + 4 * e.t))
          (s.checkAdds s.cur 16 (x.slots.map Slot.t))
        let adds := (els.zip x.slots).filterMap fun e =>
          match e.1.2.2 with
          | .dev pa => some (e.2.t, pa, f32Div (f32Exp2 (f32Sub (w.score f x e.2.k) x.m)) x.l)
          | _ => none
        pure (s.issueAdds s.cur adds)) s

/-! ### evict (R343, R344) -/

/-- What an engine of the trimmer needs. -/
def needTrimRead : Need := { kind := .load, read := true, write := false, peer := false, host := false }
def needTrimWrite : Need := { kind := .store, read := false, write := true, peer := false, host := false }

/-- A sequence table as the trimmer has read it: the header, the entries in use, the free list's cap and count. -/
structure SeqTable where
  hdr     : SeqHeader
  entries : List (Nat × Nat)
  cap     : Nat
  count   : Nat
  deriving DecidableEq, Repr

/-- The table in the bytes read: those of the header, of the free list's header and of the entries in use. -/
def tableOf (b : List Byte) : Option SeqTable :=
  (seqHeader (b.take 64)).map fun h =>
    { hdr := h
      entries := (List.range h.npages).map fun i => (fieldOf b (80 + 16 * i) 8, fieldOf b (88 + 16 * i) 8)
      cap := fieldOf b 64 4
      count := fieldOf b 68 4 }

/-- The checks of `evict` at issue, with the bytes they read. -/
def State.seqTable (s : State) (wi table : Nat) : Eff (List Byte) := do
  let c := s.ctxOf (s.waves.get wi)
  if table % 8 ≠ 0 then trapEff (pfReport table false 0 3 .load)
  let hb ← s.readSpan c needTrimRead 0 table 64
  match seqHeader hb with
  | none => layout8 table
  | some h =>
    let fb ← s.readSpan c needTrimRead 0 h.free 16
    if fieldOf fb 0 4 < fieldOf fb 4 4 + h.npages then trapEff (allotValue (u64 h.free))
    else
      let eb ← s.readSpan c needTrimRead 0 (table + 0x40) (16 * h.npages)
      let b := hb ++ fb ++ eb
      if (tableOf b).any fun t => t.entries.any fun e => !entryOk e.1 e.2 then layout8 table else pure b

/-- Ranges of an `evict` in the range-lock table, engine 5. -/
def State.evictLocks (s : State) (c : OpCtx) : List Lock :=
  match tableOf c.desc with
  | none => []
  | some t =>
    let ctx := (s.waves.get c.wi).id.ctx
    let lock (a n : Nat) : Lock := mkLock 5 false ctx a n true c.uid
    [lock c.caps.a.toNat (0x40 + 16 * t.hdr.maxp), lock t.hdr.free (16 + 16 * t.cap)] ++
      t.entries.flatMap fun e => [lock e.1 4096, lock e.2 256]

/-- A token: position, mass, key row, value row. -/
structure TokenRow where
  pos  : Nat
  mass : Nat
  k    : List Byte
  v    : List Byte
  deriving DecidableEq, Repr

/-- The tokens of a page in slot order. -/
def pageTokens (data info : List Byte) : List TokenRow :=
  ((List.range 16).filter fun t => (fieldOf info 0x80 2).testBit t).map fun t =>
    { pos := fieldOf info (0x40 + 4 * t) 4
      mass := fieldOf info (4 * t) 4
      k := (data.drop (128 * t)).take 128
      v := (data.drop (0x800 + 128 * t)).take 128 }

/-- Whether a token survives (R344). -/
def keeps (h : SeqHeader) (tau : Nat) (t : TokenRow) : Bool :=
  decide (t.pos < h.sinks) || decide ((h.total : Int) - h.recent ≤ t.pos) ||
  !(fmtF32.decode t.mass).lt (fmtF32.decode tau)

/-- Writes that fill page i with its survivors. -/
def packPage (e : Nat × Nat) (ts : List TokenRow) : List (Nat × List Byte) :=
  (ts.zipIdx.flatMap fun x =>
    [(e.1 + 128 * x.2, x.1.k), (e.1 + 0x800 + 128 * x.2, x.1.v), (e.2 + 4 * x.2, bytesLE 4 x.1.mass),
     (e.2 + 0x40 + 4 * x.2, bytesLE 4 x.1.pos)]) ++ [(e.2 + 0x80, bytesLE 2 (2 ^ ts.length - 1))]

/-- Ordered adds to the metadata of a table that have not been applied: all but those of the evicting kernel's own phase at
levels 1 and 2 (R343). -/
def State.addsPending (s : State) (wi : Nat) (t : SeqTable) : Bool :=
  let w := s.waves.get wi
  t.entries.any fun e =>
    match s.walk (s.ctxOf w) e.2 with
    | .leaf (.dev pa) _ _ => s.adds.any fun a =>
        (decide (s.levelOf w = 0) || a.kern ≠ w.id.kern) && decide (pa ≤ a.pa) && decide (a.pa < pa + 256)
    | _ => false

/-- The trimmer's pass over the pages: survivors packed, the rest freed. -/
def State.trim (s : State) (c : OpCtx) (t : SeqTable) : Eff State := do
  let w := s.waves.get c.wi
  let ci := w.id.ctx
  let cx := s.ctxs.get ci
  let toks ← t.entries.mapM fun e => do
    let data ← s.readSpan cx needTrimRead 0 e.1 4096
    let info ← s.readSpan cx needTrimRead 0 e.2 256
    pure (pageTokens data info)
  let kept := toks.flatten.filter (keeps t.hdr (c.caps.b.toNat % 2 ^ 32))
  let np := ceilDiv kept.length 16
  s.checkSpan cx needTrimWrite 0 c.caps.a.toNat 64
  if np < t.hdr.npages then s.checkSpan cx needTrimWrite 0 t.hdr.free (16 + 16 * (t.count + t.hdr.npages - np))
  (t.entries.take np).foldlM (fun _ e => do
    s.checkSpan cx needTrimWrite 0 e.1 4096
    s.checkSpan cx needTrimWrite 0 e.2 256) ()
  let writes := (t.entries.take np).zipIdx.flatMap fun e => packPage e.1 ((kept.drop (16 * e.2)).take 16)
  let s := writes.foldl (fun s x => (s.feWrite cx x.1 x.2).getD s) s
  let freed := t.entries.zipIdx.drop np
  let s := s.modCtx ci fun x =>
    { x with
      trimmed := x.trimmed ++ [(c.uid, np)]
      frames := freed.foldl (fun f e =>
        match s.walk cx e.1.1 with
        | .leaf (.dev pa) _ _ =>
          let tr : Trimmed :=
            { uid := c.uid, index := e.2, data := u64 e.1.1, info := u64 e.1.2, list := u64 t.hdr.free }
          f.put (pa / 4096) (.cooling 1 s.epoch (some tr))
        | _ => f) x.frames }
  pure s

/-- `evict`: the checks and the wait for ordered adds at issue; the trimming; then a wait until every freed page has left
Cooling and been appended. -/
def opEvict : LongOp where
  start := fun c s => do
    let b ← s.seqTable c.wi c.caps.a.toNat
    if (tableOf b).any fun t => s.addsPending c.wi t then waitEff .other
    else pure ({ c with desc := b }, s)
  locks := fun c s => s.evictLocks c
  finish := fun c s => do
    let ci := (s.waves.get c.wi).id.ctx
    let cx := s.ctxs.get ci
    match cx.trimmed.find? fun e => e.1 == c.uid, tableOf c.desc with
    | none, none => pure s
    | none, some t => do
      let s ← s.trim c t
      .error (.wait .evict (some s))
    | some (_, np), _ =>
      let out := cx.frames.any fun e =>
        match e.2 with
        | .cooling _ _ (some x) => x.uid == c.uid
        | _ => false
      if out || s.feHeld cx c.caps.a.toNat 4 then waitEff .evict
      else
        let s := (s.feWrite cx c.caps.a.toNat (bytesLE 4 np)).getD s
        pure (s.modCtx ci fun x => { x with trimmed := x.trimmed.filter fun e => e.1 != c.uid })

def execEvict (f : Form) (s : State) : Result State := runLong (.evict f) f opEvict s

/-- `pgq` (R345): the least counter of the context's dies, or the epoch. -/
def execPgq (f : Form) (s : State) : Result State :=
  runCtl (.pgq f) (fun s =>
    let v := if f.optBit 0 then s.epoch else s.quiet (s.ctxOf s.me)
    pure (s.putS s.cur f.d.toNat (u64 v))) s

end Sys2Proof.Machine
end

