-- ==== Sys2Proof/Machine/Raster.lean ====
section
/-!
DEFINITION. Rasterisation, interpolation, edge sampling and their adjoints (R375–R377, R386, R389).
-/
namespace Sys2Proof.Machine

/-! ### rast (R375, R376) -/

/-- A raster descriptor. -/
structure RasterDesc where
  frag : Nat
  cap  : Nat
  x0   : Nat
  y0   : Nat
  x1   : Nat
  y1   : Nat
  ok   : Bool
  deriving DecidableEq, Repr, Inhabited

def rasterDesc (b : List Byte) : RasterDesc :=
  let f := fieldOf b
  { frag := f 0 8, cap := f 8 4, x0 := f 0x10 2, y0 := f 0x12 2, x1 := f 0x14 2, y1 := f 0x16 2
    ok := f 0 8 % 16 == 0 && decide (1 ≤ f 8 4) && decide (f 8 4 ≤ 2 ^ 24) && decide (f 0x10 2 < f 0x14 2) &&
      decide (f 0x12 2 < f 0x16 2) && f 0x0C 4 == 0 && f 0x18 8 == 0 }

/-- Pages of a range, as single bytes to check. -/
def pagesOf (a n : Nat) : List (Nat × Nat) :=
  if n = 0 then [] else (List.range ((a + n - 1) / 4096 - a / 4096 + 1)).map fun k => (0, (max a ((a / 4096 + k) * 4096)) % 2 ^ 64)

/-- A fragment record (R375). -/
def fragment (t : ScreenTri) (index x y cov : Nat) : List Byte :=
  bytesLE 2 x ++ bytesLE 2 y ++ bytesLE 2 cov ++ bytesLE 2 (if t.area < 0 then 1 else 0) ++ bytesLE 4 t.prim ++
  bytesLE 4 index

/-- Pixels of the scissor in the order of R376, 4×4 blocks row-major, limited to those the triangle can cover. -/
def blockPixels (r : RasterDesc) (t : ScreenTri) : List (Nat × Nat) :=
  let lo (g : Nat → Int) : Nat := ((min (g 0) (min (g 1) (g 2))) / 256).toNat
  let hi (g : Nat → Int) : Nat := ((max (g 0) (max (g 1) (g 2))) / 256).toNat + 1
  let x0 := max r.x0 (lo t.X) / 4
  let x1 := ceilDiv (min r.x1 (hi t.X)) 4
  let y0 := max r.y0 (lo t.Y) / 4
  let y1 := ceilDiv (min r.y1 (hi t.Y)) 4
  (List.range (y1 - y0)).flatMap fun by_ => (List.range (x1 - x0)).flatMap fun bx =>
    (List.range 16).filterMap fun k =>
      let x := 4 * (x0 + bx) + k % 4
      let y := 4 * (y0 + by_) + k / 4
      if r.x0 ≤ x && x < r.x1 && r.y0 ≤ y && y < r.y1 then some (x, y) else none

/-- Fragments, rejected triangles and overflow so far. -/
structure RastAcc where
  frags : List (List Byte)
  rej   : Nat
  ovf   : Bool
  deriving DecidableEq, Repr, Inhabited

/-- One triangle of `rast`. -/
def rastTri (f : Form) (r : RasterDesc) (index : Nat) (t : ScreenTri) (a : RastAcc) : RastAcc :=
  if !t.valid then { a with rej := a.rej + 1 }
  else if t.area = 0 || (f.optBit 2 && t.area < 0) || (f.optBit 3 && 0 < t.area) then a
  else
    let new := (blockPixels r t).filterMap fun p =>
      let cov := t.coverage (f.optBits 1 0) p.1 p.2
      if cov = 0 then none else some (fragment t index p.1 p.2 cov)
    let room := r.cap - a.frags.length
    { a with frags := a.frags ++ new.take room, ovf := decide (room < new.length) }

/-- The triangles in order; none is examined after an overflow. -/
def rastAll (f : Form) (r : RasterDesc) (read : Nat → Eff ScreenTri) : Nat → Nat → RastAcc → Eff RastAcc
  | 0, _, a => pure a
  | n + 1, k, a =>
    if a.ovf then pure a
    else do
      let t ← read k
      rastAll f r read n (k + 1) (rastTri f r k t a)

/-- The checks of R376, made at issue, and the descriptor they read, with the frames of
both ranges. -/
def State.checkRast (s : State) (c : OpCtx) : Eff (List Byte) := do
  let desc := c.caps.a.toNat
  let base := c.caps.b.toNat
  let n := c.caps.c.toNat
  let cx := s.ctxOf (s.waves.get c.wi)
  let els ← s.checkAccess c.wi false { needLoad with peer := false } 8 ((List.range 4).map fun k => (0, (desc + 8 * k) % 2 ^ 64))
  let ws ← els.mapM fun e => s.readAt e.2.2 8
  let bytes := ws.flatMap fun v => bytesLE 8 v
  let r := rasterDesc bytes
  if !r.ok || decide (2 ^ 24 < n) then trapEff (layout10 desc)
  else if base % 64 ≠ 0 then trapEff (pfReport base false 0 3 .load)
  else do
    let ts ← s.checkGlobals cx { needLoad with peer := false, host := false } 1 (pagesOf base (64 * n))
    let fs ← s.checkGlobals cx { needStore with peer := false, host := false } 1 (pagesOf r.frag (16 * r.cap))
    pure (bytes ++ (ts ++ fs).flatMap fun e => bytesLE 8 (devOf e / 4096 * 4096))

/-- The frames of the two ranges as they were translated at issue (R329, R376): of page k of the triangles, or of the buffer. -/
def rastFrame (c : OpCtx) (frag : Bool) (k : Nat) : Nat :=
  fieldOf c.desc (32 + 8 * (k + if frag then (pagesOf c.caps.b.toNat (64 * c.caps.c.toNat)).length else 0)) 8
def rastAddr (c : OpCtx) (frag : Bool) (base a : Nat) : Nat := rastFrame c frag (a / 4096 - base / 4096) + a % 4096

/-- `rast` (R376): triangles a source range, the fragment buffer a destination range, engine 6. -/
def opRast : LongOp where
  start := fun c s => do
    let desc ← s.checkRast c
    pure ({ c with desc }, s)
  locks := fun c s =>
    let r := rasterDesc c.desc
    let ctx := (s.waves.get c.wi).id.ctx
    [mkLock 6 false ctx c.caps.b.toNat (64 * c.caps.c.toNat) false c.uid, mkLock 6 false ctx r.frag (16 * r.cap) true c.uid]
  finish := fun c s => do
    let r := rasterDesc c.desc
    let base := c.caps.b.toNat
    let rd (a k : Nat) : Eff Nat := s.readAt (.dev (rastAddr c false base a)) k
    let acc ← rastAll c.f r (fun k => readTri rd (base + 64 * k)) c.caps.c.toNat 0 { frags := [], rej := 0, ovf := false }
    let s := acc.frags.zipIdx.foldl (fun s e => s.writeDev (cellsAt (rastAddr c true r.frag (r.frag + 16 * e.2)) e.1)) s
    pure (s.modWave c.wi fun w => w.setS c.f.d.toNat
      (u64 (acc.frags.length + 2 ^ 32 * acc.rej + (if acc.ovf then 2 ^ 63 else 0))))

def execRast (f : Form) (s : State) : Result State := runLong (.rast f) f opRast s

/-! ### bary (R377) -/

/-- The triangle a lane names, valid or not. -/
def State.laneTri (s : State) (f : Form) (l : Nat) : Eff ScreenTri := do
  let w := s.me
  let a := ((w.getV64 f.b.toNat l).toNat + 64 * ((w.getV f.c.toNat l).toNat % 2 ^ 24)) % 2 ^ 64
  s.renderAlign l a 64 true
  readTri (fun a n => s.renderRead l a n true) a

/-- The index of that triangle. -/
def Wave.triIndex (w : Wave) (f : Form) (l : Nat) : Nat := (w.getV f.c.toNat l).toNat % 2 ^ 24

/-- The point a lane's pixel and the form's sample give. -/
def Wave.pixelPoint (w : Wave) (f : Form) (l : Nat) : Int × Int :=
  let x := (w.getV f.a.toNat l).toNat
  samplePoint (x % 2 ^ 16) (x / 2 ^ 16) (f.optBits 4 0)

/-- Attribute a(k, j) of a triangle. -/
def State.attr (s : State) (l : Nat) (t : ScreenTri) (k j : Nat) : Eff XR := do
  let v ← s.renderRead l (t.attr + 4 * (k * t.nattr + j)) 4 true
  pure (f32X v)

/-- E_k · iw_k at a point, k = 0, 1, 2. -/
def ScreenTri.coeffs (t : ScreenTri) (p : Int × Int) : List Rational :=
  [0, 1, 2].map fun k => (Rational.ofInt (t.E k p.1 p.2)).mul (t.iw k)

/-- One lane of `bary`: its results. -/
def State.baryLane (s : State) (f : Form) (l : Nat) : Eff (List Nat) := do
  let w := s.me
  let t ← s.laneTri f l
  let ch := (w.getV f.c.toNat l).toNat / 2 ^ 24
  let n := f.optBits 8 6 + 1
  let bad := !t.valid || (if f.optBit 5 then decide (t.nattr < ch + n) else decide (ch ≠ 0))
  if bad then trapEff (layout11 l (w.triIndex f l))
  else
    let cs := t.coeffs (w.pixelPoint f l)
    let D := cs.foldl Rational.add Rational.zero
    if f.optBit 5 then
      (List.range n).mapM fun j => do
        let terms ← cs.zipIdx.mapM fun c => do
          let a ← s.attr l t c.2 (ch + j)
          pure (if c.1.isZero then XR.fin Rational.zero else XR.scale (c.1.div D) a)
        pure (if D.isZero then fmtF32.nan else (XR.sum terms).f32)
    else pure (cs.map fun c => if D.isZero then fmtF32.nan else (XR.fin (c.div D)).f32)

def execBary (f : Form) (s : State) : Result State :=
  runVec (.bary f) f (fun A s => do
    let n := if f.optBit 5 then f.optBits 8 6 + 1 else 3
    s.checkRegs (regRange f.d.toNat n ++ [f.a.toNat, f.b.toNat, f.b.toNat + 1, f.c.toNat])
    let rs ← lanesEff A (s.baryLane f)
    s.checkRender 0 rs
    pure (s.putRegs f.d.toNat rs)) s

/-! ### baryadj (R386) -/

/-- Pixel units: a 1/256-pixel coordinate. -/
def pix (n : Int) : Rational := Rational.mk' n 256

/-- The derivatives of e_k in x_m and y_m at p, for an edge i→j that contains m. -/
def ScreenTri.dEdge (t : ScreenTri) (k m : Nat) (p : Int × Int) : Rational × Rational :=
  let (i, j) := edgeOf k
  if m = i then (pix (t.Y j - p.2), pix (p.1 - t.X j))
  else if m = j then (pix (p.2 - t.Y i), pix (t.X i - p.1))
  else (Rational.zero, Rational.zero)

/-- One lane of `baryadj`: address and value of each add, in order. -/
def State.baryadjLane (s : State) (f : Form) (l : Nat) : Eff (List (Nat × Nat)) := do
  let w := s.me
  let t ← s.laneTri f l
  let ch := (w.getV f.c.toNat l).toNat / 2 ^ 24
  let n := f.optBits 8 6 + 1
  let p := w.pixelPoint f l
  -- in pixel units e_k = E_k / 65,536
  let e (k : Nat) : Rational := Rational.mk' (t.E k p.1 p.2) 65536
  let D := [0, 1, 2].foldl (fun a k => a.add ((e k).mul (t.iw k))) Rational.zero
  if !t.valid || D.isZero || decide (t.nattr < ch + n) then trapEff (layout11 l (w.triIndex f l))
  else
    let as_ ← (List.range n).mapM fun j => [0, 1, 2].mapM fun k => s.attr l t k (ch + j)
    s.renderAlign l t.grad 64 true
    let gattr ← s.renderRead l (t.grad + 0x30) 8 true
    let g (j : Nat) : XR := f32X (w.getV (f.d.toNat + j) l).toNat
    let a (k j : Nat) : XR := ((as_[j]?.getD [])[k]?).getD .nan
    let v (j : Nat) : XR := XR.sum ([0, 1, 2].map fun k => XR.scale (((e k).mul (t.iw k)).div D) (a k j))
    let js := List.range n
    let c (k : Nat) : XR := XR.sum (js.map fun j => (XR.scale ((t.iw k).div D) (g j)).mul ((a k j).sub (v j)))
    let giw (k : Nat) : XR := XR.sum (js.map fun j => (XR.scale ((e k).div D) (g j)).mul ((a k j).sub (v j)))
    let sumE (m : Nat) (pick : Rational × Rational → Rational) : XR :=
      XR.sum (([0, 1, 2].filter fun k => k ≠ m).map fun k => XR.scale (pick (t.dEdge k m p)) (c k))
    let first := [0, 1, 2].flatMap fun m =>
      [(t.grad + 16 * m, (sumE m Prod.fst).f32), (t.grad + 16 * m + 4, (sumE m Prod.snd).f32),
       (t.grad + 16 * m + 8, (giw m).f32)]
    let rest := js.flatMap fun j => [0, 1, 2].map fun k =>
      (gattr + 4 * (k * t.nattr + ch + j), (XR.scale (((e k).mul (t.iw k)).div D) (g j)).f32)
    pure (first ++ rest)

/-- Adds of all lanes, lane by lane. -/
def flattenAdds (rs : List (Nat × List (Nat × Nat))) : List (Nat × Nat × Nat) :=
  rs.flatMap fun e => e.2.map fun a => (e.1, a.1, a.2)

def execBaryadj (f : Form) (s : State) : Result State :=
  runVec (.baryadj f) f (fun A s => do
    s.checkRegs (regRange f.d.toNat (f.optBits 8 6 + 1) ++ [f.a.toNat, f.b.toNat, f.b.toNat + 1, f.c.toNat])
    let rs ← lanesEff A (s.baryadjLane f)
    let go ← s.renderAdds (flattenAdds rs)
    pure (go s)) s

/-! ### esmp (R389) -/

/-- What one lane of `esmp` finds: the triangle, its edge, s, and q. -/
structure EdgeSample where
  t  : ScreenTri
  i  : Nat
  j  : Nat
  s  : Rational
  qx : Rational
  qy : Rational
  deriving DecidableEq, Repr, Inhabited

def State.esmpLane (s : State) (f : Form) (l : Nat) : Eff EdgeSample := do
  let w := s.me
  let t ← s.laneTri f l
  let c := (w.getV f.c.toNat l).toNat
  let x := f32X (w.getV f.a.toNat l).toNat
  let e := c / 2 ^ 24 % 4
  let inRange := x.isFin && Rational.zero.le x.rat && x.rat.le Rational.one
  if !t.valid || t.area = 0 || e = 3 || decide (c / 2 ^ 26 ≠ 0) || !inRange then trapEff (layout11 l (w.triIndex f l))
  else
    let (i, j) := edgeOf e
    let sg : Int := if t.area < 0 then -1 else 1
    pure { t, i, j, s := x.rat, qx := pix (sg * (t.Y j - t.Y i)), qy := pix (sg * (t.X i - t.X j)) }

/-- The four probe results. -/
def EdgeSample.probe (e : EdgeSample) : List Nat :=
  let at_ (g : Nat → Int) : Rational := (pix (g e.i)).add (e.s.mul (pix (g e.j - g e.i)))
  let px := at_ e.t.X
  let py := at_ e.t.Y
  let absQ (q : Rational) : Rational := if q.n < 0 then q.neg else q
  let alongX := (absQ e.qy).le (absQ e.qx)
  let unit (q : Rational) : Rational := if q.n < 0 then Rational.mk' (-1) 256 else Rational.mk' 1 256
  let dx := if alongX then unit e.qx else Rational.zero
  let dy := if alongX then Rational.zero else unit e.qy
  [px.sub dx, py.sub dy, px.add dx, py.add dy].map fun q => (XR.fin q).f32

/-- The four adds of the term mode. -/
def EdgeSample.term (e : EdgeSample) (delta : XR) : List (Nat × Nat) :=
  let r := Rational.one.sub e.s
  let v (k q : Rational) : Nat := ((XR.scale k delta).mul (.fin q)).f32
  [(e.t.grad + 16 * e.i, v r e.qx), (e.t.grad + 16 * e.i + 4, v r e.qy),
   (e.t.grad + 16 * e.j, v e.s e.qx), (e.t.grad + 16 * e.j + 4, v e.s e.qy)]

def execEsmp (f : Form) (s : State) : Result State :=
  runVec (.esmp f) f (fun A s => do
    let w := s.me
    let regs := [f.a.toNat, f.b.toNat, f.b.toNat + 1, f.c.toNat]
    if f.optBit 0 then
      s.checkRegs (f.d.toNat :: regs)
      let rs ← lanesEff A fun l => do
        let e ← s.esmpLane f l
        renderAligned l e.t.grad 64
        pure (e.term (f32X (w.getV f.d.toNat l).toNat))
      let go ← s.renderAdds (flattenAdds rs)
      pure (go s)
    else
      s.checkRegs (regRange f.d.toNat 4 ++ regs)
      let rs ← lanesEff A fun l => do
        let e ← s.esmpLane f l
        pure e.probe
      s.checkRender 0 rs
      pure (s.putRegs f.d.toNat rs)) s

end Sys2Proof.Machine
end

