-- ==== Sys2Proof/Machine/TileOps.lean ====
section
/-!
DEFINITION. Accumulator tiles, weight planes, sessions and operands of the matrix engine as shared operations
(R37–R41, R275–R286), and the block arithmetic.
-/
namespace Sys2Proof.Machine

/-! ### AX48 arithmetic (R33, R37–R41) -/

def ax (x : Nat) : FV := fmtAx48.decode x

/-- AX48 addition (R33). -/
def axAdd (x : Nat) (y : FV) : Nat := fmtAx48.encode rne false ((ax x).add false y)

/-- floor(log2) of a non-zero magnitude. -/
def FV.top : FV → Int
  | .fin _ m e => (Nat.log2 m : Int) + e
  | _ => 0

/-- A product in units of 2^g, toward zero, and whether bits were lost. -/
def truncTo (g : Int) : FV → Int × Bool
  | .fin n m e =>
    let (q, r, _) := shiftParts m (e - g)
    ((if n then -(q : Int) else q), r != 0)
  | _ => (0, false)

/-- The block sum of exact products (R37). -/
def blockSum (ps : List FV) : FV :=
  let inf (n : Bool) : Bool := ps.any fun p => p == .inf n
  if ps.any FV.isNan || (inf false && inf true) then .nan
  else if inf false then .inf false
  else if inf true then .inf true
  else
    let nz := ps.filter fun p => !p.isZero
    match nz with
    | [] => .fin (ps.all FV.sign) 0 0
    | p :: r =>
      let g := r.foldl (fun E x => max E x.top) p.top - 47
      let ts := nz.map (truncTo g)
      let S := ts.foldl (fun n t => n + t.1) (0 : Int)
      if S = 0 then .fin false 0 0
      else ax (fmtAx48.encode { away := ts.any fun t => t.2 } false (fvOfInt S g false))

/-- The exact integer sum of a block of an integer form (R38). -/
def blockInt (ps : List FV) : FV := fvOfInt (ps.foldl (fun n p => n + p.scaled 0) 0) 0 false

/-- One product's update of a cell of `mma.sr` (R41): 0 min-plus, 1 max-times, 2 or-and. -/
def semiCell (sem : Nat) (acc : Nat) (a b : FV) : Nat :=
  if sem = 2 then
    if !(ax acc).isZero || (!a.isZero && !b.isZero) then fmtAx48.encode rne false (.fin false 1 0) else 0
  else
    let v := ax (fmtAx48.encode rne false (if sem = 0 then a.add false b else a.mul b))
    if (ax acc).isNan || v.isNan then fmtAx48.nan
    else if (if sem = 0 then v.lt (ax acc) else (ax acc).lt v) then fmtAx48.encode rne false v else acc

/-- round_ax48(P · 2^k, 0), added to an entry (R40). -/
def scaleAdd (z p : Nat) (k : Int) : Nat :=
  axAdd z (ax (fmtAx48.encode rne false ((ax p).mul (.fin false 1 k))))

/-! ### Tiles (R275–R278) -/

/-- ALLOTMENT for a tile, or the physical tile a name stands for, on the core of a wave: an own tile from the grant on, a
pinned one for any wave there (R157, R275, R278). -/
def State.tileOf (s : State) (wi : Nat) (pinned : Bool) (n : Nat) : Eff Nat :=
  let w := s.waves.get wi
  if pinned then
    match (s.cores.get (coreOf wi)).owner.find fun _ o => o == .pinned n with
    | some (t, _) => pure t
    | none => trapEff (allotTile true n)
  else if !(s.gangOf w).granted || w.tiles.get n = 0 then trapEff (allotTile false n) else pure (w.tiles.get n - 1)

/-- The entries of a physical tile, in row-major order. -/
def State.tileEntries (s : State) (core t : Nat) : List Nat :=
  (List.range 1024).map fun q => ((s.cores.get core).entries.get (1024 * t + q)).toNat

/-- Granules of a tile in the accumulator store (log entry 16). -/
def accGranule (core t q : Nat) : Nat := core * 2 ^ 16 + t * 192 + 6 * q / 32

/-- A tile read by an operation; uncorrectable data stops it (R111, R430). -/
def State.readTile (s : State) (core t : Nat) : Eff (List Nat) :=
  match s.dv.bad.find? fun b => b.1 == .accumulator && decide (accGranule core t 0 ≤ b.2) &&
      decide (b.2 < accGranule core t 0 + 192) with
  | some b => .error (.uncorr (32 * b.2))
  | none => pure (s.tileEntries core t)

/-- A whole tile written; its granules are good again (R430). -/
def State.putTile (s : State) (core t : Nat) (out : List Nat) : State :=
  let s := s.modCore core fun c =>
    { c with entries := c.entries.putAll (out.zipIdx.map fun e => (1024 * t + e.2, BitVec.ofNat 48 e.1)) }
  match s.dv.bad with
  | [] => s
  | bad => { s with dv := { s.dv with bad := bad.filter fun b =>
      !(b.1 == .accumulator && decide (accGranule core t 0 ≤ b.2) && decide (b.2 < accGranule core t 0 + 192)) } }

def zeroTile : List Nat := List.replicate 1024 0

/-! ### The order of operations (R285) -/

/-- Control-stream operations of the matrix engine and the accumulator store. -/
def isMatrix : Instr → Bool
  | .ldw _ | .mma _ | .mmaSp _ | .mmaSr _ | .scac _ | .zdrain _ => true
  | _ => false

/-- Members of a captured crew; none where no crew is named. -/
def crewOf (x : W64) : List Nat :=
  let n := x.toNat % 8
  if n < 2 then [] else (List.range n).map fun i => nbits x.toNat (15 + 8 * i) (8 + 8 * i)

/-- The wave in whose own view a matrix operation names its destination: member m₀ of a crew, else the wave itself (R275). -/
def State.destWave (s : State) (wi : Nat) (crew : W64) : Nat :=
  match crewOf crew with
  | m :: _ => ((s.gangOf (s.waves.get wi)).waves[m]?).getD wi
  | [] => wi

/-- Keys of the tile a name stands for: its physical number where it exists, and a pinned name's own, 256 up. -/
def State.tileKeys (s : State) (wi : Nat) (pinned : Bool) (n : Nat) : List Nat :=
  (match s.tileOf wi pinned n with
   | .ok t => [t]
   | .error _ => []) ++ if pinned then [256 + n] else []

/-- Keys of the tiles an operation names. -/
def State.opTiles (s : State) (wi : Nat) (i : Instr) (caps : Caps) : List Nat :=
  let dest := s.destWave wi caps.crew
  match i with
  | .mma f | .mmaSp f | .mmaSr f => s.tileKeys dest (f.optBit 6) f.d.toNat
  | .scac f => s.tileKeys dest (f.optBit 6) f.d.toNat ++ s.tileKeys wi (f.optBit 7) f.a.toNat
  | .zdrain f => s.tileKeys wi (f.optBit 6) f.a.toNat
  | _ => []

/-- Whether a pending matrix operation of a wave, issued before `taken` more tokens were, names a tile. -/
def State.tileBusy (s : State) (wi taken : Nat) (keys : List Nat) : Bool :=
  (s.waves.get wi).ctl.ops.any fun o =>
    isMatrix o.instr && decide (o.mark ≤ taken) && (s.opTiles wi o.instr o.caps).any fun t => keys.contains t

/-- Operations that use the planes (R280). -/
def usesPlanes : Instr → Bool
  | .ldw _ | .mma _ | .mmaSp _ | .mmaSr _ => true
  | _ => false

/-- Whether an operation must wait for an earlier one of its wave: one that names a tile of its own (R285), or, between
operations on the planes, one that has reached the engine (R280). -/
def State.behind (s : State) (wi uid : Nat) (i : Instr) (caps : Caps) : Bool :=
  let mine := s.opTiles wi i caps
  (s.waves.get wi).ctl.ops.any fun o =>
    decide (o.uid < uid) && isMatrix o.instr &&
      ((usesPlanes i && usesPlanes o.instr && !s.unreached wi o) ||
       (s.opTiles wi o.instr o.caps).any fun t => mine.contains t)

/-- A wave's matrix instructions act on a tile, and on the planes, in issue order. -/
def State.matrixTurn (s : State) (c : OpCtx) : Eff Unit := if s.behind c.wi c.uid c.i c.caps then waitEff .other else pure ()

/-! ### Sessions (R280) -/

/-- The owner of the session of an operation. -/
def State.sessionOwner (s : State) (c : OpCtx) : Owner :=
  let g := (s.waves.get c.wi).id.gang
  if (crewOf c.caps.crew).isEmpty then { gang := g, crew := 0, wave := c.wi } else { gang := g, crew := c.caps.crew, wave := 0 }

/-- Whether an owner was terminated and has no operation left for its session (R280): the session of a wave is not that of
another wave of its gang. -/
def State.ownerGone (s : State) (o : Owner) : Bool :=
  let g := s.gangs.get o.gang
  let his (w : Nat) (p : PendingOp) : Bool :=
    usesPlanes p.instr && if o.crew = 0 then decide (w = o.wave) && (crewOf p.caps.crew).isEmpty else p.caps.crew == o.crew
  g.dead && g.waves.all fun w => !(s.waves.get w).ctl.ops.any fun p => his w p

/-- The session is the operation's own, opened where none is; else its owner waits its turn. -/
def State.openSession (s : State) (c : OpCtx) : Eff State :=
  let core := coreOf c.wi
  let cs := s.cores.get core
  let cs := { cs with session := cs.session.filter fun o => !s.ownerGone o, waiting := cs.waiting.filter fun o => !s.ownerGone o }
  let o := s.sessionOwner c
  let queued : State := if cs.waiting.contains o then s else s.modCore core fun x => { x with waiting := x.waiting ++ [o] }
  let turn := match cs.waiting with
    | [] => true
    | h :: _ => h == o
  match cs.session with
  | some x =>
    if x = o then pure s else .error (.wait .session (if cs.waiting.contains o then none else some queued))
  | none =>
    if turn then
      pure (s.modCore core fun x =>
        { x with
          session := some o
          opened := s.own
          waiting := x.waiting.filter fun y => y != o
          front := { x.front with loaded := false }
          shadow := { x.shadow with loaded := false } })
    else .error (.wait .session (if cs.waiting.contains o then none else some queued))

/-- A trap inside a session leaves it open (R280). -/
def inSession {α : Type} (s : State) (x : Eff α) : Eff α :=
  match x with
  | .error (.trap r) => .error (.trapIn r s)
  | x => x

/-! ### Operands in local memory (R281, R282) -/

/-- An operand reference: row stride, element offset, scale stride, scale offset. -/
structure OpRef where
  stride : Nat
  off    : Nat
  sstride : Nat
  soff   : Nat
  deriving DecidableEq, Repr

def opRef (x y : W64) : OpRef :=
  { stride := x.toNat / 2 ^ 32, off := x.toNat % 2 ^ 32, sstride := y.toNat / 2 ^ 32, soff := y.toNat % 2 ^ 32 }

/-- Element size for alignment. -/
def elemSize (t : ElemType) : Nat := if t = .b32 then 4 else max 1 (t.width / 8)

/-- A local range: offset and length. -/
abbrev LRange := Nat × Nat

/-- The 32 rows of an operand; sums of offsets are exact (R12), and past the local space no region holds them. -/
def OpRef.rows (r : OpRef) (t : ElemType) : List LRange :=
  (List.range 32).map fun i => (r.off + i * r.stride, 4 * elemBits t)

/-- The scale bytes of an operand under a layout: one, or one a row. -/
def OpRef.scales (r : OpRef) (layout : Nat) : List LRange :=
  match layout with
  | 1 => [(r.soff, 1)]
  | 2 => (List.range 32).map fun i => (r.soff + i * r.sstride, 1)
  | _ => []

/-- Region breaches, in order (R282). -/
def State.checkRanges (s : State) (wi : Nat) (rs : List LRange) : Eff Unit :=
  match rs.findSome? fun r => s.localBreach wi r.1 r.2 with
  | some off => trapEff (allotLocal off)
  | none => pure ()

/-- The first misaligned element: of row 0, or of row 1 where only the stride is misaligned. -/
def checkAlign (off stride al : Nat) : Eff Unit :=
  if off % al ≠ 0 then trapEff (pfReport off true 0 3 .load)
  else if stride % al ≠ 0 then trapEff (pfReport (off + stride) true 0 3 .load)
  else pure ()

/-- Locks on the bytes an operation reads, where they exist. -/
def State.readLocks (s : State) (c : OpCtx) (engine : Nat) (dst : Bool) (rs : List LRange) : List Lock :=
  if rs.any fun r => (s.localBreach c.wi r.1 r.2).isSome then []
  else rs.map fun r => mkLock engine true (s.spaceKey true c.wi r.1) r.1 r.2 dst c.uid

/-- The ranges read, each as a little-endian number. -/
def State.readRanges (s : State) (wi : Nat) (rs : List LRange) : Eff (List Nat) :=
  rs.mapM fun r =>
    match s.readLocalEff wi r.1 r.2 with
    | .ok v => pure v
    | .error g => .error (.uncorr g)

/-- Bits of position p of a row. -/
def elemAt (t : ElemType) (row p : Nat) : Nat := row >>> (elemBits t * p) % 2 ^ elemBits t

/-- A 32 × 32 block from its rows: natural, entry (r, p) as stored; transposing, entry (p, r). -/
def blockOf (t : ElemType) (tr : Bool) (rows : List Nat) : List (List Nat) :=
  if tr then (List.range 32).map fun i => rows.map fun row => elemAt t row i
  else rows.map fun row => (List.range 32).map fun p => elemAt t row p

/-- Row or column i's scale byte under a layout; 0 without one. -/
def scaleAt (bytes : List Nat) (i : Nat) : Nat :=
  match bytes with
  | [] => 0
  | [b] => b
  | _ => (bytes[i]?).getD 0

/-- ILLEGAL_LAYOUT (Table 12.4). -/
def layoutTrap {α : Type} (code : Nat) (info1 : Nat := 0) : Eff α := trapEff (rep illegalLayout (u64 code) (u64 info1))

/-- An e4m3 or e5m2 block with a typed scale byte (R25). -/
def checkScales (t : ElemType) (bytes : List Nat) : Eff Unit :=
  match bytes.find? fun b => t != .q4 && decide (b / 64 ≠ 0) with
  | some b => layoutTrap 3 b
  | none => pure ()

/-- The value of an element. -/
def elemValue (t : ElemType) (qt x : Nat) : FV :=
  if t = .q4 then q4Value qt x else if t = .b32 then .fin false x 0 else typedValue t x

/-! ### Planes (R279) -/

/-- A plane's bits at k, j, and the weight of a column. -/
def Plane.at_ (p : Plane) (k j : Nat) : Nat := (p.w.get (32 * k + j)).toNat

/-- A plane as `ldw` leaves it. -/
def Plane.load (p : Plane) (t : ElemType) (cols : List (List Nat)) (qts : Option (List Nat)) : Plane :=
  { w := Tab.putAll [] (cols.zipIdx.flatMap fun col => col.1.zipIdx.map fun e => (32 * e.2 + col.2, u32 e.1))
    type := t
    blocked := qts.isSome
    qt := match qts with
      | some l => Tab.putAll [] (l.zipIdx.map fun e => (e.2, e.1))
      | none => p.qt
    loaded := true }

/-- Column j's q4 type, where the plane was loaded under a layout. -/
def Plane.colType (p : Plane) (j : Nat) : Nat := if p.blocked then p.qt.get j else 0

/-! ### Sparse metadata (Table 12.5) -/

/-- Metadata bytes of a column. -/
def metaBytes (pattern : Nat) : Nat := ([4, 2, 6, 1][pattern]?).getD 4

/-- The K index of each slot of a column; none for invalid metadata. -/
def metaSlots (pattern raw : Nat) : Option (List Nat) :=
  let groups (n w gk : Nat) : Option (List Nat) :=
    let gs := (List.range (32 / gk)).map fun g => (List.range n).map fun i => raw >>> ((g * n + i) * w) % 2 ^ w
    if gs.all fun ks => (ks.zip ks.tail).all fun e => decide (e.1 < e.2) then
      some (gs.zipIdx.flatMap fun e => e.1.map fun x => gk * e.2 + x)
    else none
  match pattern with
  | 0 => groups 2 2 4
  | 1 => groups 1 2 4
  | 2 => groups 4 3 8
  | _ =>
    if raw / 4 ≠ 0 then none
    else some ((List.range 2).flatMap fun h => if raw.testBit h then (List.range 16).map (· + 16 * h) else [])

/-- The metadata of the 32 columns, one vector (R282); and each column's of it. -/
def metaVector (pattern off : Nat) : LRange := (off, 32 * metaBytes pattern)
def metaColumns (pattern x : Nat) : List Nat :=
  (List.range 32).map fun j => x / 256 ^ (j * metaBytes pattern) % 256 ^ metaBytes pattern

/-- The decompressed values of a column: unnamed K take +0 (R294). -/
def sparseColumn (vals : List FV) (slots : List Nat) : List FV :=
  (List.range 32).map fun k =>
    match slots.findIdx? fun x => x == k with
    | some t => (vals[t]?).getD (.fin false 0 0)
    | none => .fin false 0 0

end Sys2Proof.Machine
end

