-- ==== Sys2Proof/Machine/Tile.lean ====
section
/-!
DEFINITION. The matrix engine and the accumulator store: `ldw`, `mma` and its forms, `scac`, `zclr`, `zdrain` and `zcopy`
(R283, R284, R287–R300).
-/
namespace Sys2Proof.Machine

/-! ### ldw (R292) -/

/-- The ranges an `ldw` reads. -/
def ldwRanges (c : OpCtx) : List LRange × List LRange × List LRange :=
  let r := opRef c.caps.a c.caps.a1
  (r.rows c.f.type, r.scales (c.f.optBits 2 1), if c.f.optBit 3 then [(c.caps.c.toNat % 2 ^ 32, 128)] else [])

/-- Elements of a column smoothed by the f32 factor of each k: one rounding, saturating. -/
def smooth (t : ElemType) (fs : List FV) (col : List Nat) : List Nat :=
  (col.zip fs).map fun e => (fmtOf t).encode rne true (((fmtOf t).decode e.1).mul e.2)

def opLdw : LongOp where
  locks := fun c s => let r := ldwRanges c; s.readLocks c 3 false (r.1 ++ r.2.1 ++ r.2.2)
  finish := fun c s => do
    s.matrixTurn c
    let s ← s.openSession c
    inSession s do
      let t := c.f.type
      let lay := c.f.optBits 2 1
      let r := opRef c.caps.a c.caps.a1
      let (rows, scales, sm) := ldwRanges c
      if c.f.optBit 0 && lay = 2 then layoutTrap 1
      s.checkRanges c.wi (rows ++ scales ++ sm)
      checkAlign r.off r.stride (elemSize t)
      match sm with
      | x :: _ => checkAlign x.1 0 4
      | [] => pure ()
      let words ← s.readRanges c.wi rows
      let cols := blockOf t (c.f.optBit 0) words
      let cols ← match sm with
        | x :: _ => do
          let vec ← s.readRanges c.wi ((List.range 32).map fun k => (x.1 + 4 * k, 4))
          let fs := vec.map fun v => fmtF32.decode v
          match fs.findIdx? fun f => !f.isFin || f.isZero with
          | some k => trapEff (rep divide (u64 k) 0)
          | none => pure (cols.map (smooth t fs))
        | [] => pure cols
      let bytes ← s.readRanges c.wi scales
      checkScales t bytes
      let qts := if lay = 0 then none else some ((List.range 32).map fun j => scaleAt bytes j / 64)
      pure (s.modCore (coreOf c.wi) fun x => { x with shadow := x.shadow.load t cols qts })

def execLdw (f : Form) (s : State) : Result State := runLong (.ldw f) f opLdw s

/-! ### Fragments (R283) -/

/-- A joined member's registers, checked in its own wave. -/
def State.checkFragment (s : State) (wi first n : Nat) : Eff Unit :=
  match (List.range n).find? fun i => decide (s.vregs (s.waves.get wi) ≤ first + i) with
  | some i => trapEff (allotReg (first + i))
  | none =>
    match s.dv.bad.find? fun b => b.1 == .registerFile && decide (wi * 2 ^ 11 + first * 8 ≤ b.2) &&
        decide (b.2 < wi * 2 ^ 11 + (first + n) * 8) with
    | some b => .error (.uncorr (32 * b.2))
    | none => pure ()

/-- The words of a fragment-form block: waves in crew order with each one's first register. -/
def State.fragmentWords (s : State) (t : ElemType) (ms : List (Nat × Nat)) (W : Nat) : List Nat :=
  let n := fragRows t ms.length W
  (List.range (32 * elemBits t)).map fun q =>
    match ms[q / (n * W)]? with
    | some (wi, first) => ((s.waves.get wi).getV (first + q % (n * W) / W) (q % W)).toNat
    | none => 0

/-- The activations a block of words holds: row i, position k. -/
def fragmentBlock (t : ElemType) (words : List Nat) : List (List Nat) :=
  let sz := elemBits t
  (List.range 32).map fun i => (List.range 32).map fun k =>
    let e := 32 * i + k
    ((words[e * sz / 32]?).getD 0) >>> (sz * (e % (32 / sz))) % 2 ^ sz

/-! ### The engine (R293–R295) -/

/-- The three product instructions. -/
inductive MKind where
  | plain | sparse | semi
  deriving DecidableEq, Repr

/-- Activations with each row's q4 type, and the metadata of a sparse form. -/
structure Acts where
  x    : List (List Nat)
  qa   : List Nat
  meta_ : List Nat
  deriving DecidableEq, Repr

/-- Ranges a product reads: activation rows and scale bytes in memory form, metadata in a sparse one. -/
def mmaRanges (k : MKind) (c : OpCtx) : List LRange × List LRange × List LRange :=
  let f := c.f
  let r := opRef c.caps.a c.caps.a1
  let lay := if k = .semi then 0 else f.optBits 2 1
  (if f.optBit 3 then [] else r.rows f.type,
   if f.optBit 3 then [] else r.scales lay,
   if k = .sparse then [metaVector (f.optBits 8 7) (c.caps.b.toNat % 2 ^ 32)] else [])

/-- The activation reads (the third and fourth checks of R293). -/
def State.activations (s : State) (k : MKind) (c : OpCtx) (ms : List (Nat × Nat)) : Eff Acts := do
  let f := c.f
  let t := f.type
  let W := (s.waves.get c.wi).id.width
  let (rows, scales, md) := mmaRanges k c
  if f.optBit 3 then
    ms.forM fun m => s.checkFragment m.1 m.2 (fragRows t ms.length W)
  s.checkRanges c.wi (rows ++ scales ++ md)
  if !f.optBit 3 then
    let r := opRef c.caps.a c.caps.a1
    checkAlign r.off r.stride (elemSize t)
  let words ← s.readRanges c.wi rows
  let bytes ← s.readRanges c.wi scales
  let md ← s.readRanges c.wi md
  let md := md.flatMap (metaColumns (f.optBits 8 7))
  checkScales t bytes
  if f.optBit 3 then
    let q (i : Nat) : Nat := if t = .q4 then nbits c.caps.c.toNat (2 * i + 1) (2 * i) else 0
    pure { x := fragmentBlock t (s.fragmentWords t ms W), qa := (List.range 32).map q, meta_ := md }
  else
    let tr := k ≠ .semi && f.optBit 0
    pure { x := blockOf t tr words, qa := (List.range 32).map fun i => scaleAt bytes i / 64, meta_ := md }

/-- The columns of weights a product computes with: decompressed in a sparse form. DEDUCED (log entry 78): ILLEGAL_LAYOUT 7
names the column in info1 (R294). -/
def planeColumns (k : MKind) (pattern : Nat) (p : Plane) (md : List Nat) : Eff (List (List FV)) :=
  (List.range 32).mapM fun j => do
    let vals := (List.range 32).map fun i => elemValue p.type (p.colType j) (p.at_ i j)
    if k = .sparse then
      match metaSlots pattern ((md[j]?).getD 0) with
      | some slots => pure (sparseColumn vals slots)
      | none => layoutTrap 7 j
    else pure vals

/-- One entry of the result (R293, R295); the block sum of R37 starts from +0. -/
def mmaEntry (k : MKind) (f : Form) (z : Nat) (x p : List FV) : Nat :=
  let lay := f.optBits 2 1
  let pairs := x.zip p
  match k with
  | .semi => pairs.foldl (fun acc e => semiCell (f.optBits 8 7) acc e.1 e.2) z
  | _ =>
    let ps := pairs.map fun e => e.1.mul e.2
    if !f.type.isFloat && f.type != .q4 then axAdd z (blockInt ps)
    else axAdd (if lay = 0 then z else 0) (ax (axAdd 0 (blockSum ps)))

/-- NONFINITE over the values to be written, in row-major order (R48, R291). -/
def State.checkTile (s : State) (wi : Nat) (pinned : Bool) (d : Nat) (info1 : Nat → Nat → W64) (out : List Nat) : Eff Unit :=
  if !(s.waves.get wi).trap.trapen.getLsbD 0 then pure ()
  else
    match out.findIdx? fun z => fmtAx48.nonFinite z with
    | some q => trapEff (rep nonFinite (u64 ((if pinned then 2 ^ 24 else 0) + d * 2 ^ 16 + q / 32 * 256 + q % 32))
        (info1 (q / 32) (q % 32)))
    | none => pure ()

/-- The info1 of a matrix report (R291). -/
def tileInfo (ta tb : ElemType) (qa qb : Nat) : W64 := u64 (ta.code + 32 * tb.code + 1024 * qa + 4096 * qb)

/-- A product whose operation has reached the engine, its session open: the checks in the order of R293, the tile, the
exchange of planes, and `end`. -/
def State.product (s : State) (k : MKind) (c : OpCtx) (ms : List (Nat × Nat)) : Eff State := do
  let f := c.f
  let t := f.type
  let core := coreOf c.wi
  let lay := if k = .semi then 0 else f.optBits 2 1
  let tile ← s.tileOf (s.destWave c.wi c.caps.crew) (f.optBit 6) f.d.toNat
  let cs := s.cores.get core
  let p := if f.optBit 4 then cs.front else cs.shadow
  if !p.loaded then layoutTrap 4
  if t != p.type || decide (lay ≠ 0) != p.blocked then layoutTrap 5
  if k ≠ .semi && f.optBit 0 && lay = 2 then layoutTrap 2
  let acts ← s.activations k c ms
  let cols ← planeColumns k (f.optBits 8 7) p acts.meta_
  let z ← s.readTile core tile
  let xs := (acts.x.zip acts.qa).map fun e => e.1.map (elemValue t e.2)
  let out := (xs.flatMap fun x => cols.map fun col => (x, col)).zip z |>.map fun e => mmaEntry k f e.2 e.1.1 e.1.2
  if k ≠ .semi || t = .bf16 then
    s.checkTile c.wi (f.optBit 6) f.d.toNat
      (fun i j => tileInfo t p.type ((acts.qa[i]?).getD 0) (p.colType j)) out
  let s := s.putTile core tile out
  pure (s.modCore core fun x =>
    let x := if f.optBit 4 then x else { x with front := x.shadow, shadow := x.front }
    if f.optBit 5 then { x with session := none } else x)

/-- Whether the fragment registers of a wave stand as an instruction reads them (R284): the blocks launched before it have
completed, and no pair among them is owed an acknowledgement (R270). A vector side at a trap that it cannot take, or of a wave
that has ended, has no more to wait for. -/
def State.fragmentsReady (s : State) (wi mark first n : Nat) : Bool :=
  let w := s.waves.get wi
  (s.blocksDone wi mark || w.st != .running || (w.vec.pend.isSome && !s.mayIssue wi)) &&
  !s.ackOwed wi ((List.range n).map (first + ·))

/-- A product of one wave: memory form, or a fragment form without a crew. -/
def State.productAlone (s : State) (k : MKind) (c : OpCtx) : Eff State := do
  s.matrixTurn c
  let n := fragRows c.f.type 1 (s.waves.get c.wi).id.width
  if c.f.optBit 3 && !s.fragmentsReady c.wi c.mark c.f.a.toNat n then waitEff .other
  let s ← s.openSession c
  inSession s (s.product k c [(c.wi, c.f.a.toNat)])

/-! ### The rendezvous latch (R284) -/

/-- The number of a product's mnemonic, for comparison of arrivals. -/
def MKind.num : MKind → Nat
  | .plain => 0
  | .sparse => 1
  | .semi => 2

/-- An arrival at the latch: it joins the entry that waits for its member, or opens one. -/
def State.joinLatch (s : State) (k : MKind) (c : OpCtx) : Eff State :=
  let w := s.waves.get c.wi
  let core := coreOf c.wi
  let gi := w.id.gang
  let me : LatchJoin := { member := w.id.member, uid := c.uid, mark := c.mark, reg := c.f.a.toNat }
  let form := { c.f with a := 0 }
  let waits (e : LatchEntry) : Bool :=
    e.gang == gi && e.crew == c.caps.crew && !e.closed && !e.joined.any fun j => j.member == me.member
  match (s.cores.get core).latch.find? waits with
  | some e =>
    if e.kind ≠ k.num || e.form ≠ form then layoutTrap 6
    else
      let full (e : LatchEntry) : Bool := (crewOf e.crew).all fun m => e.joined.any fun j => j.member == m
      let uid0 := ((e.joined.head?).map LatchJoin.uid).getD 0
      let now := full { e with joined := e.joined ++ [me] }
      let s := s.modLatch core uid0 fun e => { e with joined := e.joined ++ [me], closed := now }
      pure (if now then s.modCore core fun x => { x with opened := s.own } else s)
  | none =>
    let e : LatchEntry :=
      { crew := c.caps.crew
        gang := gi
        kind := k.num
        form := form
        caps := c.caps
        joined := [me]
        closed := false
        ended := none }
    pure (s.modCore core fun x => { x with latch := x.latch ++ [e] })

/-- The waves of a crew in crew order with each one's first fragment register. -/
def State.crewRegs (s : State) (e : LatchEntry) : List (Nat × Nat) :=
  (crewOf e.crew).map fun m =>
    (((s.gangs.get e.gang).waves[m]?).getD 0, (((e.joined.find? fun j => j.member == m)).map LatchJoin.reg).getD 0)

/-- The ranges a closed entry's operation reads enter the range-lock table: it issues as the entry closes (R245, R282,
R284). -/
def State.latchLocks (s : State) (k : MKind) (c : OpCtx) (e : LatchEntry) : Eff State :=
  let u := ((e.joined.head?).map LatchJoin.uid).getD 0
  let ls := s.readLocks { c with caps := e.caps, uid := u } 3 false (mmaRanges k { c with caps := e.caps }).2.2
  let ctx := (s.gangs.get e.gang).ctx
  if ls.isEmpty || s.locks.any fun l => l.uid == u then pure s
  else if s.lockTurn (latchAsker u) ctx ls then pure ((s.leaveLockq (latchAsker u)).addLocks ls)
  else .error (.wait .other (if s.lockq.any fun x => x.1 == latchAsker u then none else some (s.joinLockq (latchAsker u) ctx)))

/-- The member whose fragment registers lie outside its allotment, and its report (R283). -/
def State.badFragment (s : State) (c : OpCtx) (e : LatchEntry) : Option (Nat × Report) :=
  let ms := s.crewRegs e
  let n := fragRows c.f.type ms.length (s.waves.get c.wi).id.width
  ms.findSome? fun m =>
    match s.checkFragment m.1 m.2 n with
    | .error (.trap r) => some ((s.waves.get m.1).id.member, r)
    | _ => none

/-- What a closed entry's operation waits for at the engine, its ranges in the table: every member's fragments and earlier
operations. -/
def State.latchReady (s : State) (e : LatchEntry) : Bool :=
  e.joined.all fun j =>
    let wi := ((s.gangs.get e.gang).waves[j.member]?).getD 0
    let w := s.waves.get wi
    s.fragmentsReady wi j.mark j.reg (fragRows e.form.type e.joined.length w.id.width) &&
    !(w.ctl.ops.any fun o => o.uid == j.uid && s.behind wi o.uid o.instr o.caps)

/-- A closed entry's operation reaches the engine and is performed once. A trap of it is every member's (log entry 21), but
for a register outside a member's allotment, which is that member's: the entry waits for it again (R283), unless its gang is
terminated. -/
def State.performLatch (s : State) (k : MKind) (c : OpCtx) (e : LatchEntry) : Eff State := do
  let core := coreOf c.wi
  let u := ((e.joined.head?).map LatchJoin.uid).getD 0
  let entered := s.locks.any fun l => l.uid == u
  let s ← s.latchLocks k c e
  let hold {α : Type} (x : Eff α) : Eff α :=
    match x with
    | .error (.wait why none) => if entered || !(s.locks.any fun l => l.uid == u) then x else .error (.wait why (some s))
    | x => x
  if !s.latchReady e then hold (waitEff .other)
  let s ← hold (s.openSession c)
  let c' : OpCtx := { c with caps := e.caps }
  match s.product k c' (s.crewRegs e) with
  | .ok s => pure ((s.dropLocks u).modLatch core c.uid fun e => { e with ended := some none })
  | .error (.trap r) =>
    let s := s.dropLocks u
    match s.badFragment c' e with
    | some (m, r') =>
      if r' = r && !(s.gangs.get e.gang).dead then
        let mark (j : LatchJoin) : LatchJoin := if j.member = m then { j with trap := some r } else j
        pure (s.modLatch core c.uid fun e => { e with closed := false, joined := e.joined.map mark })
      else pure (s.modLatch core c.uid fun e => { e with ended := some (some r) })
    | none => pure (s.modLatch core c.uid fun e => { e with ended := some (some r) })
  | .error x => .error x

/-- How an operation in the latch has ended for a member: not yet, whole, or with a trap. -/
def LatchEntry.endOf (e : LatchEntry) (uid : Nat) : Option (Option Report) :=
  match (e.joined.find? fun j => j.uid == uid).bind LatchJoin.trap with
  | some r => some (some r)
  | none => e.ended

/-- Whether an earlier fragment operation of the wave under the same crew has not joined the latch yet: the j-th joins the
j-th entry (R284). -/
def State.joinsAfter (s : State) (c : OpCtx) : Bool :=
  (s.waves.get c.wi).ctl.ops.any fun o =>
    match o.instr with
    | .mma f | .mmaSp f | .mmaSr f =>
      f.optBit 3 && decide (o.uid < c.uid) && o.caps.crew == c.caps.crew &&
      !(s.cores.get (coreOf c.wi)).latch.any fun e => e.has o.uid
    | _ => false

/-- A product under a crew in fragment form. -/
def State.productCrew (s : State) (k : MKind) (c : OpCtx) : Eff State := do
  let core := coreOf c.wi
  if s.joinsAfter c then waitEff .other
  let entry (s : State) : Option LatchEntry := (s.cores.get core).latch.find? fun e => e.has c.uid
  let joined := (entry s).isSome
  let s ← if joined then pure s else s.joinLatch k c
  let sent : Option State := if joined then none else some s
  match entry s with
  | none => waitEff .latch
  | some e =>
    let r ← match e.endOf c.uid, e.closed with
      | some _, _ => pure s
      | none, false => .error (.wait .latch sent)
      | none, true =>
        match s.performLatch k c e with
        | .error (.wait why none) => .error (.wait why sent)
        | x => x
    match (entry r).bind fun e => e.endOf c.uid with
    | some (some t) => .error (.trapIn t (r.leaveLatch core c.uid))
    | some none => pure (r.leaveLatch core c.uid)
    | none => .error (.wait .latch (some r))

/-- The crew of a matrix instruction must lie on the issuing core (R190, R284). -/
def State.checkCrew (s : State) (c : OpCtx) : Eff Unit :=
  let ws := (s.gangOf (s.waves.get c.wi)).waves
  if (crewOf c.caps.crew).all fun m =>
      match ws[m]? with
      | some x => coreOf x == coreOf c.wi
      | none => false
  then pure ()
  else trapEff (allotValue c.caps.crew)

/-- The operation of a product instruction. -/
def opMma (k : MKind) : LongOp where
  locks := fun c s =>
    if c.f.optBit 3 && !(crewOf c.caps.crew).isEmpty then []
    else let r := mmaRanges k c; s.readLocks c 3 false (r.1 ++ r.2.1 ++ r.2.2)
  finish := fun c s => do
    s.checkCrew c
    if c.f.optBit 3 && !(crewOf c.caps.crew).isEmpty then s.productCrew k c else s.productAlone k c

def execMma (f : Form) (s : State) : Result State := runLong (.mma f) f (opMma .plain) s
def execMmaSp (f : Form) (s : State) : Result State := runLong (.mmaSp f) f (opMma .sparse) s
def execMmaSr (f : Form) (s : State) : Result State := runLong (.mmaSr f) f (opMma .semi) s

/-! ### scac (R296) -/

/-- The scale bytes of rows or columns: stride and offset in one register. -/
def scacRanges (x : W64) : List LRange :=
  (List.range 32).map fun i => (x.toNat % 2 ^ 32 + i * (x.toNat / 2 ^ 32), 1)

def opScac : LongOp where
  locks := fun c s => s.readLocks c 3 false (scacRanges c.caps.b ++ scacRanges c.caps.c)
  finish := fun c s => do
    s.checkCrew c
    s.matrixTurn c
    let core := coreOf c.wi
    let tz ← s.tileOf (s.destWave c.wi c.caps.crew) (c.f.optBit 6) c.f.d.toNat
    let tp ← s.tileOf c.wi (c.f.optBit 7) c.f.a.toNat
    s.checkRanges c.wi (scacRanges c.caps.b ++ scacRanges c.caps.c)
    let xa ← s.readRanges c.wi (scacRanges c.caps.b)
    let xb ← s.readRanges c.wi (scacRanges c.caps.c)
    let p ← s.readTile core tp
    let z ← s.readTile core tz
    let k (q : Nat) : Int :=
      (((xa[q / 32]?).getD 0 % 64 : Nat) : Int) - 32 + ((((xb[q % 32]?).getD 0 % 64 : Nat) : Int) - 32)
    let out := (z.zip p).zipIdx.map fun e => scaleAdd e.1.1 e.1.2 (k e.2)
    s.checkTile c.wi (c.f.optBit 6) c.f.d.toNat (fun _ _ => tileInfo .ax48 .ax48 0 0) out
    pure (s.putTile core tz out)

def execScac (f : Form) (s : State) : Result State := runLong (.scac f) f opScac s

/-! ### zclr (R297) -/

/-- The named tile, once the wave's earlier matrix operations on it have acted (R285). -/
def State.tileReady (s : State) (pinned : Bool) (n : Nat) : Eff Nat := do
  let t ← s.tileOf s.cur pinned n
  if s.tileBusy s.cur s.me.issued (s.tileKeys s.cur pinned n) then waitEff .other
  pure t

/-- `zclr`, action 0: every entry +0. -/
def execZclr (f : Form) (s : State) : Result State :=
  runCtl (.zclr f) (fun s => do
    let t ← s.tileReady (f.optBit 6) f.d.toNat
    pure (s.putTile (coreOf s.cur) t zeroTile)) s

/-- `zclr`, action 1: own tile D becomes pinned tile N, cleared. -/
def execZclrPin (f : Form) (s : State) : Result State :=
  runCtl (.zclrPin f) (fun s => do
    let core := coreOf s.cur
    let t ← s.tileReady false f.d.toNat
    if s.tileBusy s.cur s.me.issued [256 + f.c.toNat] then waitEff .other
    if (s.cores.get core).owner.any fun e => e.2 == .pinned f.c.toNat then trapEff (allotTile true f.c.toNat)
    let s := (s.putTile core t zeroTile).modCore core fun x => { x with owner := x.owner.put t (.pinned f.c.toNat) }
    pure (s.modMe fun w => { w with tiles := w.tiles.put f.d.toNat 0 })) s

/-- `zclr`, action 2: pinned tile N returns to the pool. -/
def execZclrUnpin (f : Form) (s : State) : Result State :=
  runCtl (.zclrUnpin f) (fun s => do
    let t ← s.tileReady true f.d.toNat
    pure (s.modCore (coreOf s.cur) fun x => { x with owner := x.owner.put t .free })) s

/-! ### zdrain (R298, R299) -/

/-- What a `zdrain` names: base, row stride and element size. -/
structure Drain where
  loc  : Bool
  add  : Bool
  base : Nat
  rs   : Nat
  size : Nat
  deriving DecidableEq, Repr

def drainOf (c : OpCtx) : Drain :=
  let f := c.f
  let loc := f.optBit 1
  let size := if f.type = .ax48 then 6 else f.type.bytes
  { loc := loc
    add := f.optBit 0
    base := if loc then c.caps.b.toNat % 2 ^ 32 else c.caps.b.toNat
    rs := if f.c = 0 then 32 * size else c.caps.c.toNat % 2 ^ 32
    size := size }

/-- The address of entry q, an exact sum (R12): past the address space nothing lies there. -/
def Drain.addr (d : Drain) (q : Nat) : Nat := d.base + q / 32 * d.rs + q % 32 * d.size

/-- The 32 rows written. -/
def Drain.rows (d : Drain) : List LRange := (List.range 32).map fun i => (d.addr (32 * i), 32 * d.size)

/-- Its destination in the range-lock table, engine 4. -/
def State.drainLocks (s : State) (c : OpCtx) : List Lock :=
  let d := drainOf c
  d.rows.map fun r => mkLock 4 d.loc (s.spaceKey d.loc c.wi r.1) r.1 r.2 true c.uid

/-- Single accesses of an entry: its address, or three of 2 bytes under ax48. -/
def Drain.accesses (d : Drain) (q : Nat) : List Nat :=
  if d.size = 6 then [d.addr q, d.addr q + 2, d.addr q + 4] else [d.addr q]
def Drain.unit (d : Drain) : Nat := if d.size = 6 then 2 else d.size

/-- Whether a global add is one ordered add (R299). -/
def State.drainOrdered (s : State) (c : OpCtx) : Bool :=
  (drainOf c).add && !(drainOf c).loc && decide (0 < s.levelOf (s.waves.get c.wi))

/-- The checks of a `zdrain` in the order of R256: the tile; local bounds, then PAGE_FAULT. The targets of its entries'
accesses, in order. -/
def State.checkDrain (s : State) (c : OpCtx) : Eff (Nat × List Target) := do
  let d := drainOf c
  let tile ← s.tileOf c.wi (c.f.optBit 6) c.f.a.toNat
  let ordered := s.drainOrdered c
  let kind : AKind := if !d.add then .store else if ordered then .add else .atomic
  if d.loc then s.checkRanges c.wi d.rows
  if d.add && (d.base % 4096 ≠ 0 || d.rs ≠ 128) then trapEff (pfReport d.base d.loc 0 3 kind)
  let els := (List.range 1024).flatMap fun q => (d.accesses q).map fun a => (0, a)
  let need : Need := { kind, read := false, write := true, peer := false, host := false }
  if d.loc then
    match els.find? fun e => decide (e.2 % d.unit ≠ 0) with
    | some e => trapEff (pfReport e.2 true 0 3 kind)
    | none => pure (tile, [])
  else do
    let ts ← s.checkGlobals (s.ctxOf (s.waves.get c.wi)) need d.unit els
    pure (tile, ts.map fun e => e.2.2)

/-- The cells a store-mode drain writes, from its entries in order. -/
def drainBytes (f : Form) (z : Nat) : Nat :=
  if f.type = .ax48 then z
  else (fmtOf f.type).encode { mode := (Rounding.ofCode (f.optBits 4 3)).getD .rne } false (ax z)

/-- The value of the add mode: the sum of the word and the entry, rounded once. -/
def drainAdd (m z : Nat) : Nat := addWord m (ax z)

/-- Local store or add. -/
def State.drainLocal (s : State) (c : OpCtx) (zs : List Nat) : Eff State := do
  let d := drainOf c
  let n := d.size
  if d.add then
    let ms ← s.readRanges c.wi ((List.range 1024).map fun q => (d.addr q, 4))
    pure (s.writeLocal c.wi ((ms.zip zs).zipIdx.flatMap fun e => cellsOf (d.addr e.2) 4 (drainAdd e.1.1 e.1.2)))
  else pure (s.writeLocal c.wi (zs.zipIdx.flatMap fun e => cellsOf (d.addr e.2) n (drainBytes c.f e.1)))

/-- Global store, or the add of level 0. -/
def State.drainGlobal (s : State) (c : OpCtx) (ts : List Target) (zs : List Nat) : Eff State := do
  let d := drainOf c
  let pas := ts.filterMap fun t =>
    match t with
    | .dev pa => some pa
    | _ => none
  if d.add then
    let ms ← ts.mapM fun t => s.readAt t 4
    pure (s.writeDev ((pas.zip (ms.zip zs)).flatMap fun e => cellsOf e.1 4 (drainAdd e.2.1 e.2.2)))
  else
    let words := zs.flatMap fun z =>
      let v := drainBytes c.f z
      if d.size = 6 then [v % 2 ^ 16, v / 2 ^ 16 % 2 ^ 16, v / 2 ^ 32] else [v]
    pure (s.writeDev ((pas.zip words).flatMap fun e => cellsOf e.1 d.unit e.2))

/-- The counter and the reservation of one tile add, as it issues (R147, R358). -/
def State.takeTileAdd (s : State) (wi : Nat) : Nat × State :=
  let seq := (s.waves.get wi).vec.seq.get 0
  (seq, s.modWave wi fun w =>
    { w with
      vec := { w.vec with seq := w.vec.seq.put 0 (seq + 1) }
      tape := { w.tape with log := w.tape.log + 4112 } })

/-- A tile add that is not made after all gives back its reservation, and its number where none later was taken. -/
def State.giveTileAdd (s : State) (wi seq : Nat) : State :=
  s.modWave wi fun w =>
    { w with
      vec := if w.vec.seq.get 0 = seq + 1 then { w.vec with seq := w.vec.seq.put 0 seq } else w.vec
      tape := { w.tape with log := w.tape.log - 4112 } }

def opZdrain : LongOp where
  locks := fun c s => s.drainLocks c
  start := fun c s => do
    let _ ← s.checkDrain c
    if s.drainOrdered c then
      s.checkAdds c.wi 4112 [0]
      let at_ := (s.waves.get c.wi).logVa 4112
      let (seq, s) := s.takeTileAdd c.wi
      pure ({ c with caps := { c.caps with d := u64 seq }, desc := bytesLE 8 at_ }, s)
    else pure (c, s)
  finish := fun c s => do
    s.matrixTurn c
    let core := coreOf c.wi
    let seq := c.caps.d.toNat
    let undo (x : Eff (Nat × List Target)) : Eff (Nat × List Target) :=
      match x with
      | .error (.trap r) => if s.drainOrdered c then .error (.trapIn r (s.giveTileAdd c.wi seq)) else x
      | x => x
    let (tile, ts) ← undo (s.checkDrain c)
    let zs ← s.readTile core tile
    let s ←
      if s.drainOrdered c then
        let w := s.waves.get c.wi
        let (id, s) := s.fresh
        let pa := match ts.head? with
          | some (.dev pa) => pa
          | _ => 0
        let a : HeldAdd :=
          { uid := id
            kern := w.id.kern
            pa := pa
            key := w.addKey 0 seq
            value := 0
            tile := zs.map (BitVec.ofNat 48)
            home := false
            bytes := 4112
            wave := c.wi
            stamp := s.epoch
            logVa := fieldOf c.desc 0 8 }
        pure { s with adds := s.adds ++ [a] }
      else if (drainOf c).loc then s.drainLocal c zs
      else s.drainGlobal c ts zs
    pure (if c.f.optBit 2 then s.putTile core tile zeroTile else s)

def execZdrain (f : Form) (s : State) : Result State := runLong (.zdrain f) f opZdrain s

/-! ### zcopy (R300) -/

/-- The entries a `zcopy` moves: register, lane and entry. -/
def zcopyMoves (f : Form) (W : Nat) (A : W64) : List (Nat × Nat × Nat) :=
  let step := if f.type = .ax48 then 2 else 1
  (List.range f.c.toNat).flatMap fun j =>
    (lanesOf A).map fun l => (f.d.toNat + step * j, l, (f.b.toNat + j) * W + l)

/-- One entry read into a register or pair. -/
def Wave.zread (w : Wave) (f : Form) (r l z : Nat) : Wave :=
  if f.type = .ax48 then w.setV64 r l (u64 z)
  else w.setV r l (u32 ((fmtOf f.type).encode { mode := (Rounding.ofCode (f.optBits 4 3)).getD .rne } false (ax z)))

/-- The entry a register or pair writes. -/
def Wave.zwrite (w : Wave) (f : Form) (r l : Nat) : Nat :=
  if f.type = .ax48 then (w.getV64 r l).toNat % 2 ^ 48 else fmtAx48.encode rne false (f32 (w.getV r l))

def execZcopy (f : Form) (s : State) : Result State :=
  runVec (.zcopy f) f (fun A s => do
    let W := s.me.id.width
    let core := coreOf s.cur
    if 1024 < (f.b.toNat + f.c.toNat) * W then trapEff (illegalOf (.zcopy f))
    let step := if f.type = .ax48 then 2 else 1
    s.checkRegs ((List.range (step * f.c.toNat)).map (· + f.d.toNat))
    let t ← s.tileOf s.cur (f.optBit 6) f.a.toNat
    if s.tileBusy s.cur s.me.taken (s.tileKeys s.cur (f.optBit 6) f.a.toNat) then waitEff .other
    let z ← s.readTile core t
    let moves := zcopyMoves f W A
    if f.optBit 0 then
      let w := s.me
      pure (s.modCore core fun c =>
        { c with entries := moves.foldl (fun es m =>
            Tab.put es (1024 * t + m.2.2) (BitVec.ofNat 48 (w.zwrite f m.1 m.2.1))) c.entries })
    else
      pure (s.modMe fun w => moves.foldl (fun w m => w.zread f m.1 m.2.1 ((z[m.2.2]?).getD 0)) w)) s

end Sys2Proof.Machine
end

