-- ==== Sys2Proof/Machine/Complete.lean ====
section
/-!
DEFINITION. The completion of pending long-latency operations (R69, R70).
-/
namespace Sys2Proof.Machine

/-- The operation a long-latency instruction is, and its form. -/
def longOpOf : Instr → Option (LongOp × Form)
  | .sld f => some (opSld, f)
  | .sst f => some (opSst, f)
  | .satomAdd f => some (opSatom .add, f)
  | .satomMin f => some (opSatom .min, f)
  | .satomMax f => some (opSatom .max, f)
  | .satomAnd f => some (opSatom .and, f)
  | .satomOr f => some (opSatom .or, f)
  | .satomXor f => some (opSatom .xor, f)
  | .satomXchg f => some (opSatom .xchg, f)
  | .satomCas f => some (opSatom .cas, f)
  | .satomInc f => some (opSatom .inc, f)
  | .ldw f => some (opLdw, f)
  | .mma f => some (opMma .plain, f)
  | .mmaSp f => some (opMma .sparse, f)
  | .mmaSr f => some (opMma .semi, f)
  | .scac f => some (opScac, f)
  | .zdrain f => some (opZdrain, f)
  | .evict f => some (opEvict, f)
  | .rast f => some (opRast, f)
  | .allred f => some (opAllred, f)
  | .mgrpDef f => some (opMgrpDef, f)
  | .mgrpBind f => some (opMgrpBind, f)
  | .mgrpRevoke f => some (opMgrpRevoke, f)
  | .mgrpFree f => some (opMgrpFree, f)
  | _ => none

/-- The wave that holds an operation, and the operation. -/
def State.opOf (s : State) (id : Nat) : Option (Nat × PendingOp) :=
  s.waves.findSome? fun e => (e.2.ctl.ops.find? fun o => o.uid == id).map fun o => (e.1, o)

/-- OPERATION_COMPLETE (R69): a pending operation completes, or goes on as far as it can. -/
def tryOperationComplete (id : Nat) (s : State) : Option State :=
  match s.opOf id with
  | none => none
  | some (wi, o) =>
    match longOpOf o.instr with
    | none => none
    | some (op, f) => completeOp op wi o f s
def execOperationComplete (id : Nat) (s : State) : Result State := orSame (tryOperationComplete id) s

end Sys2Proof.Machine
end

