-- ==== Sys2Proof/Machine/Queue.lean ====
section
/-!
DEFINITION. Queues and packets (R119–R134): the tail, the fetch and check of a line, the start of each packet, level
changes, and the errors of a queue.
-/
namespace Sys2Proof.Machine

/-! ### Registers (R120–R123) -/

/-- A write of `q.ctl` (R120, R122): prio always; enable as the state has it. An enable before the front end is ready is
ignored and leaves cmderr (R422). DESIGN CHOICE (log entry 70): enable := 0 in Active, Waiting or Held with no started packet
outstanding goes to Disabled at once, without showing Stopping; and enable := 0 in Error leaves errcode as it is until the
next enable. -/
def State.writeQctl (s : State) (qi prio : Nat) (on : Bool) : State :=
  if on && !s.dv.fe then s.modQueue qi fun q => { q with cmderr := true }
  else s.modQueue qi fun q =>
    let q := { q with prio := prio, enable := on }
    if on then
      match q.st with
      | .disabled =>
        { q with
          st := .idle
          headseq := 0
          seen := 0
          line := none
          since := 0
          packets := q.packets.map fun p => { p with counted := false }
          failed := false
          errcode := 0 }
      | _ => q
    else
      match q.st with
      | .idle | .error => { q with st := .disabled }
      | .active | .waiting | .held =>
        if q.packets.all fun p => p.done then { q with st := .disabled, line := none } else { q with st := .stopping, line := none }
      | _ => q

/-- QUEUE_ENABLE (R122). -/
def execQueueEnable (ctx q : Nat) (prio : BitVec 3) (s : State) : Result State :=
  .next (s.writeQctl (16 * ctx + q) prio.toNat true)

/-- QUEUE_DISABLE (R122). -/
def execQueueDisable (ctx q : Nat) (prio : BitVec 3) (s : State) : Result State :=
  .next (s.writeQctl (16 * ctx + q) prio.toNat false)

/-- A write of 1 to `q.status.errpend` (R122, R127): the packets that abortstop counts start anew, and the error ends.
DESIGN CHOICE (log entry 70): in Disabled, errcode stays as it is. -/
def State.clearErrpend (s : State) (qi : Nat) : State :=
  s.modQueue qi fun q =>
    if !q.errpend then q
    else
      let q : Queue := { q with errpend := false, failed := false, packets := q.packets.map fun p => { p with counted := false } }
      let c : Queue := { q with errcode := 0, seen := q.headseq, line := none, since := 0 }
      match q.st with
      | .error => { c with st := .idle }
      | .held => if q.prior = .error then { c with prior := .idle } else q
      | _ => q

/-- ERRPEND_CLEAR (R122). -/
def execErrpendClear (ctx q : Nat) (s : State) : Result State := .next (s.clearErrpend (16 * ctx + q))

/-! ### Lines (R124, R125, R129–R131) -/

/-- Bytes of a string that are all zero. -/
def zeroFrom (bs : List Byte) (off n : Nat) : Bool := ((bs.drop off).take n).all fun b => b == 0

/-- A kernel descriptor and whether it is valid (R138, R140). -/
def kdescOf (b : List Byte) : KDesc × Bool :=
  let g := fieldOf b
  let d : KDesc :=
    { width := g 3 1
      level := g 4 1
      nfen := (g 5 1).testBit 0
      pair := (g 5 1).testBit 1
      gangwg := g 6 1
      wgwaves := g 7 1
      nphases := g 8 2
      argsz := g 0x0A 2
      maxgc := g 0x0C 4
      entry := u64 (g 0x10 8)
      handler := u64 (g 0x18 8)
      regs := g 0x20 2
      tiles := g 0x22 2
      scratch := g 0x24 4
      tape := g 0x28 4 }
  let slots := if d.pair then 64 else 32
  (d, g 0 1 = 2 && g 1 1 = 0 && g 2 1 = 1 && (d.width = 16 || d.width = 32 || d.width = 64) && decide (d.level ≤ 2) &&
    decide (g 5 1 < 4) && decide (1 ≤ d.gangwg) && decide (d.gangwg ≤ 4) && decide (1 ≤ d.wgwaves) &&
    decide (d.wgwaves ≤ 16) && decide (1 ≤ d.nphases) && decide (d.nphases ≤ 256) && decide (d.argsz ≤ 4096) &&
    d.argsz % 8 = 0 && (d.level = 0 || d.maxgc ≠ 0) && d.handler.toNat % 4 = 0 && decide (16 ≤ d.regs) &&
    decide (d.regs ≤ 256) && d.regs % 8 = 0 && decide (d.tiles ≤ 256) && d.scratch % 256 = 0 &&
    decide (d.scratch ≤ 8 * 2 ^ 20) && d.tape % 256 = 0 && zeroFrom b 0x2C 20 && decide (d.gangwg * d.wgwaves ≤ slots))

/-- The body of a LAUNCH line (R129). -/
def launchOf (b : List Byte) : Launch :=
  let g := fieldOf b
  { args := u64 (g 0x20 8)
    gx := g 0x28 4
    gy := g 0x2C 4
    gz := g 0x30 4
    seed := u64 (g 0x38 8)
    spill := u64 (g 0x40 8)
    spillsz := g 0x48 8
    cmpl := u64 (g 0x10 8) }

/-- Queue error codes (Table 5.3). -/
def errBadType : Nat := 1
def errBadSeq : Nat := 2
def errBadField : Nat := 3
def errFetchFault : Nat := 4
def errBadTail : Nat := 5
def errWaitTime : Nat := 6
def errAborted : Nat := 7

/-- The checks of a LAUNCH line, and its kernel descriptor (R129, R140). -/
def State.checkLaunch (s : State) (c : Ctx) (b : List Byte) : Except Nat KDesc :=
  let l := launchOf b
  let N := l.gx * l.gy * l.gz
  let at_ := fieldOf b 0x18 8
  if !zeroFrom b 0x34 4 || !zeroFrom b 0x50 176 || N = 0 || at_ % 8 ≠ 0 then .error errBadField
  else
    match s.feRead c at_ 64 with
    | none => .error errFetchFault
    | some kb =>
      let (d, ok) := kdescOf kb
      if !ok || decide (2 ^ 24 < N) || N % d.gangwg ≠ 0 || l.spillsz = 0 || l.spillsz % 4096 ≠ 0 then .error errBadField
      else .ok d

/-- The checks of the other packets (R129–R131; log entry 25). -/
def bodyOk (light : Bool) (type : Nat) (b : List Byte) : Bool :=
  let g := fieldOf b
  match type with
  | 2 => g 0x18 8 % 64 = 0 && g 0x20 4 ≠ 0 && zeroFrom b 0x24 220
  | 3 => g 0x18 8 % 8 = 0 && decide (g 0x28 1 ≤ 1) && zeroFrom b 0x29 215
  | 4 => g 0x18 8 % 8 = 0 && decide (g 0x30 1 ≤ 2) && zeroFrom b 0x31 3 && zeroFrom b 0x38 200
  | 5 => zeroFrom b 0x18 232
  | _ => decide (g 0x18 1 ≤ 2) && !(light && g 0x18 1 ≠ 0) && zeroFrom b 0x19 231

/-- A line's header and body checked: the line, or the error (R124, Table 5.3). -/
def State.checkLine (s : State) (c : Ctx) (seq : Nat) (b : List Byte) : Except Nat Line :=
  let g := fieldOf b
  let type := g 0 1
  let l : Line :=
    { type
      barrier := (g 1 1).testBit 0
      abortst := (g 1 1).testBit 1
      seq := g 4 4
      next := u64 (g 8 8)
      cmpl := u64 (g 0x10 8)
      body := b }
  if g 4 4 ≠ seq then .error errBadSeq
  else if type = 0 || decide (6 < type) then .error errBadType
  else if decide (4 ≤ g 1 1) || g 2 2 ≠ 0 || g 8 8 % 256 ≠ 0 || g 0x10 8 % 64 ≠ 0 then .error errBadField
  else if type = 1 then (s.checkLaunch c b).map fun d => { l with desc := d }
  else if bodyOk c.light type b then .ok l else .error errBadField

/-- Whether a context lets its queues go on. -/
def Ctx.admits (c : Ctx) : Bool :=
  match c.st with
  | .ready | .running => true
  | _ => false

/-- TAIL_ADVANCE (R125): the next line published is fetched and checked. The tail word, the line and a kernel descriptor that
lie in a page in migration are waited for (R329). -/
def tryTailAdvance (ctx q : Nat) (s : State) : Option State :=
  let qi := 16 * ctx + q
  let x := s.queues.get qi
  let c := s.ctxs.get ctx
  let open_ := match x.st with
    | .idle | .active => x.line.isNone
    | _ => false
  if !open_ || !c.admits then none
  else if decide (x.seen ≤ x.headseq) && s.feHeld c x.tail.toNat 8 then none
  else
    let tail : Option Nat :=
      if x.headseq < x.seen then some x.seen else (s.feRead c x.tail.toNat 8).map ofBytesLE
    match tail with
    | none => some (s.queueError qi errFetchFault)
    | some t =>
      if t < x.headseq || decide (2 ^ 32 < t - x.headseq) then some (s.queueError qi errBadTail)
      else if t = x.headseq || s.feHeld c x.head.toNat 256 then none
      else
        match s.feRead c x.head.toNat 256 with
        | none => some (s.queueError qi errFetchFault)
        | some b =>
          if fieldOf b 0 1 = 1 && s.feHeld c (fieldOf b 0x18 8) 64 then none
          else
            match s.checkLine c ((x.headseq + 1) % 2 ^ 32) b with
            | .error e => some (s.queueError qi e)
            | .ok l => some (s.modQueue qi fun x => { x with st := .active, seen := t, line := some l, since := 0 })
def execTailAdvance (ctx q : Nat) (s : State) : Result State := orSame (tryTailAdvance ctx q) s

/-! ### The start of a packet (R126, R127) -/

/-- Whether the dependences of the head packet hold (R127). -/
def Queue.free (x : Queue) (l : Line) : Bool :=
  let done := x.packets.all fun p => p.done
  let counted := x.packets.all fun p => p.done || !p.counted
  (!(l.barrier || l.type = 3 || decide (5 ≤ l.type)) || done) && (!l.abortst || counted)

/-- The head packet is consumed (R125). -/
def State.consume (s : State) (qi : Nat) (l : Line) : State :=
  s.modQueue qi fun x =>
    let n := x.headseq + 1
    { x with
      headseq := n
      head := if l.next = 0 then x.head + 0x100 else l.next
      line := none
      since := 0
      st := if n < x.seen then .active else .idle }

/-- A packet has started: its own number, and the queue with it on record. -/
def State.startPacket (s : State) (qi : Nat) (l : Line) : Nat × State :=
  let (id, s) := s.fresh
  let n := id * 2 ^ 32 + l.seq
  let p : Packet := { seq := n, type := l.type, done := false, counted := decide (l.type ≤ 2), cmpl := l.cmpl.toNat }
  (n, (s.consume qi l).modQueue qi fun x => { x with packets := (x.packets.filter fun p => !p.done) ++ [p] })

/-- A kernel starts (R126, R136): aborted at once under another level (R96), else admitted. -/
def State.startKernel (s : State) (ctx : Nat) (src : Source) (d : KDesc) (l : Launch) (prio : Nat) : State :=
  let (id, s) := s.fresh
  let c := s.ctxs.get ctx
  let k : Kernel :=
    { (default : Kernel) with st := .admitted, ctx, source := src, desc := d, launch := l, prio, age := c.starts + 1 }
  let s := s.modCtx ctx fun c => { c with starts := c.starts + 1 }
  let s := { s with kernels := s.kernels.put id k }
  if d.level = c.level then s else s.abortKernel id 2 0 (rep 0 0 0)

/-- The store or add of a SIGNAL at a word (R130): in this package or the host. -/
def State.signalAt (s : State) (t : Target) (add : Bool) (v : Nat) : Option State :=
  match s.readAt t 8 with
  | .ok m => some (s.writeAt t 8 (if add then (m + v) % 2 ^ 64 else v))
  | .error _ => if add then none else some (s.writeAt t 8 v)

/-- Where a SIGNAL's word lies; none on a fault, or where no link leads there (R399, R415). -/
def State.signalTarget (s : State) (ctx va : Nat) : Option Target :=
  match s.walk (s.ctxs.get ctx) va with
  | .leaf t p _ =>
    if !p.w then none
    else
      match t with
      | .host _ => if s.fab.host = .up then some t else none
      | .peer pkg _ => if s.routed pkg then some t else none
      | t => some t
  | _ => none

/-- A SIGNAL starts and, but for a word in a peer window, completes. -/
def State.runSignal (s : State) (ctx q : Nat) (l : Line) : State :=
  let qi := 16 * ctx + q
  let g := fieldOf l.body
  let (va, v, add) := (g 0x18 8, g 0x20 8, g 0x28 1 == 1)
  let (n, s) := s.startPacket qi l
  let fault (s : State) : State :=
    (s.completePacket ctx q n l.cmpl.toNat 5 0 (rep 0 (u64 va) 0)).queueError qi errFetchFault
  match s.signalTarget ctx va with
  | none => fault s
  | some (.peer pkg pa) =>
    let op : PeerOp := if add then .sems (u64 v) else .store (cellsOf pa 8 v)
    let (id, s) := s.ask ctx pkg pa op
    s.modQueue qi fun x => { x with signal := some { id, n, cmpl := l.cmpl.toNat, addr := va, stamp := s.epoch } }
  | some t =>
    match s.signalAt t add v with
    | some s => s.completePacket ctx q n l.cmpl.toNat 0 0 (rep 0 0 0)
    | none => fault s

/-- Whether a WAIT's condition holds; none on a fault (R130). -/
def State.waitHolds (s : State) (ctx : Nat) (l : Line) : Option Bool :=
  let g := fieldOf l.body
  (s.feRead (s.ctxs.get ctx) (g 0x18 8) 8).map fun b =>
    let w := ofBytesLE b &&& g 0x28 8
    match g 0x30 1 with
    | 0 => w == g 0x20 8
    | 1 => w != g 0x20 8
    | _ => decide (g 0x20 8 ≤ w)

/-- A WAIT ends with a status. -/
def State.endWait (s : State) (ctx q : Nat) (l : Line) (status : Nat) (r : Report) : State :=
  let (n, s) := s.startPacket (16 * ctx + q) l
  s.completePacket ctx q n l.cmpl.toNat status 0 r

/-- A LEVEL starts (R131): the other queues of the context are held. -/
def State.runLevel (s : State) (ctx q : Nat) (l : Line) : State :=
  let (n, s) := s.startPacket (16 * ctx + q) l
  let hold (x : Queue) : Queue :=
    match x.st with
    | .idle | .active | .waiting => { x with st := .held, prior := x.st }
    | _ => x
  let s := (List.range 16).foldl (fun s j => if j = q then s else s.modQueue (16 * ctx + j) hold) s
  s.modCtx ctx fun c => { c with levelQ := some (q, fieldOf l.body 0x18 1), levelN := n, levelCmpl := l.cmpl.toNat }

/-- The name under which a queue's GRAPH packet waits to enter the range-lock table. -/
def graphAsker (qi : Nat) : Nat := 2 ^ 62 + qi

/-- Whether the memory that the start of a packet reaches lies in a page in migration, so that the front end waits
(R329). -/
def State.headHeld (s : State) (ctx : Nat) (l : Line) : Bool :=
  let c := s.ctxs.get ctx
  match l.type with
  | 2 => s.feHeld c (fieldOf l.body 0x18 8) (64 * fieldOf l.body 0x20 4)
  | 3 | 4 => s.feHeld c (fieldOf l.body 0x18 8) 8
  | _ => false

/-- The node array of a GRAPH line, as the walk locks it. -/
def graphLocks (ctx gi : Nat) (l : Line) : List Lock :=
  [mkLock 8 false ctx (fieldOf l.body 0x18 8) (64 * fieldOf l.body 0x20 4) true gi]

/-- The head packet starts where it can: none while it must wait. -/
def State.startHead (s : State) (ctx q : Nat) (l : Line) : Option State :=
  let qi := 16 * ctx + q
  let x := s.queues.get qi
  let c := s.ctxs.get ctx
  if !x.free l || c.levelQ.isSome then none
  else if l.abortst && x.failed then some (s.queueError qi errAborted)
  else
    match l.type with
    | 1 =>
      let (n, s) := s.startPacket qi l
      some (s.startKernel ctx (.packet ctx q n) l.desc (launchOf l.body) x.prio)
    | 2 =>
      let (base, count) := (fieldOf l.body 0x18 8, fieldOf l.body 0x20 4)
      let gi := s.uid + 1
      if !s.lockTurn (graphAsker qi) ctx (graphLocks ctx gi l) then none
      else
        let (n, s) := ({ s.leaveLockq (graphAsker qi) with uid := gi }).startPacket qi l
        let g : Graph :=
          { (default : Graph) with
            ctx
            base := u64 base
            count
            sem := l.cmpl
            prio := x.prio
            source := .packet ctx q n }
        some ((s.modCtx ctx fun c => { c with starts := c.starts + 1 }).startGraph gi g)
    | 3 => some (s.runSignal ctx q l)
    | 4 =>
      match s.waitHolds ctx l with
      | none =>
        some ((s.endWait ctx q l 5 (rep 0 (u64 (fieldOf l.body 0x18 8)) 0)).queueError qi errFetchFault)
      | some true => some (s.endWait ctx q l 0 (rep 0 0 0))
      | some false => none
    | 5 => some (s.startPacket qi l).2
    | _ => some (s.runLevel ctx q l)

/-- Whether a head packet's dependences hold (R127, R131). -/
def State.headFree (s : State) (ctx q : Nat) (l : Line) : Bool :=
  (s.queues.get (16 * ctx + q)).free l && (s.ctxs.get ctx).levelQ.isNone

/-- A head packet that waits: a WAIT whose dependences hold has been looked at, and a GRAPH stands in line for its array. -/
def State.leaveWaiting (s : State) (ctx q : Nat) (l : Line) : State :=
  let qi := 16 * ctx + q
  let free := s.headFree ctx q l
  let s := s.modQueue qi fun y => { y with st := .waiting, since := if y.since = 0 && free then s.own + 1 else y.since }
  if l.type = 2 && free then s.joinLockq (graphAsker qi) ctx else s

/-- The head packet of an Active queue, of a type, starts or is left Waiting (R122). -/
def startTyped (type ctx q : Nat) (s : State) : Option State :=
  let x := s.queues.get (16 * ctx + q)
  match x.st, x.line with
  | .active, some l =>
    if l.type ≠ type || !(s.ctxs.get ctx).admits || s.headHeld ctx l then none
    else
      match s.startHead ctx q l with
      | some s => some s
      | none => some (s.leaveWaiting ctx q l)
  | _, _ => none

/-- LAUNCH, GRAPH, SIGNAL, WAIT, FENCE and LEVEL (R129–R131). -/
def execLaunchPkt (ctx q : Nat) (s : State) : Result State := orSame (startTyped 1 ctx q) s
def execGraphPkt (ctx q : Nat) (s : State) : Result State := orSame (startTyped 2 ctx q) s
def execSignalPkt (ctx q : Nat) (s : State) : Result State := orSame (startTyped 3 ctx q) s
def execWaitPkt (ctx q : Nat) (s : State) : Result State := orSame (startTyped 4 ctx q) s
def execFencePkt (ctx q : Nat) (s : State) : Result State := orSame (startTyped 5 ctx q) s
def execLevelPkt (ctx q : Nat) (s : State) : Result State := orSame (startTyped 6 ctx q) s

/-- CONDITION_HOLDS (R122): a Waiting head packet starts; or, its dependences now holding, it goes on waiting for what is
left. -/
def tryConditionHolds (ctx q : Nat) (s : State) : Option State :=
  let x := s.queues.get (16 * ctx + q)
  match x.st, x.line with
  | .waiting, some l =>
    if !(s.ctxs.get ctx).admits || s.headHeld ctx l then none
    else
      match s.startHead ctx q l with
      | some s => some s
      | none =>
        let stands := x.since ≠ 0 && (l.type ≠ 2 || s.lockq.any fun e => e.1 == graphAsker (16 * ctx + q))
        if !s.headFree ctx q l || stands then none else some (s.leaveWaiting ctx q l)
  | _, _ => none
def execConditionHolds (ctx q : Nat) (s : State) : Result State := orSame (tryConditionHolds ctx q) s

/-- WAIT_TIMEOUT (R130): so many exchange ticks have passed, cycles that power or thermal control held left out (R428).
DESIGN CHOICE (log entries 70, 75): the time-out runs on while the queue is Held; where the record faults too, its FETCHFAULT
stands. -/
def tryWaitTimeout (ctx q : Nat) (s : State) : Option State :=
  let x := s.queues.get (16 * ctx + q)
  match x.st, x.line with
  | .waiting, some l =>
    let t := fieldOf l.body 0x34 4
    if l.type ≠ 4 || t = 0 || x.since = 0 || decide (s.own + 1 < x.since + t * tickCycles s.fab.ticklen) then none
    else some ((s.endWait ctx q l 4 (rep 0 0 0)).queueError (16 * ctx + q) errWaitTime)
  | _, _ => none
def execWaitTimeout (ctx q : Nat) (s : State) : Result State := orSame (tryWaitTimeout ctx q) s

/-- The posts that the walker of a context had sent into peer windows when a packet started are performed (R130, R193). -/
def State.postsDone (s : State) (ctx : Nat) (p : Packet) : Bool :=
  (s.ctxs.get ctx).posts.all fun x => decide (p.seq / 2 ^ 32 ≤ x.1)

/-- FENCE_COMPLETE (R130): every effect of the earlier packets is performed at fabric scope. They had completed when the FENCE
started (R127): kernels with their waves' stores to other packages (R126), SIGNALs with their answer; what may still be on
its way are the posts of their graphs. -/
def tryFenceComplete (ctx q : Nat) (s : State) : Option State :=
  let x := s.queues.get (16 * ctx + q)
  match x.packets.find? fun p => decide (p.type = 5) && !p.done with
  | none => none
  | some p => if s.postsDone ctx p then some (s.completePacket ctx q p.seq p.cmpl 0 0 (rep 0 0 0)) else none
def execFenceComplete (ctx q : Nat) (s : State) : Result State := orSame (tryFenceComplete ctx q) s

/-! ### Level changes (R131) -/

/-- A kernel that has not ended. -/
def Kernel.live (k : Kernel) : Bool :=
  match k.st with
  | .admitted | .running | .committing | .aborting => true
  | _ => false

/-- The queues a level change has held go on, but for a hold of the context. -/
def State.releaseQueues (s : State) (ctx : Nat) : State :=
  match (s.ctxs.get ctx).levelQ with
  | none => s.unholdQueues ctx
  | some (q, _) => s.modQueue (16 * ctx + q) fun x => if x.st = .held then { x with st := x.prior } else x

/-- LEVEL_COMPLETE (R131): what was admitted before has completed; the level is set and the hold released. -/
def tryLevelComplete (ctx : Nat) (s : State) : Option State :=
  let c := s.ctxs.get ctx
  match c.levelQ with
  | none => none
  | some (q, level) =>
    let busy := (s.kernels.any fun e => e.2.ctx == ctx && e.2.live) || (s.graphs.any fun e => e.2.ctx == ctx && e.2.live) ||
      s.gangs.any fun e => e.2.ctx == ctx
    if busy || !c.admits then none
    else
      let s := s.modCtx ctx fun c => { c with level := level, levelQ := none }
      some ((s.unholdQueues ctx).completePacket ctx q c.levelN c.levelCmpl 0 0 (rep 0 0 0))
def execLevelComplete (ctx : Nat) (s : State) : Result State := orSame (tryLevelComplete ctx) s

end Sys2Proof.Machine
end

