-- ==== Sys2Proof/Machine/Gangs.lean ====
section
/-!
DEFINITION. Placement, grant and retirement of gangs (R142–R144, R153–R159), phase commits (R136, R416), and the nodes of
dependence graphs (R191–R195).
-/
namespace Sys2Proof.Machine

/-! ### Wave start (R142, R143, R167) -/

/-- The stochastic-rounding state of a lane at wave start (R36, R144). -/
def srStart (seed : W64) (task wave lane : Nat) : W32 :=
  let lo : W32 := seed.extractLsb' 0 32 ^^^ seed.extractLsb' 32 32
  let x := lo ^^^ u32 (task * 0x9E3779B1) ^^^ u32 (wave * 0x85EBCA77) ^^^ u32 (lane * 0xC2B2AE3D)
  if x = 0 then 1 else x

/-- The base of a wave's spill area (R143). -/
def spillBase (k : Kernel) (task wave : Nat) : W64 :=
  k.launch.spill + u64 (k.launch.spillsz * (task * k.desc.wgwaves + wave))

/-- A wave at entry (R142, R167): wave `m` of gang `g` of the kernel's phase. -/
def startWave (kid gid : Nat) (k : Kernel) (g m : Nat) : Wave :=
  let d := k.desc
  let l := k.launch
  let task := g * d.gangwg + m / d.wgwaves
  let wave := m % d.wgwaves
  let base := spillBase k task wave
  let s (n : Nat) : W64 :=
    match n with
    | 1 => l.args
    | 2 => u64 task
    | 3 => u64 k.phase
    | 4 => u64 wave
    | 5 => u64 (task % l.gx)
    | 6 => u64 (task / l.gx % l.gy)
    | 7 => u64 (task / (l.gx * l.gy))
    | 8 => base
    | 62 => 0x0D80
    | _ => 0
  { (default : Wave) with
    st := .running
    id := { ctx := k.ctx, kern := kid, gang := gid, member := m, task, phase := k.phase, inWg := wave, width := d.width,
            spill := base, spillsz := l.spillsz }
    ctl := { (default : Ctl) with
      pc := d.entry
      s := Tab.putAll (α := W64) [] ((List.range 64).map fun n => (n, s n)) }
    vec := { (default : Vec) with
      k := Tab.putAll (α := W64) [] [(4, l.args), (5, u64 task), (6, u64 k.phase), (7, u64 wave)]
      sr := Tab.putAll (α := W32) [] ((List.range d.width).map fun n =>
        (n, srStart l.seed (k.phase * 2 ^ 24 + task) wave n)) }
    trap := { (default : TrapRegs) with handler := d.handler, trapen := if d.nfen then 1 else 0 } }

/-! ### Placement (R128, R153) -/

/-- Gangs of a phase. -/
def Kernel.gangs (k : Kernel) : Nat := k.tasks / max 1 k.desc.gangwg

/-- Whether a kernel has a gang still to place. -/
def Kernel.unplaced (k : Kernel) : Bool :=
  (match k.st with
   | .admitted | .running => true
   | _ => false) && decide (k.placed < k.gangs)

/-- Free slots of a core, ascending. -/
def State.freeSlots (s : State) (core : Nat) : List Nat :=
  (List.range 32).filterMap fun k => if (s.waves.get (32 * core + k)).st = .free then some (32 * core + k) else none

/-- The other core of a pair. -/
def partner (core : Nat) : Nat := if core % 2 = 0 then core + 1 else core - 1

/-- The slots a gang takes: workgroups 0 to split − 1 on one core, the others on its partner; none where it does not fit
as R153 has it. -/
def State.slotsFor (s : State) (d : KDesc) (core split : Nat) : Option (List Nat) :=
  let here := s.freeSlots core
  let there := s.freeSlots (partner core)
  let all := d.gangwg * d.wgwaves
  let a := split * d.wgwaves
  if split = d.gangwg then (if all ≤ here.length then some (here.take all) else none)
  else if d.pair && decide (1 ≤ split) && decide (split < d.gangwg) && decide (here.length < all) &&
      decide (a ≤ here.length) && decide (all - a ≤ there.length) then
    some (here.take a ++ there.take (all - a))
  else none

/-- A wave put in a slot: the slot's arrays hold nothing of before (R430). -/
def State.occupy (s : State) (wi : Nat) (w : Wave) : State :=
  let s := s.setWave wi w
  match s.dv.bad with
  | [] => s
  | bad =>
    { s with dv := { s.dv with bad := bad.filter fun b =>
        !((b.1 == .scratchpad && b.2 / 2 ^ 19 == wi) || (b.1 == .registerFile && b.2 / 2 ^ 11 == wi)) } }

/-- Whether a kernel's next gang stands first among those of its context that wait for placement (R128). -/
def State.placesNext (s : State) (kid : Nat) : Bool :=
  let k := s.kernels.get kid
  !s.kernels.any fun e => e.1 ≠ kid && e.2.ctx == k.ctx && e.2.unplaced &&
    orderBefore (e.2.prio, e.2.age, 0) (k.prio, k.age, 0)

/-- A wave as it starts in a slot: on the core there, whose L1 lines it may hit are those filled from now on. -/
def State.inSlot (s : State) (wi : Nat) (w : Wave) : Wave :=
  { w with id := { w.id with lcore := coreOf wi }, since := (s.cores.get (coreOf wi)).fills }

/-- PLACE (R153, R155): the next gang in the order of R128, whole, on free slots of the partition. -/
def tryPlaceGang (kernel core split : Nat) (s : State) : Option State :=
  let k := s.kernels.get kernel
  let c := s.ctxs.get k.ctx
  if !k.unplaced || !c.admits || !s.placesNext kernel || !c.pairs.contains (pairOfCore core) ||
      (k.desc.level = 2 && !s.fab.sync) then none
  else
    match s.slotsFor k.desc core split with
    | none => none
    | some slots =>
      let (gid, s) := s.fresh
      let s := slots.zipIdx.foldl (fun s e => s.occupy e.1 (s.inSlot e.1 (startWave kernel gid k k.placed e.2))) s
      let g : Gang :=
        { (default : Gang) with st := .resident, ctx := k.ctx, kern := kernel, index := k.placed, waves := slots }
      let s := { s with gangs := s.gangs.put gid g }
      let s := s.modKern kernel fun k => { k with st := .running, placed := k.placed + 1 }
      some (s.modCtx k.ctx fun c => if c.st = .ready then { c with st := .running } else c)
def execPlaceGang (kernel core split : Nat) (s : State) : Result State := orSame (tryPlaceGang kernel core split) s

/-! ### Grant (R159, R277) -/

/-- Free physical tiles of a core, ascending. -/
def CoreSt.freeTiles (c : CoreSt) : List Nat := (List.range 256).filter fun t => c.owner.get t == .free

/-- A wave's tiles, every entry +0. -/
def State.giveTiles (s : State) (wi n : Nat) : State :=
  let core := coreOf wi
  let ts := (s.cores.get core).freeTiles.take n
  let s := s.modCore core fun c =>
    { c with
      owner := ts.foldl (fun o t => o.put t (.wave wi)) c.owner
      entries := c.entries.filter fun e => !ts.contains (e.1 / 1024) }
  s.modWave wi fun w => { w with tiles := ts.zipIdx.foldl (fun m e => m.put e.2 (e.1 + 1)) w.tiles }

/-- GRANT (R159): a pending request that fits, with none ahead of it on its cores. -/
def tryGrantGang (gang : Nat) (s : State) : Option State :=
  let g := s.gangs.get gang
  if g.st ≠ .resident || !g.request || s.requestAhead g || !s.fits g then none
  else
    let n := (s.kernels.get g.kern).desc.tiles
    let s := g.waves.foldl (fun s w => s.giveTiles w n) s
    some (s.modGang gang fun g => { g with st := .granted, granted := true, request := false })
def execGrantGang (gang : Nat) (s : State) : Result State := orSame (tryGrantGang gang) s

/-! ### Retirement (R155) -/

/-- DRAINED (R155). -/
def tryDrainedGang (gang : Nat) (s : State) : Option State :=
  let g := s.gangs.get gang
  if g.st = .draining && s.gangQuiet g then some (s.releaseGang gang) else none
def execDrainedGang (gang : Nat) (s : State) : Result State := orSame (tryDrainedGang gang) s

/-! ### Phase commit (R45, R136, R406, R416) -/

/-- Adds in key order. -/
def insertAdd (a : HeldAdd) : List HeldAdd → List HeldAdd
  | [] => [a]
  | b :: r => if a.key < b.key then a :: b :: r else b :: insertAdd a r
def sortAdds (l : List HeldAdd) : List HeldAdd := l.foldl (fun acc a => insertAdd a acc) []

/-- Bytes for the mirror leave for the buddy (R416). -/
def State.mirrorSend (s : State) (ctx va : Nat) (bytes : List Byte) : State :=
  match s.walk (s.ctxs.get ctx) va with
  | .leaf (.peer pkg pa) _ _ =>
    let (id, s) := s.ask ctx pkg pa (.store (cellsAt pa bytes))
    s.modCtx ctx fun c => { c with mirOut := c.mirOut ++ [id], mirAt := s.epoch }
  | _ => s

/-- Lines of device memory with their number in the mirror past its header, and their bytes now. -/
def State.mirrorOf (s : State) (c : Ctx) (ls : List Nat) : List (Nat × List Byte) :=
  ls.filterMap fun l => (c.job.mirrorOff (256 * l)).map fun off => (off / 256, (List.range 256).map fun i => s.mem.get (256 * l + i))

/-- Lines of the mirror leave for the buddy. -/
def State.sendLines (s : State) (ctx : Nat) (ls : List (Nat × List Byte)) : State :=
  ls.foldl (fun s l => s.mirrorSend ctx ((s.ctxs.get ctx).job.mirbase.toNat + 4096 + 256 * l.1) l.2) s

/-- The lines written since the last commit are sent; the list of those written since then starts anew (R416). -/
def State.mirrorLines (s : State) (ctx : Nat) : State :=
  let c := s.ctxs.get ctx
  let ls := s.mirrorOf c c.mirrored
  (s.sendLines ctx ls).modCtx ctx fun c => { c with mirSent := c.mirrored, mirNext := ls, mirrored := [] }

/-- A full mirror of a context leaves for the package that takes its buddy's place, with the header of the last commit
(R417). -/
def State.fullMirror (s : State) (ctx : Nat) : State :=
  let c := s.ctxs.get ctx
  if c.jobst ≠ 2 || !c.job.mirrors || !c.mirFull || c.mirStep ≠ 0 || !s.routed c.job.buddy then s
  else
    let ls := s.mirrorOf c (c.job.mirror.flatMap fun p => (List.range (p.2 / 256)).map (p.1 / 256 + ·))
    let s := s.sendLines ctx ls
    let s := if c.mirHead.isEmpty then s else s.mirrorSend ctx c.job.mirbase.toNat c.mirHead
    s.modCtx ctx fun c => { c with mirFull := false, mirCopy := ls }

/-- The header of a commit. -/
def mirrorHeader (k : Kernel) (tick : Nat) : List Byte :=
  let seq := match k.source with
    | .packet _ _ n => n % 2 ^ 32
    | _ => 0
  bytesLE 4 seq ++ bytesLE 4 (k.phase + 1) ++ bytesLE 8 tick

/-- The commit is complete: the next phase, or the end of the kernel (Table 6.2). -/
def State.endPhase (s : State) (kid : Nat) : State :=
  let k := s.kernels.get kid
  if k.phase + 1 < k.desc.nphases then
    s.modKern kid fun k => { k with st := .admitted, phase := k.phase + 1, placed := 0, retired := 0 }
  else
    (s.modKern kid fun k => { k with st := .complete }).completeLaunch k 0 0 (rep 0 0 0)

/-- The adds of a phase, read back from the log where they wait there, are applied in key order (R45, R359). -/
def State.applyAdds (s : State) (kid : Nat) : State :=
  let mine := sortAdds (s.adds.filter fun a => a.kern == kid)
  let (mine, t) := mine.foldl (fun (l, s) a => let (a, s) := s.readLog a; (l ++ [a], s)) (([] : List HeldAdd), s)
  { mine.foldl State.applyAdd t with adds := s.adds.filter fun a => a.kern ≠ kid }

/-- Whether the mirror's pages lie in migration, so that its engine waits (R329). -/
def State.mirrorHeld (s : State) (c : Ctx) : Bool :=
  s.feHeld c c.job.mirbase.toNat (4096 + c.job.mirror.foldl (fun n p => n + p.2) 0)

/-- COMMIT_COMPLETE (R136): every add has come home and is applied, and every gang has retired, so that all its fabric
messages have been answered from where they were processed (R155, R168, R406); a context with a mirror first sends its
lines, then the header, and waits for both (R416). -/
def tryCommitComplete (kernel : Nat) (s : State) : Option State :=
  let k := s.kernels.get kernel
  let c := s.ctxs.get k.ctx
  let mine := s.adds.filter fun a => a.kern == kernel
  let mirrors := c.mirStep ≠ 0 && c.mirKern = kernel
  let ready := k.st = .committing && (mine.all fun a => a.home) && s.gangs.all fun e => e.2.kern ≠ kernel
  if !ready then none
  else
    let s := s.applyAdds kernel
    if !c.job.mirrors then some (s.endPhase kernel)
    else if (c.mirStep ≠ 0 && !mirrors) || s.mirrorHeld c then none
    else
      match c.mirStep with
      | 0 => some (s.mirrorLines k.ctx |>.modCtx k.ctx fun c => { c with mirStep := 1, mirKern := kernel })
      | 1 =>
        if !c.mirOut.isEmpty then none
        else
          let hd := mirrorHeader k s.fab.tick
          some ((s.mirrorSend k.ctx c.job.mirbase.toNat hd).modCtx k.ctx fun c => { c with mirStep := 2, mirHead := hd })
      | _ =>
        if !c.mirOut.isEmpty then none
        else
          let done (c : Ctx) : Ctx := { c with mirStep := 0, mirSent := [], mirNext := [], mirCopy := mirrorOver c.mirCopy c.mirNext }
          some ((s.modCtx k.ctx done).endPhase kernel)
def execCommitComplete (kernel : Nat) (s : State) : Result State := orSame (tryCommitComplete kernel) s

/-! ### Graph nodes (R193–R195) -/

def State.nodeKind (s : State) (g : Graph) (i : Nat) : Nat := s.nodeField g.ctx g.base.toNat i 0 1
def State.nodeStatus (s : State) (g : Graph) (i : Nat) : Nat := s.nodeField g.ctx g.base.toNat i 6 1
def State.setStatus (s : State) (g : Graph) (i st : Nat) : State := s.setNode g.ctx g.base.toNat i 6 1 st

/-- A node and its successors, and theirs, are skipped. -/
def State.skipNodes (s : State) (g : Graph) : Nat → List Nat → State
  | 0, _ => s
  | _, [] => s
  | n + 1, j :: r =>
    if s.nodeStatus g j = nodeSkipped then State.skipNodes s g n r
    else State.skipNodes (s.setStatus g j nodeSkipped) g n (r ++ s.nodeSuccs g j)

/-- A successor of a node that is done (R193): launchable when nothing it waits for is left. -/
def State.countDown (s : State) (gi j : Nat) : State :=
  let g := s.graphs.get gi
  let pend := (s.nodeField g.ctx g.base.toNat j 4 2 + 2 ^ 16 - 1) % 2 ^ 16
  let s := s.setNode g.ctx g.base.toNat j 4 2 pend
  if pend = 0 && s.nodeStatus g j = 0 then s.modGraph gi fun g => { g with ready := g.ready ++ [j] } else s

/-- The range-lock number of a COPY node, under which it waits to enter the table too. -/
def nodeLock (gi i : Nat) : Nat := 2 ^ 60 + gi * 2 ^ 16 + i

/-- A node completes (R193). -/
def State.finishNode (s : State) (gi i : Nat) (ok : Bool) : State :=
  let g := s.graphs.get gi
  let s := (s.dropLocks (nodeLock gi i)).setStatus g i (if ok then nodeDone else nodeFailed)
  let sem := s.nodeField g.ctx g.base.toNat i 0x18 8
  let s := if sem = 0 then s else s.post g.ctx sem 1
  let s := s.modGraph gi fun g =>
    { g with
      launched := g.launched.filter (· ≠ i)
      asked := g.asked.filter fun a => a.1 ≠ i
      copies := g.copies.filter fun a => a.1 ≠ i }
  let succs := s.nodeSuccs g i
  let s := if ok then succs.foldl (fun s j => s.countDown gi j) s else s.skipNodes g (9 * g.count + 9) succs
  s.settleGraph gi

/-- Whether a node of a kind launches: it is launchable, its context goes on, and the walker's memory does not lie in a page
in migration (R195, R329). -/
def State.launches (s : State) (kind gi i : Nat) : Bool :=
  let g := s.graphs.get gi
  g.live && g.ready.contains i && s.nodeKind g i == kind && (s.ctxs.get g.ctx).admits && !s.graphHeld g i

/-- A node is launched; then its own step (R195). -/
def launch (kind gi i : Nat) (act : Graph → State → Option State) (s : State) : Option State :=
  let g := s.graphs.get gi
  if s.launches kind gi i then
    act g ((s.setStatus g i nodeLaunched).modGraph gi fun g =>
      { g with ready := g.ready.filter (· ≠ i), launched := g.launched ++ [i] })
  else none

/-- A field of a node's body. -/
def State.nodeBody (s : State) (g : Graph) (i off : Nat) : Nat := s.nodeField g.ctx g.base.toNat i (0x20 + off) 8

/-- COPY (R193): its ranges are locked, in their turn (R245); overlapping ranges fail it. -/
def tryCopyNode (graph node : Nat) (s : State) : Option State :=
  let id := nodeLock graph node
  let ctx := (s.graphs.get graph).ctx
  match launch 1 graph node (fun g s =>
    let (src, dst, n) := (s.nodeBody g node 0, s.nodeBody g node 8, s.nodeBody g node 16)
    if decide (src < dst + n) && decide (dst < src + n) then some (s.finishNode graph node false)
    else
      let ls := if n = 0 then [] else [mkLock 1 false g.ctx src n false id, mkLock 1 false g.ctx dst n true id]
      if !s.lockTurn id g.ctx ls then none
      else some (((s.leaveLockq id).addLocks ls).modGraph graph fun g => { g with copies := g.copies ++ [(node, s.epoch, s.uid)] })) s with
  | some s => some s
  | none => if s.launches 1 graph node && !s.lockq.any (fun e => e.1 == id) then some (s.joinLockq id ctx) else none
def execCopyNode (graph node : Nat) (s : State) : Result State := orSame (tryCopyNode graph node) s

/-- A COPY's bytes are performed; none on a fault. -/
def State.copyBytes (s : State) (g : Graph) (i : Nat) : Option State := do
  let c := s.ctxs.get g.ctx
  let bs ← s.feRead c (s.nodeBody g i 0) (s.nodeBody g i 16)
  s.feWrite c (s.nodeBody g i 8) bs

/-- Whether a COPY waits for a page in migration; one issued before the migration does not (R335). -/
def State.copyHeld (s : State) (g : Graph) (i : Nat) : Bool :=
  let c := s.ctxs.get g.ctx
  let n := s.nodeBody g i 16
  s.feHeld c (s.nodeBody g i 0) n || s.feHeld c (s.nodeBody g i 8) n

/-- LAUNCH_NODE (R194). -/
def tryLaunchNode (graph node : Nat) (s : State) : Option State :=
  launch 2 graph node (fun g s =>
    let c := s.ctxs.get g.ctx
    let at_ := s.nodeBody g node 0
    if s.feHeld c at_ 256 then none
    else
      match s.feRead c at_ 256 with
      | none => some (s.finishNode graph node false)
      | some b =>
        if fieldOf b 0 1 ≠ 1 || fieldOf b 0x10 8 % 64 ≠ 0 then some (s.finishNode graph node false)
        else if s.feHeld c (fieldOf b 0x18 8) 64 then none
        else
          match s.checkLaunch c b with
          | .error _ => some (s.finishNode graph node false)
          | .ok d => some (s.startKernel g.ctx (.node graph node) d (launchOf b) g.prio)) s
def execLaunchNode (graph node : Nat) (s : State) : Result State := orSame (tryLaunchNode graph node) s

/-- SIGNAL_NODE (R193): done at once, or, for a word in a peer window, when it has been performed there. -/
def trySignalNode (graph node : Nat) (s : State) : Option State :=
  launch 3 graph node (fun g s =>
    let va := s.nodeBody g node 0
    let v := s.nodeBody g node 8
    let op := s.nodeField g.ctx g.base.toNat node 0x30 1
    let add := op == 1
    if va % 8 ≠ 0 || decide (1 < op) then some (s.finishNode graph node false)
    else if s.feHeld (s.ctxs.get g.ctx) va 8 then none
    else
      match s.signalTarget g.ctx va with
      | none => some (s.finishNode graph node false)
      | some (.peer pkg pa) =>
        let (id, s) := s.ask g.ctx pkg pa (if add then .sems (u64 v) else .store (cellsOf pa 8 v))
        some (s.modGraph graph fun g =>
          { g with asked := g.asked ++ [(node, id, none)], copies := g.copies ++ [(node, s.epoch, id)] })
      | some t => some ((s.signalAt t add v).getD (s.finishNode graph node false))) s
def execSignalNode (graph node : Nat) (s : State) : Result State := orSame (trySignalNode graph node) s

/-- NOP_NODE (R193). -/
def tryNopNode (graph node : Nat) (s : State) : Option State :=
  launch 4 graph node (fun _ s => some (s.finishNode graph node true)) s
def execNopNode (graph node : Nat) (s : State) : Result State := orSame (tryNopNode graph node) s

/-- The bytes of a COPY node are performed, or meet a fault; a COPY issued before a migration does not meet its hold, but the
walker's own accesses after it do (R193, R329, R335). -/
def tryCopyBytes (graph node : Nat) (s : State) : Option State :=
  let g := s.graphs.get graph
  let t := match g.copies.find? fun a => a.1 == node with
    | some c => s.lift g.ctx c.2.2
    | none => s
  if t.copyHeld g node then none
  else
    let r := t.copyBytes g node
    let u := (r.getD t).unlift g.ctx
    if u.graphHeld g node then
      some (u.modGraph graph fun g =>
        { g with asked := g.asked ++ [(node, 0, some r.isSome)], copies := g.copies.filter fun a => a.1 ≠ node })
    else some (u.finishNode graph node r.isSome)

/-- Whether the bytes of a COPY node are still to be performed; the walker has read the node already. -/
def State.copying (s : State) (g : Graph) (node : Nat) : Bool :=
  match g.copies.find? fun a => a.1 == node with
  | some c => (s.lift g.ctx c.2.2).nodeKind g node == 1
  | none => s.nodeKind g node == 1 && !g.asked.any fun a => a.1 == node

/-- GRAPH_NODE_COMPLETE (R193): a launched node is done or failed. -/
def tryGraphNodeComplete (graph node : Nat) (s : State) : Option State :=
  let g := s.graphs.get graph
  if !g.live || !g.launched.contains node then none
  else if s.copying g node then tryCopyBytes graph node s
  else if s.graphHeld g node then none
  else
    match s.nodeKind g node with
    | 2 =>
      let k := s.kernels.find fun _ k => k.source == .node graph node && !k.live
      match k with
      | some (_, k) => some (s.finishNode graph node (k.st == .complete))
      | none => none
    | 1 | 3 =>
      match g.asked.find? fun a => a.1 == node with
      | some (_, _, none) => none
      | some (_, _, some good) => some (s.finishNode graph node good)
      | none => some (s.finishNode graph node true)
    | _ => none
def execGraphNodeComplete (graph node : Nat) (s : State) : Result State := orSame (tryGraphNodeComplete graph node) s

/-! ### Who waits for a range without a wave (R245) -/

/-- Whether an asker other than a wave or an engine still waits: a COPY node that can be launched, a GRAPH packet of a queue
that waits. -/
def State.stillAsks (s : State) (who : Nat) : Bool :=
  if who < 2 ^ 60 || (decide (2 ^ 61 ≤ who) && decide (who < 2 ^ 62)) then true
  else if who < 2 ^ 61 then
    let n := who - 2 ^ 60
    let g := s.graphs.get (n / 2 ^ 16)
    g.live && g.ready.contains (n % 2 ^ 16) && (s.ctxs.get g.ctx).admits
  else
    let qi := who - 2 ^ 62
    (s.queues.get qi).st == .waiting && (s.ctxs.get (qi / 16)).admits

/-- One that waits no longer leaves the line. -/
def State.tidyLockq (s : State) : State :=
  if s.lockq.all fun e => s.stillAsks e.1 then s else { s with lockq := s.lockq.filter fun e => s.stillAsks e.1 }

end Sys2Proof.Machine
end

