-- ==== Sys2Proof/Machine/Ports.lean ====
section
/-!
DEFINITION. The links themselves: fabric ports, the host link, jobs and their barrier tables, link loss and recovery
(R391–R401, R415–R418).
-/
namespace Sys2Proof.Machine

/-! ### Fabric ports (R394–R397) -/

def State.port (s : State) (p : Nat) : Port := s.fab.ports.get p
def State.setPort (s : State) (p : Nat) (x : Port) : State := s.modFab fun f => { f with ports := f.ports.put p x }

/-- Requests to packages no route leads to any more are lost (R415). -/
def State.sweepLost (s : State) : State :=
  s.fab.outbox.foldl (fun s m =>
    match m.body with
    | .req r => if s.routed m.dest then s else s.takeResp { sender := m.dest, id := r.id, answer := .lost }
    | _ => s) s

/-- A port carries flits. -/
def PortSt.live : PortSt → Bool
  | .up | .degraded => true
  | _ => false

/-- The time at which the last port of the package ceases to carry flits (R415). -/
def State.noteCut (s : State) : State :=
  if s.ported || s.fab.cut.isSome then s else s.modFab fun f => { f with cut := some (f.tick, s.cycle) }

/-- A port ceases to carry flits: what it alone led to is lost. -/
def State.closePort (s : State) (p : Nat) (x : Port) : State :=
  let live := (s.port p).st.live
  let s := s.setPort p x
  (if live then s.noteCut else s).sweepLost

/-- A write of `lk.port` enable (R394): 1 trains a Disabled port of a numbered package, once its firmware runs (R424); 0 loses
and stops it. -/
def State.enablePort (s : State) (p : Nat) (on : Bool) : State :=
  let x := s.port p
  if on then
    if s.dv.fw && s.fab.set && x.st == .disabled then s.setPort p { x with st := .training, enable := true } else s
  else if x.st = .disabled then s
  else s.closePort p {}

/-- PORT_ENABLE and PORT_DISABLE (R396). -/
def execPortEnable (port : Nat) (s : State) : Result State := .next (s.enablePort port true)
def execPortDisable (port : Nat) (s : State) : Result State := .next (s.enablePort port false)

/-- TRAINING_SUCCEEDS (R396). -/
def tryTrainingSucceeds (port : Nat) (width : BitVec 2) (peer : BitVec 10) (s : State) : Option State :=
  let x := s.port port
  if !s.dv.fw || x.st ≠ .training || width = 3 then none
  else
    let st : PortSt := if width = 0 then .up else .degraded
    let s := s.setPort port { x with st := st, width := width.toNat, peer := peer.toNat, fails := 0 }
    some (s.modFab fun f => { f with cut := none, downs := f.downs.filter fun d => d.2 ≠ f.pkg })
def execTrainingSucceeds (port : Nat) (width : BitVec 2) (peer : BitVec 10) (s : State) : Result State :=
  orSame (tryTrainingSucceeds port width peer) s

/-- TRAINING_FAILS (R396). -/
def tryTrainingFails (port : Nat) (s : State) : Option State :=
  let x := s.port port
  if x.st = .training then some (s.setPort port { x with st := .lost }) else none
def execTrainingFails (port : Nat) (s : State) : Result State := orSame (tryTrainingFails port) s

/-- LANE_FAILS (R396): the remaining lanes carry on. -/
def tryLaneFails (port : Nat) (width : BitVec 2) (s : State) : Option State :=
  let x := s.port port
  if x.st = .up && (width = 1 || width = 2) then some (s.setPort port { x with st := .degraded, width := width.toNat })
  else none
def execLaneFails (port : Nat) (width : BitVec 2) (s : State) : Result State := orSame (tryLaneFails port width) s

/-- LANE_RECOVERY (R396). -/
def tryLaneRecovery (port : Nat) (s : State) : Option State :=
  let x := s.port port
  if x.st = .degraded then some (s.setPort port { x with st := .up, width := 0 }) else none
def execLaneRecovery (port : Nat) (s : State) : Result State := orSame (tryLaneRecovery port) s

/-- A port is Lost: its routes close. -/
def State.losePort (s : State) (p : Nat) : State :=
  s.closePort p { s.port p with st := .lost, width := 0, peer := 0, fails := 0 }

/-- The last route to a package closes, while ports of this one may be up (R397, R415). -/
def State.routeLost (s : State) (p : Nat) : State := (s.noteLost p).sweepLost

/-- LOSS (R396). -/
def tryLoss (port : Nat) (s : State) : Option State := if (s.port port).st.live then some (s.losePort port) else none
def execLoss (port : Nat) (s : State) : Result State := orSame (tryLoss port) s

/-- RETRAIN (R396). -/
def tryRetrain (port : Nat) (s : State) : Option State :=
  let x := s.port port
  if x.st = .lost then some (s.setPort port { x with st := .training }) else none
def execRetrain (port : Nat) (s : State) : Result State := orSame (tryRetrain port) s

/-- LINK_LEVEL_REPLAY (R396): the eighth failure in a row loses the port. -/
def tryLinkLevelReplay (port : Nat) (delivered : Bool) (s : State) : Option State :=
  let x := s.port port
  if !x.st.live then none
  else if delivered then some (s.setPort port { x with fails := 0 })
  else if 8 ≤ x.fails + 1 then some (s.losePort port)
  else some (s.setPort port { x with fails := x.fails + 1 })
def execLinkLevelReplay (port : Nat) (delivered : Bool) (s : State) : Result State := orSame (tryLinkLevelReplay port delivered) s

/-- A write of `lk.pkgid` (R394): ignored while a port is enabled, and while no firmware runs (R424). -/
def State.writePkgid (s : State) (v : W64) : State :=
  if !s.dv.fw || s.fab.ports.any fun e => e.2.enable then s
  else s.modFab fun f => { f with pkg := nbits v.toNat 9 0, mode := v.getLsbD 15, set := true }

/-- LK_PKGID_WRITE (R394). -/
def execLkPkgidWrite (value : BitVec 64) (s : State) : Result State := .next (s.writePkgid value)

/-- A write of `lk.tickcfg` (R394): ignored outside 1–16 and while a context is placed. -/
def State.writeTickcfg (s : State) (v : W64) : State :=
  let len := nbits v.toNat 4 0
  let placed := s.ctxs.any fun e => !e.2.pairs.isEmpty
  if placed || len = 0 || decide (16 < len) then s else s.modFab fun f => { f with ticklen := len }

/-- HOST_LINK_STATE_CHANGE (R399): the link leaves Down only where the firmware runs (R424). -/
def tryHostLinkStateChange (st : HostLink) (s : State) : Option State :=
  if s.dv.fw || st == .down then some (s.modFab fun f => { f with host := st }) else none
def execHostLinkStateChange (st : HostLink) (s : State) : Result State := orSame (tryHostLinkStateChange st) s

/-! ### Jobs (R400, R401) -/

/-- A barrier table entry as this member reads it. -/
structure BarEntry where
  id      : Nat
  frac    : Nat
  need    : Nat
  members : List Nat
  deque   : Option Nat
  cone    : List (Nat × Nat)
  deriving DecidableEq, Repr

/-- What the members' tables must agree in. -/
def BarEntry.agreed (b : BarEntry) : Nat × Nat × Nat × List Nat := (b.id, b.frac, b.need, b.members)

/-- Device memory of the context mapped writable, as pieces; none where it is not. -/
def State.devPieces (s : State) (c : Ctx) (va n : Nat) : Option (List (Nat × Nat)) :=
  (pieces va n).mapM fun p =>
    match s.frameOf c p.1 with
    | .ok pa => some (pa, p.2)
    | .error _ => none

/-- An entry of the barrier table (R401); none is a bad descriptor. -/
def State.barEntry (s : State) (c : Ctx) (tab i : Nat) : Option BarEntry := do
  let bs ← s.feRead c (tab + 32 * i) 32
  let id := fieldOf bs 0 2
  let frac := fieldOf bs 2 2
  let need := fieldOf bs 4 1
  let n := fieldOf bs 6 2
  let list := fieldOf bs 8 8
  let cone := fieldOf bs 0x10 8
  guard (id < 4096 && frac ≤ 1000 && need ≤ 16 && 2 ≤ n && n ≤ 1024 && fieldOf bs 5 1 == 0 && fieldOf bs 0x18 8 == 0)
  let ls ← s.feRead c list (16 * n)
  let members := (List.range n).map fun k => fieldOf ls (16 * k) 2
  guard (decide members.Nodup)
  let deque := match members.findIdx? fun p => s.isSelf p with
    | some k => fieldOf ls (16 * k + 8) 8
    | none => 0
  let dq ← if deque = 0 then some none
    else if deque % 64 ≠ 0 then none
    else (s.devPieces c deque 64).map fun ps => ps.head?.map Prod.fst
  let cn ← if cone = 0 then some [] else if cone % 8 ≠ 0 then none else s.devPieces c cone (128 * n)
  pure { id, frac := if frac = 0 then 50 else frac, need := if need = 0 then 6 else need, members, deque := dq, cone := cn }

/-- The mirror table (R416): the mirrored ranges as device pages in table order. -/
def State.mirrorPages (s : State) (c : Ctx) (tab : Nat) : Option (List (Nat × Nat)) := do
  if tab = 0 then pure []
  else
    let bs ← s.feRead c tab 1024
    let es := (List.range 64).map fun i => (fieldOf bs (16 * i) 8, fieldOf bs (16 * i + 8) 8)
    guard (es.all fun e => e.1 % 4096 == 0 && e.2 % 4096 == 0)
    guard ((es.foldl (fun n e => n + e.2) 0) ≤ 96 * 2 ^ 30)
    let ps ← es.mapM fun e => s.devPieces c e.1 e.2
    pure ps.flatten

/-- A job descriptor as read (R400). -/
structure JobDesc where
  job  : Job
  bars : List BarEntry
  deriving DecidableEq, Repr

/-- The job descriptor of a binding; none is a bad descriptor. -/
def State.jobDesc (s : State) (c : Ctx) (num at_ : Nat) : Option JobDesc := do
  let d ← s.feRead c at_ 64
  let nbar := fieldOf d 2 2
  let grace := fieldOf d 4 4
  guard (nbar ≤ 4096 && grace ≤ 2000 && fieldOf d 0x30 16 == 0)
  let bars ← (List.range nbar).mapM fun i => s.barEntry c (fieldOf d 8 8) i
  guard (decide (bars.map BarEntry.id).Nodup)
  let mirror ← s.mirrorPages c (fieldOf d 0x10 8)
  pure
    { job :=
        { num
          buddy := fieldOf d 0 2
          grace := if grace = 0 then 200 else grace
          mirrors := decide (fieldOf d 0x10 8 ≠ 0)
          mirror
          mirbase := u64 (fieldOf d 0x18 8)
          anchor := u64 (fieldOf d 0x20 8)
          ancsz := fieldOf d 0x28 8 }
      bars }

/-- Bytes of the anchor area that a barrier table takes (R400). -/
def barRoom (bars : List BarEntry) : Nat := bars.foldl (fun n b => n + 384 + 160 * b.members.length) (2 ^ 20)

/-- Another package bound to a job. -/
def State.othersBound (s : State) (job : Nat) : Bool := (List.range 1024).any fun p => !s.isSelf p && s.boundTo job p

/-- What the job's first member says of a table: 0 agrees, 2 or 3 is the error (R400, R401; log entry 24). What it gave is
known here once this package has bound the job. -/
def State.tableVerdict (s : State) (job : Nat) (bars : List BarEntry) : Nat :=
  let here := s.fab.fbars.filter fun b => b.job == job
  let tick := s.fab.ticks.get job
  if !here.isEmpty || tick ≠ 0 then
    let a := here.map fun b => (b.id, b.frac, b.need, b.members)
    let b := bars.map BarEntry.agreed
    if !(a.length = b.length && a.all fun x => b.contains x) then 2
    else if tick ≠ 0 && tick ≠ s.fab.ticklen then 3
    else 0
  else if s.othersBound job then (if Config.jobVerdict s.cycle job % 4 < 2 then 0 else Config.jobVerdict s.cycle job % 4)
  else 0

/-- The error of a binding: 0 is none (R400). DESIGN CHOICE (log entry 24): a job to which another context of the package is
bound is a bad descriptor. -/
def State.bindError (s : State) (c : Ctx) (job : Nat) (d : Option JobDesc) : Nat :=
  match d with
  | none => 1
  | some d =>
    let anchor := s.isAnchor job
    let area := d.job.anchor.toNat % 4096 = 0 && d.job.ancsz % 4096 = 0 &&
      (s.devPieces c d.job.anchor.toNat d.job.ancsz).isSome
    if (anchor && !area) || (s.jobCtx job).isSome then 1
    else
      let v := s.tableVerdict job d.bars
      if v ≠ 0 then v else if anchor && decide (d.job.ancsz < barRoom d.bars) then 4 else 0

/-- A barrier as a binding leaves it: created, or this member's places renewed (R312, R401). -/
def State.bindBar (s : State) (job : Nat) (b : BarEntry) : State :=
  match s.fbar? job b.id with
  | some _ => s.modFbar job b.id fun x => { x with deque := b.deque, cone := b.cone }
  | none =>
    let n := b.members.length
    let x : FBar :=
      { job
        id := b.id
        frac := b.frac
        need := b.need
        members := b.members
        deque := b.deque
        cone := b.cone
        counts := []
        gen := 0
        times := List.replicate n []
        releases := []
        lags := List.replicate n []
        stealable := List.replicate n false
        delivered := 0 }
    s.modFab fun f => { f with fbars := f.fbars ++ [x] }

/-- A context leaves its job; a job without members is no more (R400). -/
def State.unbindCtx (s : State) (ci : Nat) : State :=
  let c := s.ctxs.get ci
  let job := c.job.num
  let bound := c.jobst = 2
  let s := s.modCtx ci fun c =>
    { c with lkjob := 0, jobst := 0, joberr := 0, job := {}, allreds := [], mirrored := [], mirOut := [], mirStep := 0, mirKern := 0,
             mirSent := [], mirNext := [], mirCopy := [], mirHead := [], mirFull := false }
  let s := s.modFab fun f => { f with downs := f.downs.filter fun d => d.1 ≠ ci }
  if bound && !s.othersBound job then
    s.modFab fun f => { f with
      fbars := f.fbars.filter fun b => b.job ≠ job
      groups := f.groups.filter fun g => g.job ≠ job
      colls := f.colls.filter fun x => x.job ≠ job
      room := f.room.put job 0
      ticks := f.ticks.put job 0 }
  else s

/-- A binding is carried out: the context is bound, or failed with the error. -/
def State.finishBind (s : State) (ci : Nat) (v : W64) : State :=
  let c := s.ctxs.get ci
  let job := nbits v.toNat 11 0
  let d := s.jobDesc c job (v.toNat / 4096 * 4096)
  let e := s.bindError c job d
  match d, e with
  | some d, 0 =>
    let s := d.bars.foldl (fun s b => s.bindBar job b) s
    let arrivals (m : Tab Nat) (b : FBar) : Tab Nat :=
      if b.job ≠ job then m
      else
        match b.members.findIdx? fun p => s.isSelf p with
        | some k => m.put (fbarKey b.id) (b.counts.get k)
        | none => m
    let room := s.isAnchor job
    let s := s.modFab fun f => { f with
      room := if room then f.room.put job (barRoom d.bars) else f.room
      ticks := f.ticks.put job f.ticklen }
    s.modCtx ci fun c =>
      { c with lkjob := v, jobst := 2, joberr := 0, job := d.job, allreds := s.fab.fbars.foldl arrivals [] }
  | _, e => s.modCtx ci fun c => { c with lkjob := v, jobst := 3, joberr := e }

/-- Whether a context has a page in migration. -/
def Ctx.migrates (c : Ctx) : Bool :=
  match c.page.doing with
  | .migrate .. => true
  | _ => false

/-- A write of `lk.job` (R400). The tables are read once no page of the context migrates (R329): till then it is binding. -/
def State.bindCtx (s : State) (ci : Nat) (v : W64) : State :=
  let st := (s.ctxs.get ci).st
  if st ≠ .ready && st ≠ .suspended then s
  else
    let s := s.unbindCtx ci
    if v = 0 then s
    else if (s.ctxs.get ci).migrates then s.modCtx ci fun c => { c with lkjob := v, jobst := 1 }
    else s.finishBind ci v

/-- Bindings that waited are carried out. -/
def State.serveBinds (s : State) : State :=
  if s.ctxs.all fun e => e.2.jobst ≠ 1 || e.2.migrates then s
  else s.ctxs.foldl (fun s e => if e.2.jobst = 1 && !e.2.migrates then s.finishBind e.1 e.2.lkjob else s) s

/-- BIND (R400). -/
def execBind (ctx : Nat) (value : BitVec 64) (s : State) : Result State := .next (s.bindCtx ctx value)

/-- UNBIND (R400). -/
def execUnbind (ctx : Nat) (s : State) : Result State := .next (s.bindCtx ctx 0)

/-! ### Link loss and recovery (R415–R418) -/

/-- Whether a package is a member of a job. -/
def State.jobMember (s : State) (job p : Nat) : Bool :=
  s.boundTo job p || (s.fab.fbars.any fun b => b.job == job && b.members.contains p) ||
  s.fab.groups.any fun g => g.job == job && g.members.any fun m => m.pkg == p

def linkDownCode : Nat := 0x43

/-- When the last route to a package was lost: this package's own number stands for the loss of all its ports (log entry
79). -/
def State.lostAt (s : State) (pkg : Nat) : Option (Nat × Nat) :=
  if s.isSelf pkg then s.fab.cut else (s.fab.lost.find? fun l => l.1 == pkg).map Prod.snd

/-- The core cycles of a job's grace period (R400). -/
def Job.graceCycles (j : Job) : Nat := 2400000 * j.grace

/-- Whether the grace period of a context's job has passed since the loss of a member at a tick, and the event has not been
delivered to it. -/
def State.downDue (s : State) (ci pkg tick : Nat) : Bool :=
  let c := s.ctxs.get ci
  decide (c.jobst = 2) && s.jobMember c.job.num pkg && !s.fab.downs.contains (ci, pkg) && match s.lostAt pkg with
    | some (t, at_) => t == tick && decide (at_ + c.job.graceCycles ≤ s.cycle)
    | none => false

/-- LINK_DOWN at a context: the event, and it halts; the package that takes the place of its buddy is owed a full mirror (R415,
R417). -/
def State.linkDownAt (s : State) (ci pkg tick : Nat) : State :=
  let s := (s.ctxEvent ci linkDownCode 0xFFFF pkg tick 0).haltCtx ci linkDownCode pkg tick 0
  let s := s.modCtx ci fun c => { c with mirFull := c.mirFull || (c.job.mirrors && c.job.buddy == pkg) }
  s.modFab fun f => { f with downs := f.downs ++ [(ci, pkg)] }

/-- LINK_DOWN (R415): at every context bound to a job of the lost package whose grace period has passed; `tick` is that of the
loss. -/
def tryLinkDown (pkg tick : Nat) (s : State) : Option State :=
  match (s.ctxs.map Prod.fst).filter fun ci => s.downDue ci pkg tick with
  | [] => none
  | cs => some (cs.foldl (fun s ci => s.linkDownAt ci pkg tick) s)
def execLinkDown (pkg tick : Nat) (s : State) : Result State := orSame (tryLinkDown pkg tick) s

/-- Device address of a byte of a context's mirror, past its header. -/
def Job.mirrorAt (j : Job) (off : Nat) : Option Nat := (j.mirror[off / 4096]?).map fun p => p.1 + off % 4096

/-- Lines of a context's mirror as a reload brings them: those written since the last commit; every line, where a spare takes the
lost package's place and has sent none. -/
def Ctx.reloads (c : Ctx) (ls : List Nat) : Bool :=
  ls == (c.mirrored.filterMap fun l => (c.job.mirrorOff (256 * l)).map (· / 256)) ||
  (c.mirCopy.isEmpty && c.mirrored.isEmpty && c.mirHead.isEmpty &&
    ls == List.range ((c.job.mirror.foldl (fun n p => n + p.2) 0) / 256))

/-- MIRROR_RELOAD (R417, R418): lines of the mirrored ranges, named by the places of their bytes in the mirror past its header,
come back from the buddy, as of the last commit. -/
def tryMirrorReload (ctx : Nat) (cells : List (Nat × BitVec 8)) (s : State) : Option State :=
  let c := s.ctxs.get ctx
  let ls := (List.range (cells.length / 256)).map fun i => (((cells[256 * i]?).map Prod.fst).getD 0) / 256
  let lines := ls.zipIdx.map fun e => (e.1, ((cells.drop (256 * e.2)).take 256).map Prod.snd)
  let whole := (cells.map Prod.fst) == ls.flatMap fun l => (List.range 256).map (256 * l + ·)
  let agrees := lines.all fun l => c.mirCopy.all fun m => m.1 ≠ l.1 || m.2 == l.2
  match cells.mapM fun e => (c.job.mirrorAt e.1).map fun pa => (pa, e.2) with
  | none => none
  | some cs =>
    if c.jobst ≠ 2 || (c.st ≠ .halted && c.st ≠ .ready && c.st ≠ .suspended) || !s.routed c.job.buddy || !whole ||
        !c.reloads ls || !agrees then none
    else
      some ((s.writeDev cs).modCtx ctx fun c => { c with mirrored := [], mirCopy := mirrorOver c.mirCopy lines })
def execMirrorReload (ctx : Nat) (cells : List (Nat × BitVec 8)) (s : State) : Result State :=
  orSame (tryMirrorReload ctx cells) s

end Sys2Proof.Machine
end

