-- ==== Sys2Proof/Machine/Context.lean ====
section
/-!
DEFINITION. The life of a context (R87–R118): its commands, the freeze, save and restore of its waves, overruns, the hang
detector (R316) and the reset of a matrix engine (R110, R302).
-/
namespace Sys2Proof.Machine

/-! ### CREATE (R91–R94, R422) -/

/-- The numbers of the bits set in a bitmap. -/
def bitmapOf (bs : List Byte) : List Nat :=
  (List.range (8 * bs.length)).filter fun i => ((bs[i / 8]?).getD 0).getLsbD (i % 8)

/-- A context as its descriptor gives it, and whether the descriptor is valid (R91, R92, R93, R422). -/
def State.describe (s : State) (b : List Byte) : Ctx × Bool :=
  let g := fieldOf b
  let c : Ctx :=
    { (default : Ctx) with
      st := .ready
      level := g 1 1
      light := (g 2 1).testBit 0
      mrAbort := (g 4 4).testBit 0
      muHalt := (g 4 4).testBit 1
      pgroot := g 8 8
      savebase := u64 (g 0x10 8)
      evrec := u64 (g 0x18 8)
      pairs := bitmapOf ((b.drop 0x20).take 96)
      ways := bitmapOf ((b.drop 0x80).take 48)
      pcgroups := bitmapOf ((b.drop 0xB0).take 32)
      gbytes := s.dv.form.groupBytes }
  let save := c.savebase.toNat
  let saveOk := save % 4096 = 0 &&
    match s.sysTarget save with
    | some (.dev pa) => c.holds pa
    | some (.host _) => true
    | _ => false
  (c, g 0 1 = 1 && decide (c.level ≤ 2) && decide (g 2 1 ≤ 1) && g 3 1 = 0 && decide (g 4 4 ≤ 3) &&
    nbits c.pgroot 63 52 = 0 && c.pgroot % 4096 = 0 && c.holds c.pgroot && saveOk &&
    (s.sysTarget c.evrec.toNat).isSome && zeroFrom b 0xD0 48 && !c.pairs.isEmpty && !c.ways.isEmpty &&
    !c.pcgroups.isEmpty && !(c.light && (decide (8 < c.pairs.length) || c.level ≠ 0)) &&
    (c.pairs.all fun p => s.dv.die.getLsbD (p / 64)) && c.pcgroups.all fun p => s.dv.hbm.getLsbD (p / 16))

/-- Whether two contexts share a pair, a way-group or a pseudo-channel group (R94). -/
def Ctx.overlaps (a b : Ctx) : Bool :=
  a.pairs.any (fun x => b.pairs.contains x) || a.ways.any (fun x => b.ways.contains x) ||
  a.pcgroups.any fun x => b.pcgroups.contains x

/-- A command that is not accepted (R89). -/
def State.cmdErr (s : State) (ci : Nat) : State := s.modCtx ci fun c => { c with cmderr := true }

/-- A context record with the registers of its slot that outlive a context (R8): those of R117 and of the page block. -/
def Ctx.inSlotOf (c o : Ctx) : Ctx :=
  { c with
    cmd := o.cmd
    cmderr := o.cmderr
    evpend := o.evpend
    evcode := o.evcode
    overrun := o.overrun
    page := { o.page with doing := .none } }

/-- CREATE. -/
def State.createCtx (s : State) (ci arg : Nat) : State :=
  match s.sysRead (4096 * arg) 256 with
  | none => s.cmdErr ci
  | some b =>
    let (c, ok) := s.describe b
    if !ok || s.ctxs.any fun e => e.1 ≠ ci && e.2.st ≠ .empty && c.overlaps e.2 then s.cmdErr ci
    else (s.modCtx ci fun o => c.inSlotOf o).noteMapped ci

/-! ### The other commands (R89, R90, R117) -/

/-- Cores of a list of pairs, ascending. -/
def coresOf (pairs : List Nat) : List Nat := (sortNat pairs).flatMap fun p => [2 * p, 2 * p + 1]

/-- Gangs of a context, and its waves. -/
def State.gangsIn (s : State) (ci : Nat) : List (Nat × Gang) := s.gangs.filter fun e => e.2.ctx == ci
def State.wavesIn (s : State) (ci : Nat) : List Nat := (s.gangsIn ci).flatMap fun e => e.2.waves

/-- SUSPEND: admission stops. -/
def State.suspendCtx (s : State) (ci : Nat) (release : Bool) : State :=
  (s.holdQueues ci).modCtx ci fun c => { c with st := .suspending, busy := true, release := release }

/-- RESUME: a context without pairs reads its placement list. DESIGN CHOICE (log entry 72): a list of more than 8 pairs for a
light context (R93) is not accepted. -/
def State.resumeCtx (s : State) (ci arg : Nat) : State :=
  let c := s.ctxs.get ci
  if !c.pairs.isEmpty then s.modCtx ci fun c => { c with st := .restoring, busy := true, place := [] }
  else
    match s.sysRead (4096 * arg) 96 with
    | none => s.cmdErr ci
    | some b =>
      let place := bitmapOf b
      if c.light && decide (8 < place.length) then s.cmdErr ci
      else s.modCtx ci fun c => { c with st := .restoring, busy := true, place := place }

/-- RELEASE. -/
def State.unhaltCtx (s : State) (ci : Nat) : State :=
  if (s.ctxs.get ci).pairs.isEmpty then s.modCtx ci fun c => { c with st := .suspended, save := none, release := true }
  else (s.modCtx ci fun c => { c with st := .ready }).releaseQueues ci

/-- The pages a context maps go to the cooling shelf (R332). -/
def State.coolAll (s : State) (ci : Nat) : State :=
  let s := s.noteMapped ci
  s.modCtx ci fun c =>
    { c with frames := (c.mapped.map Prod.snd).foldl (shelve s.epoch) c.frames }

/-- Whether a word's key lies in the memory of a context. -/
def Ctx.owns (c : Ctx) (k : Nat) : Bool := decide (k < 2 ^ 52) && c.holds k

/-- DESTROY: queues stop, kernels complete with CONTEXT, pages cool. DESIGN CHOICE (log entry 70): the records of its kernels
carry cause and infos of 0, and the packets started of other kinds have none. -/
def State.destroyCtx (s : State) (ci : Nat) : State :=
  let c := s.ctxs.get ci
  let s := s.abortAll ci 0 0 0 0
  let s := (List.range 16).foldl (fun s j => s.modQueue (16 * ci + j) fun q =>
    { q with st := .disabled, enable := false, line := none, signal := none, packets := [], failed := false }) s
  let gs := s.graphs.filter (fun e => e.2.ctx == ci) |>.map Prod.fst
  let s := gs.foldl (fun s g => { s.dropLocks g with graphs := s.graphs.put g default }) s
  let s := { s with
    locks := s.locks.filter fun l => l.local_ || l.owner ≠ ci || decide (l.uid < 2 ^ 60)
    chans := s.chans.filter fun e => !c.owns e.1
    sems := s.sems.filter fun e => !c.owns e.1 }
  let s := (s.unbindCtx ci).coolAll ci
  s.modCtx ci fun c => { c with st := .destroying, busy := true, save := none, levelQ := none, dieAt := s.epoch }

/-- A write of `ctx.cmd` (R90, R117, R422): ignored while the region is not ready. -/
def State.ctxCommand (s : State) (ci op arg : Nat) (release : Bool) : State :=
  if !s.dv.pg then s
  else
    let c := s.ctxs.get ci
    if c.busy then s.cmdErr ci
    else
      let s := s.modCtx ci fun c => { c with cmd := u64 (arg * 4096 + (if release then 256 else 0) + op) }
      let from_ (l : List CtxSt) (t : State) : State := if l.contains c.st then t else s.cmdErr ci
      match op with
      | 0 => s
      | 1 => from_ [.empty] (s.createCtx ci arg)
      | 2 => from_ [.ready, .running] (s.suspendCtx ci release)
      | 3 => from_ [.suspended] (s.resumeCtx ci arg)
      | 4 => from_ [.halted] (s.unhaltCtx ci)
      | 5 => from_ [.ready, .suspended, .halted] (s.destroyCtx ci)
      | _ => s.cmdErr ci

/-- CREATE, SUSPEND, RESUME, RELEASE and DESTROY (R89). -/
def execCreate (ctx : Nat) (arg : BitVec 52) (s : State) : Result State := .next (s.ctxCommand ctx 1 arg.toNat false)
def execSuspend (ctx : Nat) (s : State) : Result State := .next (s.ctxCommand ctx 2 0 false)
def execSuspendRelease (ctx : Nat) (s : State) : Result State := .next (s.ctxCommand ctx 2 0 true)
def execResume (ctx : Nat) (arg : BitVec 52) (s : State) : Result State := .next (s.ctxCommand ctx 3 arg.toNat false)
def execReleaseCtx (ctx : Nat) (s : State) : Result State := .next (s.ctxCommand ctx 4 0 false)
def execDestroy (ctx : Nat) (s : State) : Result State := .next (s.ctxCommand ctx 5 0 false)

/-! ### Freeze and save (R97–R100, R167) -/

/-- Whether a wave stands at a point where its state can be frozen (R97, R166, R264): nothing of it is on its way but an
operation in a latch entry that has not closed and a `semw` that waits at another package (R196); and it is not inside the round of
one lane of `lser`. -/
def State.frozenWave (s : State) (wi : Nat) : Bool :=
  let w := s.waves.get wi
  (w.st = .exited || (w.ctl.ops.all (fun o => s.inLatch wi o.uid) && !s.midCtl wi && !w.midVec &&
    w.remote.all (fun r => r.queued) && !w.inRound)) &&
  (s.adds.all fun a => a.wave ≠ wi || a.home) && !s.fab.lines.any fun e => e.2.any fun l => l.wave == wi

/-- Whether a gang can be frozen: at level 0 at any boundary, at the others only where its workgroups have been stopped. -/
def State.frozenGang (s : State) (g : Gang) : Bool :=
  let k := s.kernels.get g.kern
  let stopped (m : Nat) : Bool := g.exited.contains m || g.stops.contains (m / k.desc.wgwaves)
  (match g.st with
   | .resident | .granted => true
   | _ => false) &&
  (k.desc.level = 0 || (List.range g.waves.length).all stopped) && g.waves.all fun w => s.frozenWave w

/-- A wave at rest: its store queue has drained (R264), and a waiting instruction has not executed and re-issues whole
(R167). -/
def State.parkWave (s : State) (wi : Nat) : State :=
  (((s.drainStores wi).arriveAll (coreOf wi)).withdraw wi).modWave wi fun w =>
    { w with
      wait := .none
      arrival := w.arrival.filter fun a => match a.kind with
        | .chan .. => false
        | _ => true }

/-- The place of a core in a save, by the order of its occupied pairs. -/
def savedIndex (pairs : List Nat) (core : Nat) : Nat := 2 * ((pairs.findIdx? fun p => p == core / 2).getD 0) + core % 2

/-- Whether a core holds anything to save. -/
def CoreSt.occupied (c : CoreSt) : Bool :=
  !c.owner.isEmpty || c.front.loaded || c.shadow.loaded || c.session.isSome || !c.latch.isEmpty

/-- The save of a context (R98): its waves, gangs and cores leave the package; its pairs are free. -/
def State.saveCtx (s : State) (ci : Nat) : State :=
  let c := s.ctxs.get ci
  let gs := s.gangsIn ci
  let ws := s.wavesIn ci
  let occupied := (coresOf c.pairs).filter fun k => (s.cores.get k).occupied || ws.any fun w => coreOf w == k
  let pairs := (sortNat (occupied.map (· / 2))).eraseDups
  let at_ (w : Nat) : Nat := 32 * savedIndex pairs (coreOf w) + w % 32
  let save : Save :=
    { waves := ws.map fun w => (at_ w, s.waves.get w)
      gangs := gs.map fun e => (e.1, { e.2 with
        waves := e.2.waves.map at_
        st := .saved
        request := false })
      cores := occupied.map fun k =>
        let x := s.cores.get k
        (savedIndex pairs k,
          { x with
            owner := x.owner.map fun e => (e.1, match e.2 with
              | .wave w => .wave (at_ w)
              | o => o)
            session := x.session.map fun o => if o.crew = 0 then { o with wave := at_ o.wave } else o
            waiting := []
            l1 := [] })
      pairs := pairs.length }
  let s := ws.foldl (fun s w => s.setWave w default) s
  let s := gs.foldl (fun s e => { s with gangs := s.gangs.put e.1 { e.2 with st := .saved, waves := [] } }) s
  let s := (coresOf c.pairs).foldl (fun s k => { s with cores := s.cores.put k default }) s
  s.modCtx ci fun c => { c with save := some save, pairs := [] }

/-- FROZEN_OR_SAVED (R89, R97, R248): every gang is frozen, store queues and buffers have drained; then the save, where
asked. DESIGN CHOICE (log entry 77): the waves of a LAUNCH node's kernel at level 0 freeze as any others. -/
def tryFrozenOrSaved (ctx : Nat) (s : State) : Option State :=
  let c := s.ctxs.get ctx
  if c.st ≠ .suspending || !(s.gangsIn ctx).all fun e => s.frozenGang e.2 then none
  else
    let waves := s.wavesIn ctx
    let full := (coresOf c.pairs).filter fun k => !(s.cores.get k).wcb.isEmpty
    if waves.any fun w => !(s.waves.get w).stq.isEmpty then some (waves.foldl State.drainStores s)
    else if !full.isEmpty then some (full.foldl State.drainWcb s)
    else if (coresOf c.pairs).any fun k => s.drainsOut k then none
    else
      let s := waves.foldl State.parkWave s
      let s := if c.release then s.saveCtx ctx else s
      some (s.modCtx ctx fun c => { c with st := .suspended, busy := false, stopAt := s.own })
def execFrozenOrSaved (ctx : Nat) (s : State) : Result State := orSame (tryFrozenOrSaved ctx) s

/-! ### Restore (R103, R104) -/

def restoreCapacity : Nat := 0x42

/-- The first item that does not fit a placement: info0 and the pair of the record (R103). -/
def State.misfit (s : State) (ci : Nat) : Option (Nat × Nat) :=
  let c := s.ctxs.get ci
  let need := max 1 ((c.save.map fun x => x.pairs).getD 0)
  if c.place.length < need then some (2 ^ 56 + need, 0xFFFF)
  else
    let held (p : Nat) : Bool := !s.dv.die.getLsbD (p / 64) || s.ctxs.any fun e => e.1 ≠ ci && e.2.pairs.contains p
    ((sortNat c.place).find? held).map fun p => (6 * 2 ^ 56 + p, p)

/-- The waves' bounds do not run while they were stopped (R305). -/
def State.shiftArrivals (s : State) (ci : Nat) : State :=
  let by_ := s.own - (s.ctxs.get ci).stopAt
  (s.wavesIn ci).foldl (fun s w => s.modWave w fun w =>
    { w with arrival := w.arrival.map fun a => { a with start := a.start + by_ } }) s

/-- A save put back on the listed pairs, in ascending order. -/
def State.loadSave (s : State) (ci : Nat) : State :=
  let c := s.ctxs.get ci
  let pairs := sortNat c.place
  let core (i : Nat) : Nat := 2 * ((pairs[i / 2]?).getD 0) + i % 2
  let at_ (w : Nat) : Nat := 32 * core (w / 32) + w % 32
  let s := s.modCtx ci fun c => { c with pairs := pairs, place := [], save := none }
  match c.save with
  | none => s
  | some x =>
    let s := x.waves.foldl (fun s e => s.occupy (at_ e.1) e.2) s
    let s := x.gangs.foldl (fun s e => { s with gangs := s.gangs.put e.1 { e.2 with
      waves := e.2.waves.map at_
      st := if e.2.granted then .granted else .resident } }) s
    x.cores.foldl (fun s e => { s with cores := s.cores.put (core e.1) { e.2 with
      owner := Tab.putAll (α := TileOwner) [] (e.2.owner.map fun o => (o.1, match o.2 with
        | .wave w => .wave (at_ w)
        | y => y))
      session := e.2.session.map fun o => if o.crew = 0 then { o with wave := at_ o.wave } else o } }) s

/-- Issue goes on, in workgroups stopped at an overrun too (R89, R102). -/
def State.runAgain (s : State) (ci : Nat) : State :=
  let s := s.shiftArrivals ci
  let s := { s with gangs := s.gangs.mapVals fun _ g => if g.ctx = ci then { g with stops := [] } else g }
  let live := s.gangs.any fun e => e.2.ctx == ci
  (s.modCtx ci fun c => { c with st := if live then .running else .ready, busy := false, place := [] }).releaseQueues ci

/-- RESTORE_COMPLETE (R103, R104): a failing check word halts the context; a misfit refuses the restore whole; else every
item is loaded and issue goes on. DESIGN CHOICE (log entry 72): where both are met, the check word wins. -/
def tryRestoreComplete (ctx : Nat) (badBlock : Option (BitVec 64)) (s : State) : Option State :=
  let c := s.ctxs.get ctx
  if c.st ≠ .restoring then none
  else if !c.pairs.isEmpty then some (s.runAgain ctx)
  else
    match badBlock with
    | some a => some ((s.ctxEvent ctx memUncorrectable 0xFFFF 0 a.toNat 0).haltCtx ctx memUncorrectable 0 a.toNat 0)
    | none =>
      match s.misfit ctx with
      | some (info, pair) =>
        some ((s.ctxEvent ctx restoreCapacity pair info 0 0).modCtx ctx fun c =>
          { c with st := .suspended, busy := false, place := [] })
      | none => some (((s.loadSave ctx).noteMapped ctx).runAgain ctx)
def execRestoreComplete (ctx : Nat) (badBlock : Option (BitVec 64)) (s : State) : Result State :=
  orSame (tryRestoreComplete ctx badBlock) s

/-- QUIESCED (R89): the counters have passed every access of a Destroying context, and no record of it waits; its partition is
free. -/
def tryQuiesced (ctx : Nat) (s : State) : Option State :=
  let c := s.ctxs.get ctx
  let gone := !s.gangs.any fun e => e.2.ctx == ctx
  if c.st ≠ .destroying || !gone || (s.late.any fun r => r.ctx == ctx) || decide (s.quiet c ≤ c.dieAt) then none
  else
    let s := (coresOf c.pairs).foldl (fun s k => { s with cores := s.cores.put k default }) s
    some (s.modCtx ctx fun c => (default : Ctx).inSlotOf c)
def execQuiesced (ctx : Nat) (s : State) : Result State := orSame (tryQuiesced ctx) s

/-- Members of a workgroup of a gang. -/
def Gang.wgMembers (g : Gang) (wgwaves wg : Nat) : List Nat := (List.range g.waves.length).filter fun m => m / wgwaves == wg

/-- OVERRUN_STOP (R102): a workgroup that has issued and is still resident outlasts its bound while a pre-emption is pending;
its waiting instructions have not executed (R167). -/
def tryOverrunStop (gang wg : Nat) (s : State) : Option State :=
  let g := s.gangs.get gang
  let k := s.kernels.get g.kern
  let since := g.starts.get wg
  let ms := g.wgMembers k.desc.wgwaves wg
  let resident := match g.st with
    | .resident | .granted => !ms.all fun m => g.exited.contains m
    | _ => false
  if !resident || k.desc.level = 0 || (s.ctxs.get g.ctx).st ≠ .suspending || since = 0 || g.stops.contains wg ||
      decide (k.desc.gangwg ≤ wg) || decide (s.own + 1 < since + k.desc.maxgc) then none
  else
    let s := (ms.filterMap fun m => g.waves[m]?).foldl State.parkWave s
    some ((s.modGang gang fun g => { g with stops := g.stops ++ [wg] }).modCtx g.ctx fun c => { c with overrun := true })
def execOverrunStop (gang wg : Nat) (s : State) : Result State := orSame (tryOverrunStop gang wg) s

/-! ### The hang detector (R316) -/

/-- Whether the pages an `evict` of a wave has freed stay on the shelf until a commit of its own kernel: an ordered add held
for it was issued no later (R343). -/
def State.evictWaits (s : State) (wi : Nat) (o : PendingOp) : Bool :=
  let w := s.waves.get wi
  (s.ctxs.get w.id.ctx).frames.any fun e =>
    match e.2 with
    | .cooling _ f (some x) => x.uid == o.uid && s.adds.any fun a => a.home && a.kern == w.id.kern && decide (a.stamp ≤ f)
    | _ => false
def State.evictBlocked (s : State) (wi : Nat) : Bool := (s.waves.get wi).ctl.ops.any fun o => s.evictWaits wi o

/-- Whether a wave's barrier has not released it. -/
def State.atBarrier (s : State) (w : Wave) (a : Arrival) : Bool :=
  let g := s.gangOf w
  let on (key : Nat) : Bool := decide ((g.bars.get key).gen ≤ a.gen)
  match a.kind with
  | .wg => on (keyWg (w.id.member / (s.kernOf w).desc.wgwaves))
  | .gang => on keyGang
  | .masked id => on (keyMasked id)
  | .dev va _ => (s.objectNow w va).all fun pa => s.mem.readNat (pa + 4) 4 == a.gen
  | .fabric id =>
    (s.ctxOf w).jobst ≠ 2 || !s.fab.fbars.any fun b => b.job == (s.ctxOf w).job.num && b.id == id && decide (a.gen < b.delivered)
  | .chan .. => true

/-- Whether a waiter at a semaphore has to wait: behind another, or for a count not yet there. -/
def State.atSem (s : State) (wi : Nat) : Bool :=
  s.sems.any fun e => e.2.zipIdx.any fun x =>
    x.1.wave == wi && x.1.peer.isNone && (decide (0 < x.2) || match s.readAt (keyTarget e.1) 8 with
      | .ok m => decide (m < x.1.value.toNat)
      | .error _ => true)

/-- What a wave waits for as things stand, seen through an operation it stands before (R316); `other` where nothing but
time is in the way. -/
def State.waitOf (s : State) (wi : Nat) : Wait :=
  let w := s.waves.get wi
  let c := s.cores.get (coreOf wi)
  let g := s.gangOf w
  let when_ (b : Bool) (x : Wait) : Wait := if b then x else .other
  let latch := w.ctl.ops.any fun o => s.inLatch wi o.uid
  let mine (o : Owner) : Bool :=
    if o.crew = 0 then o.wave == wi else o.gang == w.id.gang && (crewMembers o.crew).contains w.id.member
  let queued := c.session.isSome && c.waiting.any mine
  match w.wait with
  | .none => .none
  | .barrier => when_ (w.arrival.any fun a => s.atBarrier w a) .barrier
  | .channel => when_ w.arrival.isSome .channel
  | .sem => when_ (s.atSem wi) .sem
  | .grant => when_ (g.st == .resident && g.request && (s.requestAhead g || !s.fits g)) .grant
  | _ =>
    if latch then .latch
    else if queued && w.ctl.ops.any (fun o => isMatrix o.instr) then .session
    else when_ (s.evictBlocked wi) .evict

/-- Its code in the event record. -/
def Wait.code : Wait → Nat
  | .barrier => 1 | .channel => 2 | .sem => 3 | .grant => 4 | .latch => 5 | .session => 6 | .evict => 7
  | .none | .hold | .other => 0

/-- Waves of some members of a gang. -/
def Gang.wavesOf (g : Gang) (ms : List Nat) : List Nat := ms.filterMap fun m => g.waves[m]?

/-- The waves that alone can discharge a wave's wait. -/
def State.waitEdges (s : State) (wi : Nat) : List Nat :=
  let w := s.waves.get wi
  let g := s.gangOf w
  let n := (s.kernOf w).desc.wgwaves
  let absent (key : Nat) : List Nat :=
    let b := g.bars.get key
    g.wavesOf ((g.required n key b.mask).filter fun m => !b.arrived.contains m && !g.exited.contains m)
  let c := s.cores.get (coreOf wi)
  match s.waitOf wi with
  | .barrier =>
    match w.arrival.map Arrival.kind with
    | some .wg => absent (keyWg (w.id.member / n))
    | some .gang => absent keyGang
    | some (.masked id) => absent (keyMasked id)
    | _ => []
  | .latch =>
    c.latch.flatMap fun e =>
      if !e.closed && e.gang = w.id.gang && e.joined.any fun j => j.member == w.id.member then
        g.wavesOf ((crewMembers e.crew).filter fun m => !e.joined.any fun j => j.member == m)
      else []
  | .session =>
    match c.session with
    | some o =>
      if o.crew = 0 then [o.wave] else (s.gangs.get o.gang).wavesOf (crewMembers o.crew)
    | none => []
  | .grant =>
    s.gangs.flatMap fun e =>
      if e.1 ≠ w.id.gang && e.2.st = .granted && e.2.cores.any fun k => g.cores.contains k then e.2.waves else []
  | .evict => [wi]
  | _ => []

/-- Whether waves wait in a circle that a wave stands on: the waves reached from it in so many steps. -/
def State.reaches (s : State) (goal : Nat) : Nat → List Nat → Bool
  | 0, _ => false
  | n + 1, ws =>
    let next := (ws.flatMap fun w => s.waitEdges w).eraseDups
    next.contains goal || State.reaches s goal n ((ws ++ next).eraseDups)

/-- Whether a wave waits on something outside the package: `fbar`, or a word in a peer window or host memory. -/
def State.waitsOutside (s : State) (wi : Nat) : Bool :=
  let w := s.waves.get wi
  match w.arrival.map Arrival.kind with
  | some (.fabric _) => true
  | _ => !w.remote.isEmpty || s.sems.any fun e => decide (2 ^ 60 ≤ e.1) && e.2.any fun x => x.wave == wi && x.peer.isNone

/-- Whether a started packet of a context is pending (R316). -/
def State.packetPending (s : State) (ci : Nat) : Bool :=
  (s.ctxs.get ci).levelQ.isSome ||
  ((List.range 16).any fun j =>
    let q := s.queues.get (16 * ci + j)
    (q.st == .waiting && (q.line.any fun l => l.type == 4)) || q.signal.isSome ||
    q.packets.any (fun p => !p.done && p.type == 5)) || s.late.any fun r => r.ctx == ci

/-- Whether a gang of a context could be placed now. -/
def State.canPlace (s : State) (ci : Nat) : Bool :=
  let c := s.ctxs.get ci
  c.admits && s.kernels.any fun e => e.2.ctx == ci && e.2.unplaced && s.placesNext e.1 && (coresOf c.pairs).any fun k =>
    (List.range (e.2.desc.gangwg + 1)).any fun j => (s.slotsFor e.2.desc k j).isSome

/-- Whether a graph of a context has a node launched that counts of itself, or one that is to be launched: a LAUNCH counts
through its waves. -/
def State.nodePending (s : State) (ci : Nat) : Bool :=
  s.graphs.any fun e => e.2.ctx == ci && (e.2.launched.any (fun n => s.nodeKind e.2 n != 2) ||
    ((s.ctxs.get ci).admits && !e.2.ready.isEmpty))

/-- Whether a pending operation has reached the engine of its core: it waits neither in the latch, nor for its wave's blocks or
an earlier operation, nor for a session (R284, R285, R302). -/
def State.atEngine (s : State) (wi : Nat) (o : PendingOp) : Bool :=
  let ours (f : Form) : Bool :=
    match s.openSession (o.ctx wi f) with
    | .ok _ => true
    | .error _ => false
  !s.unreached wi o && !s.behind wi o.uid o.instr o.caps &&
  match o.instr with
  | .ldw f | .mma f | .mmaSp f | .mmaSr f => ours f
  | .scac _ | .zdrain _ => true
  | _ => false

/-- The operations of the engines (R244, R245). -/
def engineOp : Instr → Bool
  | .ldw _ | .mma _ | .mmaSp _ | .mmaSr _ | .scac _ | .zdrain _ | .evict _ | .rast _ | .allred _ => true
  | _ => false

/-- Whether a pending operation is what its wave waits through: in the latch, before a session or a tile, or an `evict` that
awaits a commit (R316). -/
def State.isWait (s : State) (wi : Nat) (o : PendingOp) : Bool :=
  s.inLatch wi o.uid || (isMatrix o.instr && !s.atEngine wi o) || s.evictWaits wi o

/-- Whether the waves of a kernel's level go on in their context: it runs, or lets workgroups retire at levels 1 and 2 (R97). -/
def State.goesOn (s : State) (w : Wave) : Bool :=
  let c := s.ctxOf w
  c.st = .running || (c.st = .suspending && decide (0 < s.levelOf w))

/-- What the idle rule asks of every cycle of its span (R316). -/
def State.idleNow (s : State) (ci : Nat) : Bool :=
  let ws := (s.wavesIn ci).filter fun w => (s.waves.get w).st == .running
  !ws.isEmpty &&
  ws.all (fun w =>
    let x := s.waves.get w
    s.goesOn x && (s.waitOf w).code ≠ 0 && x.vecIdle && !s.waitsOutside w) &&
  (s.wavesIn ci).all (fun w => (s.waves.get w).ctl.ops.all fun o => !engineOp o.instr || s.isWait w o) &&
  !s.packetPending ci && !s.canPlace ci && !s.nodePending ci

/-! ### What goes on for a pending operation (R97; log entry 77) -/

/-- Waves whose blocks a pending operation waits for: a fragment form's own, or those of every member of a closed entry. -/
def State.blockWaits (s : State) (wi : Nat) : List Nat :=
  (s.waves.get wi).ctl.ops.flatMap fun o =>
    match o.instr with
    | .mma f | .mmaSp f | .mmaSr f =>
      if !f.optBit 3 || s.inLatch wi o.uid then []
      else
        match (s.cores.get (coreOf wi)).latch.find? fun e => e.has o.uid with
        | some e => e.joined.filterMap fun j =>
            ((s.gangs.get e.gang).waves[j.member]?).filter fun w => !s.blocksDone w j.mark
        | none => if s.blocksDone wi o.mark then [] else [wi]
    | _ => []

/-- Waves of the owner of the session that a pending operation waits for. -/
def State.sessionWaits (s : State) (wi : Nat) : List Nat :=
  match (s.cores.get (coreOf wi)).session with
  | none => []
  | some x =>
    let waits := (s.waves.get wi).ctl.ops.any fun o => usesPlanes o.instr && !s.inLatch wi o.uid &&
      (match o.instr.form? with
       | some f => s.sessionOwner (o.ctx wi f) != x
       | none => false)
    if !waits then [] else if x.crew = 0 then [x.wave] else (s.gangs.get x.gang).wavesOf (crewMembers x.crew)

/-- Waves with those that alone can discharge their waits, so many times over. -/
def State.dischargers (s : State) : Nat → List Nat → List Nat
  | 0, ws => ws
  | n + 1, ws => s.dischargers n ((ws ++ ws.flatMap fun w => s.waitEdges w).eraseDups)

/-- The waves that go on while their context is Suspending, and whether both streams do: until no pending operation waits for
them. -/
def State.noteOnward (s : State) : State :=
  { s with onward := s.ctxs.flatMap fun e =>
      if e.2.st ≠ .suspending then []
      else
        let ws := s.wavesIn e.1
        ((s.dischargers s.waves.length (ws.flatMap fun w => s.sessionWaits w)).map fun w => (w, true)) ++
        (ws.flatMap fun w => s.blockWaits w).map fun w => (w, false) }

/-- The start of each context's idle span, after a step. -/
def State.noteIdle (s : State) : State :=
  { s with idleSince := s.ctxs.filterMap fun e =>
      if s.idleNow e.1 then some (e.1, if s.idleSince.get e.1 = 0 then s.own + 1 else s.idleSince.get e.1) else none }

/-- The idle rule: 2²⁶ consecutive cycles of it (R316), those left out that power or thermal control held (R428). -/
def State.idle (s : State) (ci : Nat) : Bool :=
  let t := s.idleSince.get ci
  s.idleNow ci && t != 0 && decide (t + 2 ^ 26 ≤ s.own + 1)

def hangCode : Nat := 0x40

/-- HANG (R316): a wave of a circle of waits, or any wave of an idle context, is named, and the context halts. -/
def tryHang (ctx wave : Nat) (s : State) : Option State :=
  let w := s.waves.get wave
  let k := (s.waitOf wave).code
  if w.st ≠ .running || w.id.ctx ≠ ctx || k = 0 || !s.goesOn w then none
  else if s.reaches wave (s.waves.length + 1) [wave] || s.idle ctx then
    let core := coreOf wave
    let info := wave % 32 + core % 128 * 256
    let pc := w.ctl.pc.toNat
    some ((s.ctxEvent ctx hangCode (pairOfCore core) info pc k).haltCtx ctx hangCode info pc k)
  else none
def execHang (ctx wave : Nat) (s : State) : Result State := orSame (tryHang ctx wave) s

/-! ### MATRIX_RESET (R110, R302) -/

def matrixResetCode : Nat := 0x41

/-- A wave's matrix operations are dropped, with their range locks. -/
def State.dropMatrix (s : State) (wi : Nat) : State :=
  (s.waves.get wi).ctl.ops.foldl (fun s o => if isMatrix o.instr then s.endOp wi o.uid else s) s

/-- MATRIX_RESET: an operation that has reached the engine of a core has made no progress for 2²⁴ cycles, those left out
that power or thermal control held (R428). -/
def tryMatrixReset (core : Nat) (pc : BitVec 64) (s : State) : Option State :=
  let slots := (List.range 32).map fun k => 32 * core + k
  let stuck := slots.any fun wi => (s.waves.get wi).ctl.ops.any fun o =>
    o.site == pc && s.atEngine wi o && decide (max o.since (s.cores.get core).opened + 2 ^ 24 ≤ s.own)
  let owner := s.ctxs.find fun _ c => c.pairs.contains (pairOfCore core)
  match stuck, owner with
  | true, some (ci, c) =>
    let s := s.ctxEvent ci matrixResetCode (pairOfCore core) core pc.toNat 0
    let s := slots.foldl State.dropMatrix s
    let s := s.modCore core fun x =>
      { x with
        entries := []
        session := none
        waiting := []
        latch := []
        front := { x.front with loaded := false }
        shadow := { x.shadow with loaded := false } }
    let gs := s.gangs.filter fun e => e.2.waves.any fun w => coreOf w == core
    let s := gs.foldl (fun s e =>
      (s.terminateGang e.1).abortKernel e.2.kern 3 matrixResetCode (rep matrixResetCode (u64 core) pc)) s
    some (if c.mrAbort then s.haltCtx ci matrixResetCode core pc.toNat 0 else s)
  | _, _ => none
def execMatrixReset (core : Nat) (pc : BitVec 64) (s : State) : Result State := orSame (tryMatrixReset core pc) s

end Sys2Proof.Machine
end

