-- ==== Sys2Proof/Machine/ControlAlu.lean ====
section
/-!
DEFINITION. Integer arithmetic and logic, moves and address forms of the control stream (R170–R178).
-/
namespace Sys2Proof.Machine

/-- Sources x and y of Table 8.2 as exact integers of the type. -/
def Wave.aluX (w : Wave) (f : Form) : Int := valOf f.type (w.src f.type (f.srcA false))
def Wave.aluY (w : Wave) (f : Form) : Int := valOf f.type (w.src f.type (f.srcB false))
/-- The shift amount, a position or a length: n64 whatever the type (R171, R176). -/
def Wave.amountB (w : Wave) (f : Form) : Nat := w.src .n64 (f.srcB false)
def Wave.amountC (w : Wave) (f : Form) : Nat := w.src .n64 (f.srcC false)

/-- A result reduced to the type and written to the whole destination (R170, R172). -/
def putAlu (f : Form) (r : Int) (s : State) : State :=
  s.modMe fun w => w.setS f.d.toNat (extend64 f.type (reduce f.type f.sat r))

/-- An instruction of Table 8.2 with two typed sources. -/
def runAlu (i : Instr) (f : Form) (op : Int → Int → Int) (s : State) : Result State :=
  runCtl i (fun s => pure (putAlu f (op (s.me.aluX f) (s.me.aluY f)) s)) s

/-- `div` and `rem`: DIVIDE for a zero divisor (R172). -/
def runDiv (i : Instr) (f : Form) (op : Int → Int → Int) (s : State) : Result State :=
  runCtl i (fun s =>
    if s.me.aluY f = 0 then trapEff (rep divide 0 0)
    else pure (putAlu f (op (s.me.aluX f) (s.me.aluY f)) s)) s

/-- A bitwise instruction: the bits of both sources under the type. -/
def runBits (i : Instr) (f : Form) (op : Nat → Nat → Nat) (s : State) : Result State :=
  runCtl i (fun s =>
    pure (putAlu f (op (s.me.src f.type (f.srcA false)) (s.me.src f.type (f.srcB false))) s)) s

/-- A shift: the first source as bits, the amount as n64. -/
def runShift (i : Instr) (f : Form) (op : Nat → Nat → Nat) (s : State) : Result State :=
  runCtl i (fun s => pure (putAlu f (op (s.me.src f.type (f.srcA false)) (s.me.amountB f)) s)) s

/-- Shifts of Table 8.2. -/
def shlOp (w : Nat) (x y : Nat) : Nat := if w ≤ y then 0 else x * 2 ^ y
def shrOp (w : Nat) (x y : Nat) : Nat := if w ≤ y then 0 else x / 2 ^ y
/-- Arithmetic shift right by at most w − 1, rounding down. -/
def sarOp (w : Nat) (x : Int) (y : Nat) : Int := x / (2 ^ min y (w - 1) : Nat)

def runSar (i : Instr) (f : Form) (s : State) : Result State :=
  runCtl i (fun s => pure (putAlu f (sarOp f.type.width (s.me.aluX f) (s.me.amountB f)) s)) s

/-- The high half of an exact product: ⌊x · y / 2^w⌋. -/
def mulhOp (w : Nat) (x y : Int) : Int := x * y / (2 ^ w : Nat)

def execAdd (f : Form) (s : State) : Result State := runAlu (.add f) f (· + ·) s
def execSub (f : Form) (s : State) : Result State := runAlu (.sub f) f (· - ·) s
def execMul (f : Form) (s : State) : Result State := runAlu (.mul f) f (· * ·) s
def execMulh (f : Form) (s : State) : Result State := runAlu (.mulh f) f (mulhOp f.type.width) s
def execDiv (f : Form) (s : State) : Result State := runDiv (.div f) f Int.tdiv s
def execRem (f : Form) (s : State) : Result State := runDiv (.rem f) f Int.tmod s
def execBitAnd (f : Form) (s : State) : Result State := runBits (.bitAnd f) f (· &&& ·) s
def execBitOr (f : Form) (s : State) : Result State := runBits (.bitOr f) f (· ||| ·) s
def execXor (f : Form) (s : State) : Result State := runBits (.xor f) f (· ^^^ ·) s
/-- x and not y. -/
def execAndn (f : Form) (s : State) : Result State :=
  runBits (.andn f) f (fun x y => x ^^^ (x &&& y)) s
def execShl (f : Form) (s : State) : Result State := runShift (.shl f) f (shlOp f.type.width) s
def execShr (f : Form) (s : State) : Result State := runShift (.shr f) f (shrOp f.type.width) s
def execSar (f : Form) (s : State) : Result State := runSar (.sar f) f s
def execMin (f : Form) (s : State) : Result State := runAlu (.min f) f min s
def execMax (f : Form) (s : State) : Result State := runAlu (.max f) f max s

/-- `sel`: s[d] := c[N] ? x : y (R177). -/
def execSel (f : Form) (s : State) : Result State :=
  runCtl (.sel f) (fun s =>
    pure (putAlu f (if s.me.getC f.c.toNat then s.me.aluX f else s.me.aluY f) s)) s

/-- The writes of a control predicate pair (R66, R178): a guard-false `cmp` writes only under zero-fill. -/
def Wave.putPair (w : Wave) (f : Form) (g q : Bool) : Wave :=
  let P := f.d.toNat % 16
  let Q := f.d.toNat / 16
  match combine f.ctype g q (w.getC P) (w.getC Q) with
  | some (x, y) => (w.setC P x).setC Q y
  | none => w

/-- `cmp` (R178): the only control instruction whose false guard writes, under zero-fill. -/
def execCmp (f : Form) (s : State) : Result State :=
  let i := Instr.cmp f
  let w := s.me
  let x := valOf f.type (w.src f.type (f.csrcA false))
  let y := valOf f.type (w.src f.type (f.csrcB false))
  if !w.ctl.skip && !w.breaksClause i && !w.busy i && !w.guardTrue i then
    .next (s.modMe fun w => (w.putPair f false false).advance (parcelsOfInstr i) false)
  else
    runCtl i (fun s => pure (s.modMe fun w => w.putPair f true (condHolds f.cond x y))) s

/-- `lea` (R174): base, scaled index and displacement; memory is not accessed. -/
def execLea (f : Form) (s : State) : Result State :=
  runCtl (.lea f) (fun s =>
    let w := s.me
    let disp : W64 :=
      match f.srcC false with
      | .lit v => v.signExtend 64
      | .imm n => i64 n
      | .reg n => w.getS n
      | _ => 0
    pure (s.modMe fun w =>
      w.setS f.d.toNat (w.getS f.a.toNat + w.getS f.b.toNat <<< f.variant + disp))) s

/-- A move of one source (R173). -/
def runMove (i : Instr) (f : Form) (s : State) : Result State :=
  runCtl i (fun s => pure (putAlu f (s.me.aluX f) s)) s

def execMov (f : Form) (s : State) : Result State := runMove (.mov f) f s
def execLdi (f : Form) (s : State) : Result State := runMove (.ldi f) f s

/-- `ldi.hi` (R173): the literal becomes the high word; the low word stays. -/
def execLdiHi (f : Form) (s : State) : Result State :=
  runCtl (.ldiHi f) (fun s =>
    pure (s.modMe fun w =>
      w.setS f.d.toNat ((f.lit?.getD 0) ++ (w.getS f.d.toNat).setWidth 32))) s

/-- The number of 1 bits of a value. -/
def popCount (x : Nat) : Nat := ((List.range 64).filter fun i => nbit x i).length

/-- The 0 bits above the highest 1 bit in a width; the width where there is none. -/
def leadZeros (w x : Nat) : Nat := w - (if x = 0 then 0 else Nat.log2 x + 1)

/-- `popc` and `clz` write a count as n64 (R175). -/
def runCount (i : Instr) (f : Form) (op : Nat → Nat) (s : State) : Result State :=
  runCtl i (fun s =>
    pure (s.modMe fun w => w.setS f.d.toNat (u64 (op (w.src f.type (f.srcA false)))))) s

def execPopc (f : Form) (s : State) : Result State := runCount (.popc f) f popCount s
def execClz (f : Form) (s : State) : Result State := runCount (.clz f) f (leadZeros f.type.width) s

/-- Position and length of a bit field, cut to the width (R176, R215). -/
def fieldPos (w pos : Nat) : Nat := min pos w
def fieldLen (w pos len : Nat) : Nat := min len (w - fieldPos w pos)

/-- The field a `bfx` extracts (R176): signed under i types. -/
def bfxOp (t : ElemType) (x pos len : Nat) : Int :=
  let l := fieldLen t.width pos len
  let v := x / 2 ^ fieldPos t.width pos % 2 ^ l
  if t.signed then signedOf l v else v

/-- The word with a field inserted (R176). -/
def bfiOp (w : Nat) (old x pos len : Nat) : Nat :=
  let p := fieldPos w pos
  let m := (2 ^ fieldLen w pos len - 1) * 2 ^ p
  (old ^^^ (old &&& m)) ||| (x * 2 ^ p &&& m)

def execBfx (f : Form) (s : State) : Result State :=
  runCtl (.bfx f) (fun s =>
    let w := s.me
    pure (putAlu f (bfxOp f.type (w.src f.type (f.srcA false)) (w.amountB f) (w.amountC f)) s)) s

def execBfi (f : Form) (s : State) : Result State :=
  runCtl (.bfi f) (fun s =>
    let w := s.me
    let old := (w.getS f.d.toNat).toNat % 2 ^ f.type.width
    pure (putAlu f (bfiOp f.type.width old (w.src f.type (f.srcA false)) (w.amountB f) (w.amountC f)) s)) s

/-! ### Short forms (R76) -/

def execAddI64Short (f : Short) (s : State) : Result State := runAlu (.addI64Short f) (shortForm f .i64) (· + ·) s
def execSubI64Short (f : Short) (s : State) : Result State := runAlu (.subI64Short f) (shortForm f .i64) (· - ·) s
def execAndB64Short (f : Short) (s : State) : Result State := runBits (.andB64Short f) (shortForm f .b64) (· &&& ·) s
def execOrB64Short (f : Short) (s : State) : Result State := runBits (.orB64Short f) (shortForm f .b64) (· ||| ·) s
def execXorB64Short (f : Short) (s : State) : Result State := runBits (.xorB64Short f) (shortForm f .b64) (· ^^^ ·) s
def execShlB64Short (f : Short) (s : State) : Result State := runShift (.shlB64Short f) (shortForm f .b64) (shlOp 64) s
def execShrB64Short (f : Short) (s : State) : Result State := runShift (.shrB64Short f) (shortForm f .b64) (shrOp 64) s
def execSarI64Short (f : Short) (s : State) : Result State := runSar (.sarI64Short f) (shortForm f .i64) s
def execMovB64Short (f : Short) (s : State) : Result State := runMove (.movB64Short f) (shortForm f .b64) s
def execMinI64Short (f : Short) (s : State) : Result State := runAlu (.minI64Short f) (shortForm f .i64) min s
def execMaxI64Short (f : Short) (s : State) : Result State := runAlu (.maxI64Short f) (shortForm f .i64) max s

end Sys2Proof.Machine
end

