-- ==== Sys2Proof/Machine/ControlFlow.lean ====
section
/-!
DEFINITION. Clause headers, branches, calls and loops, and the instructions that steer or question the vector side
(R68–R72, R179–R188).
-/
namespace Sys2Proof.Machine

/-- A clause header (R69, R70): it waits for the flags it names, raises what they hold, and opens the clause. -/
def execClauseHeader (c : Clause) (s : State) : Result State :=
  match s.before (.clauseHeader c) with
  | some s' => .next s'
  | none =>
    if s.me.ctl.f &&& c.wait ≠ 0 then .next (s.stay .other)
    else
      match s.raiseHeld fun x => c.wait.getLsbD x with
      | some s' => .next s'
      | none =>
        .next (s.modMe fun w =>
          let w := w.advance 1 false
          { w with ctl := { w.ctl with
            clause := some { rem := c.len.toNat, slot := 0, set1 := c.set1.toNat, set2 := c.set2.toNat } } })

/-- P + lit (R179). -/
def Wave.branchTarget (w : Wave) (f : Form) : W64 := w.ctl.pc + (f.lit?.getD 0).signExtend 64

def execBr (f : Form) (s : State) : Result State :=
  runFlow (.br f) (fun s => pure (s, some (s.me.branchTarget f))) s

/-- `bc` (R180): the condition stands where class C has it. -/
def execBc (f : Form) (s : State) : Result State :=
  runFlow (.bc f) (fun s =>
    let w := s.me
    let x := valOf f.type (w.src f.type (.reg f.a.toNat))
    let y := valOf f.type (w.src f.type (.reg f.b.toNat))
    pure (s, if condHolds f.cond x y then some (w.branchTarget f) else none)) s

def execCall (f : Form) (s : State) : Result State :=
  runFlow (.call f) (fun s =>
    let pc := s.me.ctl.pc
    pure (s.modMe fun w => w.setS 63 (pc + 12), some (s.me.branchTarget f))) s

/-- `ret` (R179): a target off a parcel boundary is an encoding error, raised here. -/
def execRet (f : Form) (s : State) : Result State :=
  runFlow (.ret f) (fun s =>
    let t := s.me.getS f.a.toNat
    if t.toNat % 4 ≠ 0 then trapEff (illegalOf (.ret f)) else pure (s, some t)) s

/-- `jr` (R179): the target is read before the link is written. -/
def execJr (f : Form) (s : State) : Result State :=
  runFlow (.jr f) (fun s =>
    let t := s.me.getS f.a.toNat
    let next := s.me.ctl.pc + u64 (4 * f.parcels)
    if t.toNat % 4 ≠ 0 then trapEff (illegalOf (.jr f))
    else pure (s.modMe fun w => w.setS f.d.toNat next, some t)) s

def execLoopTo (f : Form) (s : State) : Result State :=
  runFlow (.loopTo f) (fun s =>
    let n := s.me.getS f.a.toNat - 1
    pure (s.modMe fun w => w.setS f.a.toNat n, if n ≠ 0 then some (s.me.branchTarget f) else none)) s

/-! ### Tokens (R161, R162) -/

/-- A token enters the control queue. -/
def Wave.enqueue (w : Wave) (t : Token) : Wave :=
  { w with ctl := { w.ctl with queue := w.ctl.queue ++ [t] }, issued := w.issued + 1 }

/-- A full queue holds a token back (R162). -/
def Wave.queueFull (w : Wave) : Bool := decide (64 ≤ w.ctl.queue.length)

/-- A request waits for queue room and for one of 16 answers to come (R162). -/
def Wave.requestFull (w : Wave) : Bool := w.queueFull || decide (16 ≤ w.ctl.owed.length)

/-- A request token and what its answer is owed to. -/
def Wave.request (w : Wave) (t : Token) (o : Owed) : Wave :=
  let w := w.enqueue t
  { w with ctl := { w.ctl with owed := w.ctl.owed ++ [o] } }

/-- `vrun` (R182, R183): the trip count and the arguments are read at issue. -/
def execVrun (f : Form) (s : State) : Result State :=
  runCtl (.vrun f) (fun s =>
    let w := s.me
    if w.queueFull then waitEff .other
    else
      let kv := (List.range (f.optBits 2 0)).map fun j => w.getS (f.d.toNat + j)
      pure (s.modMe fun w =>
        w.enqueue (.vrun w.ctl.pc (w.branchTarget f) ((w.getS f.a.toNat).toNat % 2 ^ 32) (f.b.toNat % 16) (f.optBit 3)
          kv w.tape.open_))) s

/-- MASK_SPILL at a mask instruction (R164). -/
def maskSpillAt (a : W64) : Report := rep maskSpill a 0

def Wave.setDepth (w : Wave) (d : Nat) : Wave := { w with ctl := { w.ctl with depth := d } }

def execMpush (f : Form) (s : State) : Result State :=
  runCtl (.mpush f) (fun s =>
    let w := s.me
    if w.ctl.depth = 255 then trapEff (maskSpillAt (w.id.spill + 4096))
    else if w.queueFull then waitEff .other
    else pure (s.modMe fun w => (w.enqueue (.mpush w.ctl.pc (f.b.toNat % 16))).setDepth (w.ctl.depth + 1))) s

def execMelse (f : Form) (s : State) : Result State :=
  runCtl (.melse f) (fun s =>
    let w := s.me
    if w.ctl.depth = 0 then trapEff (maskSpillAt 0)
    else if w.queueFull then waitEff .other
    else pure (s.modMe fun w => w.enqueue (.melse w.ctl.pc))) s

def execMpop (f : Form) (s : State) : Result State :=
  runCtl (.mpop f) (fun s =>
    let w := s.me
    if w.ctl.depth = 0 then trapEff (maskSpillAt 0)
    else if w.queueFull then waitEff .other
    else pure (s.modMe fun w => (w.enqueue (.mpop w.ctl.pc)).setDepth (w.ctl.depth - 1))) s

def execVany (f : Form) (s : State) : Result State :=
  runCtl (.vany f) (fun s =>
    if s.me.requestFull then waitEff .other
    else pure (s.modMe fun w => w.request (.vany w.ctl.pc (f.b.toNat % 16)) (.pred f.d.toNat))) s

def execVall (f : Form) (s : State) : Result State :=
  runCtl (.vall f) (fun s =>
    if s.me.requestFull then waitEff .other
    else pure (s.modMe fun w => w.request (.vall w.ctl.pc (f.b.toNat % 16)) (.pred f.d.toNat))) s

/-- `bqrd` (R186): a lane beyond the width is an encoding error, raised here. -/
def execBqrd (f : Form) (s : State) : Result State :=
  runCtl (.bqrd f) (fun s =>
    let w := s.me
    if !f.optBit 0 && decide (w.id.width ≤ f.c.toNat) then trapEff (illegalOf (.bqrd f))
    else if w.requestFull then waitEff .other
    else
      let lane := if f.optBit 0 then none else some f.c.toNat
      pure (s.modMe fun w => w.request (.bqrd w.ctl.pc f.a.toNat lane f.type) (.scalar f.d.toNat))) s

/-- `brv` (R181): the first time it issues its token; then it waits; then the answer decides. -/
def execBrv (f : Form) (s : State) : Result State :=
  let setBrv (b : Option BrvSt) (s : State) : State :=
    s.modMe fun w => { w with ctl := { w.ctl with brv := b } }
  runFlow (.brv f) (fun s =>
    match s.me.ctl.brv with
    | some (.answered t a same target) =>
      let s := setBrv none s
      if t = 0 then pure (s, none)
      else if t ≠ a || (f.optBit 0 && same ≠ a) then .error (.trapIn (rep nonUniform t a same target) s)
      else pure (s, some target)
    | some .asked => waitEff .other
    | none =>
      if s.me.requestFull then waitEff .other
      else
        let index := if f.optBit 0 then some f.c.toNat else none
        .error (.wait .other (some (setBrv (some .asked)
          (s.modMe fun w => w.request (.brv w.ctl.pc (w.branchTarget f) (f.b.toNat % 16) index) .brv))))) s

/-- `lser` (R187): it waits for the vector side; with no active lane the control slice skips to after `lsend`. -/
def execLser (f : Form) (s : State) : Result State :=
  runCtl (.lser f) (fun s =>
    let w := s.me
    if !w.vecIdle then waitEff .other
    else if w.ctl.serial.isSome then trapEff (illegalOf (.lser f))
    else
      let L := w.act
      if L = 0 then pure (s.modMe fun w => { w with ctl := { w.ctl with skip := true } })
      else
        let l := lowest L
        pure (s.modMe fun w =>
          let w := w.setS f.d.toNat (u64 l)
          let ret := w.ctl.pc + u64 (4 * f.parcels)
          let x : Serial := { lanes := L, lane := l, ret := ret, reg := f.d.toNat, depth := w.ctl.depth }
          { w with ctl := { w.ctl with serial := some x }, vec := { w.vec with serial := some l } })) s

/-- `lsend` (R187): the next lane's round, or the end; the vector side learns the lane by a token. -/
def execLsend (f : Form) (s : State) : Result State :=
  runFlow (.lsend f) (fun s =>
    let w := s.me
    match w.ctl.serial with
    | none => trapEff (illegalOf (.lsend f))
    | some x =>
      if x.depth ≠ w.ctl.depth then trapEff (illegalOf (.lsend f))
      else if w.queueFull then waitEff .other
      else
        let L := x.lanes &&& ~~~(u64 (2 ^ x.lane))
        if L = 0 then
          pure (s.modMe fun w =>
            let w := w.enqueue (.serial w.ctl.pc none)
            { w with ctl := { w.ctl with serial := none } }, none)
        else
          let l := lowest L
          pure (s.modMe fun w =>
            let w := (w.enqueue (.serial w.ctl.pc (some l))).setS x.reg (u64 l)
            { w with ctl := { w.ctl with serial := some { x with lanes := L, lane := l } } }, some x.ret)) s

/-! ### The vector side consumes tokens (R164, R183, R185–R188) -/

/-- The token at the head leaves the queue; `done` unless it starts a block. -/
def Wave.popToken (w : Wave) (finished : Bool) : Wave :=
  { w with ctl := { w.ctl with queue := w.ctl.queue.tail }, taken := if finished then w.taken + 1 else w.taken }

/-- VRUN_TOKEN (R73, R77, R183): nothing for a zero trip count; else the header is checked, the constants captured and the
mask read once. A target that is no header is reported at the `vrun`, and so is a fault on its parcel (log entry 78); a header
with an encoding error at itself. -/
def execVrunToken (s : State) : Result State :=
  let w := s.me
  match w.ctl.queue with
  | .vrun site target trip pred neg kv span :: _ =>
    if w.vec.block.isSome || w.vec.gather.isSome then .next s
    else if trip = 0 then .next (s.modMe fun w => w.popToken true)
    else
      match s.fetchParcel (s.ctxOf w) target with
      | .error e => .next (s.vecStop site e)
      | .ok h =>
        let len := (h.extractLsb' 2 12).toNat
        if h.extractLsb' 0 2 ≠ 3 then .next (s.vecStop site (.trap (rep illegalEncoding (u64 h.toNat) target)))
        else if h.extractLsb' 14 18 ≠ 0 || len = 0 then .next (s.vecStop target (.trap (parcelReport [h])))
        else
          .next (s.modMe fun w =>
            let p := w.getP pred
            let m := (if neg then ~~~p else p) &&& w.act &&& w.sermask
            let w := w.popToken false
            { w with vec := { w.vec with
              k := w.vec.k.putAll (kv.zipIdx.map fun e => (e.2, e.1))
              block := some { site, base := target, len, at_ := 0, iter := 0, trip, mask := m, span } } })
  | _ => .next s

/-- Address of a mask-stack level in the spill area (R164). -/
def Wave.spillAddr (w : Wave) (level : Nat) : W64 := w.id.spill + u64 (16 * level)

/-- The two words of a spilled level, once the wave's queued stores are performed. Whatever trap an access of them would take
is MASK_SPILL. DESIGN CHOICE (log entry 67): so is a spill area in a peer window. -/
def State.spillTargets (s : State) (need : Need) (a : W64) : Eff (Target × Target) :=
  let c := s.ctxOf s.me
  let r := do
    let t ← s.checkGlobal c need 0 a.toNat 8
    let u ← s.checkGlobal c need 0 (a + 8).toNat 8
    s.checkLocks false s.cur 8 need.write [(0, a.toNat), (0, (a + 8).toNat)]
    s.checkLinks [(0, t), (0, u)]
    pure (t, u)
  match r with
  | .error (.trap _) => trapEff (maskSpillAt a)
  | r => r

/-- A word of a level goes to the spill area. -/
def State.spillWord (s : State) (t : Target) (v : W64) : State :=
  s.homeStore s.cur { loc := false, off := 0, t, n := 8, v := v.toNat, stamp := s.epoch }

/-- MASK_TOKEN (R164): mpush, melse, mpop, and the lane of `lser` … `lsend`. Levels older than the 16 newest are
written to and read from the spill area. -/
def execMaskToken (s : State) : Result State :=
  let w := s.me
  if w.vec.block.isSome || w.vec.gather.isSome then .next s
  else
    match w.ctl.queue with
    | .mpush site p :: _ =>
      let l : MaskLevel := { entry := w.act, act := w.act &&& w.getP p }
      let push (w : Wave) : Wave :=
        { w.popToken true with vec := { w.vec with masks := (l :: w.vec.masks).take 16, depth := w.vec.depth + 1 } }
      if w.vec.masks.length < 16 then .next (s.modMe push)
      else
        let s := (s.drainStores s.cur).arriveAll (coreOf s.cur)
        let old := w.vec.masks.getLastD default
        let a := w.spillAddr (w.vec.depth - 15)
        match s.spillTargets { needStore with peer := false } a with
        | .error e => .next (s.vecStop site e)
        | .ok (t, u) => .next (((s.spillWord t old.entry).spillWord u old.act).modMe push)
    | .melse _ :: _ =>
      .next (s.modMe fun w =>
        let w := w.popToken true
        { w with vec := { w.vec with masks := match w.vec.masks with
            | l :: r => { l with act := l.entry &&& ~~~l.act } :: r
            | [] => [] } })
    | .mpop site :: _ =>
      let pop (more : List MaskLevel) (w : Wave) : Wave :=
        { w.popToken true with vec := { w.vec with masks := w.vec.masks.tail ++ more, depth := w.vec.depth - 1 } }
      if w.vec.depth ≤ 16 then .next (s.modMe (pop []))
      else
        let s := (s.drainStores s.cur).arriveAll (coreOf s.cur)
        let a := w.spillAddr (w.vec.depth - 16)
        match (do
          let (t, u) ← s.spillTargets { needLoad with peer := false } a
          let x ← s.readAt t 8
          let y ← s.readAt u 8
          pure (x, y) : Eff (Nat × Nat)) with
        | .error e => .next (s.vecStop site e)
        | .ok (x, y) => .next (s.modMe (pop [{ entry := u64 x, act := u64 y }]))
    | .serial _ lane :: _ =>
      .next (s.modMe fun w => let w := w.popToken true; { w with vec := { w.vec with serial := lane } })
    | _ => .next s

/-- An answer enters the back queue and the token leaves. -/
def Wave.answer (w : Wave) (a : Answer) : Wave :=
  let w := w.popToken true
  { w with vec := { w.vec with back := w.vec.back ++ [a] } }

/-- The value a `bqrd` answers for a lane (R186). -/
def Wave.bqrdValue (w : Wave) (reg lane : Nat) (t : ElemType) : W64 :=
  if t = .b64 then w.getV64 reg lane
  else if t = .i32 then (w.getV reg lane).signExtend 64 else (w.getV reg lane).setWidth 64

/-- REQUEST_TOKEN (R181, R185, R186, R188): the active lanes answer; faults name the requesting instruction. -/
def execRequestToken (s : State) : Result State :=
  let w := s.me
  let A := w.act &&& w.sermask
  if w.vec.block.isSome || w.vec.gather.isSome then .next s
  else
    match w.ctl.queue with
    | .vany _ p :: _ => .next (s.modMe fun w => w.answer (.pred (A &&& w.getP p ≠ 0)))
    | .vall _ p :: _ => .next (s.modMe fun w => w.answer (.pred (A &&& w.getP p = A)))
    | .bqrd site reg lane t :: _ =>
      let regs := if t = .b64 then [reg, reg + 1] else [reg]
      if s.ackPending regs then .next s
      else
        let from_ := match lane with
          | some l => [l]
          | none => if A = 0 then [] else [lowest A]
        match s.checkRegs regs >>= fun _ => s.checkEccOf regs from_ with
        | .error e => .next (s.vecStop site e)
        | .ok _ =>
          .next (s.modMe fun w => w.answer (.scalar
            (match lane with
             | some l => w.bqrdValue reg l t
             | none => if A = 0 then 0 else w.bqrdValue reg (lowest A) t)))
    | .brv site target p index :: _ =>
      if s.ackPending index.toList then .next s
      else
        match s.checkRegs index.toList >>= fun _ => s.checkEcc index.toList A with
        | .error e => .next (s.vecStop site e)
        | .ok _ =>
          let tg (l : Nat) : W64 :=
            match index with
            | some r => target + (w.getV r l).signExtend 64 <<< 2
            | none => target
          let t0 := tg (lowest A)
          .next (s.modMe fun w => w.answer (.brv (A &&& w.getP p) A (maskWhere A fun l => tg l == t0) t0))
    | _ => .next s

/-- BACK_QUEUE_ANSWER (R185, R186): the oldest answer reaches what awaits it. -/
def execBackQueueAnswer (s : State) : Result State :=
  let w := s.me
  match w.vec.back, w.ctl.owed with
  | a :: back, o :: owed =>
    .next (s.modMe fun w =>
      let w := { w with vec := { w.vec with back }, ctl := { w.ctl with owed } }
      match a, o with
      | .pred b, .pred c => w.setC c b
      | .scalar v, .scalar d => w.setS d v
      | .brv t a same target, .brv => { w with ctl := { w.ctl with brv := some (.answered t a same target) } }
      | _, _ => w)
  | _, _ => .next s

end Sys2Proof.Machine
end

