-- ==== Sys2Proof/Machine/Convert.lean ====
section
/-!
DEFINITION. Conversions of the vector stream (R216–R221), with the stochastic-rounding states they advance (R36).
-/
namespace Sys2Proof.Machine

/-- The state of a lane after n advances (R36). -/
def srAfter : Nat → W32 → W32
  | 0, x => x
  | n + 1, x => srAfter n (srNext x)

/-- The mode with the state that rounds the n-th element of a lane, counting from 0. -/
def Wave.srMode (w : Wave) (m : Rounding) (l n : Nat) : RMode :=
  if m = .sr then { mode := .sr, sr := srAfter (n + 1) (w.vec.sr.get l) } else { mode := m }

/-- Active lanes advance once for each element they convert under `.sr`. -/
def Wave.srAdvance (w : Wave) (m : Rounding) (A : W64) (n : Nat) : Wave :=
  if m = .sr then
    { w with vec := { w.vec with sr := (lanesOf A).foldl (fun t l => t.put l (srAfter n (t.get l))) w.vec.sr } }
  else w

/-- `cvt` (R216). -/
def execCvt (f : Form) (s : State) : Result State :=
  runVec (.cvt f) f (fun A s => do
    let dt := f.type
    let st := f.stype
    s.checkRegs (dstRegs dt f.d.toNat ++ srcRegs st (f.srcA true))
    let w := s.me
    let rs := lanesMap A fun l => convert st dt (w.srMode f.rounding l 0) f.sat (w.vsrc st l (f.srcA true))
    s.checkFinite dt (fun l => nfReport (u64 l) st.code dt.code 0 0) rs
    pure (s.modMe fun w => (w.vputs dt f.d.toNat rs).srAdvance f.rounding A 1)) s

/-- The source type of `pack` (R217). -/
def packSrc (t : ElemType) : ElemType := if t.isFloat then .f32 else .i32

/-- `pack` (R217): the element from a is rounded before the element from b. -/
def execPack (f : Form) (s : State) : Result State :=
  runVec (.pack f) f (fun A s => do
    let dt := f.type
    let st := packSrc dt
    s.checkRegs (f.d.toNat :: (srcRegs .b32 (f.srcA true) ++ srcRegs .b32 (f.srcB true)))
    let w := s.me
    let ea := lanesMap A fun l => convert st dt (w.srMode f.rounding l 0) f.sat (w.vsrc st l (f.srcA true))
    let eb := lanesMap A fun l => convert st dt (w.srMode f.rounding l 1) f.sat (w.vsrc st l (f.srcB true))
    s.checkFinite dt (fun l => nfReport (u64 l) 0 dt.code 0 0) ((ea.zip eb).flatMap fun e => [e.1, e.2])
    let n := dt.width
    let base := if n = 8 then 16 * f.variant else 0
    let put (w : Wave) (e : (Nat × Nat) × (Nat × Nat)) : Wave :=
      let old := (w.getV f.d.toNat e.1.1).toNat
      let keep := if n = 8 then old - nbits old (base + 15) base * 2 ^ base else 0
      w.setV f.d.toNat e.1.1 (u32 (keep + (e.1.2 + e.2.2 * 2 ^ n) * 2 ^ base))
    pure (s.modMe fun w => ((ea.zip eb).foldl put w).srAdvance f.rounding A 2)) s

/-- `unpack` (R218): an exact widening to f32, i32 or n32. DESIGN CHOICE (log entry 78): an immediate, %lane or a literal in a
is a raw word. -/
def execUnpack (f : Form) (s : State) : Result State :=
  runVec (.unpack f) f (fun A s => do
    let st := f.type
    s.checkRegs (f.d.toNat :: srcRegs .b32 (f.srcA true))
    let w := s.me
    let isF := st.isFloat || st == .q4
    let rs := lanesMap A fun l =>
      let x := w.vsrc .b32 l (f.srcA true) / 2 ^ (st.width * f.c.toNat) % 2 ^ st.width
      if st = .q4 then fmtF32.encode rne false (q4Value f.variant x)
      else if isF then fmtF32.encode rne false ((fmtOf st).decode x)
      else wrapNat 32 (valOf st x)
    if isF then
      s.checkFinite .f32 (fun l => nfReport (u64 l) st.code 0 (if st = .q4 then f.variant else 0) 0) rs
    pure (s.vputs .b32 f.d.toNat rs)) s

/-- The scale 2^(x − 32) of a scale byte (R25). -/
def scaleExp (sb : Nat) : Int := (sb % 64 : Nat) - 32

/-- The smoothing factors of the active lanes, read as `ld.l.f32` (R219). -/
def State.smoothing (s : State) (wi : Nat) (els : List (Nat × Nat)) : Eff Lanes := do
  s.checkLocals wi { needLoad with kind := .smooth } 4 els
  s.checkLocks true wi 4 false els
  els.mapM fun e =>
    match s.readLocalEff wi e.2 4 with
    | .ok v => pure (e.1, s.forward wi true e.2 4 v)
    | .error g => .error (.uncorr g)

/-- Whether a smoothing factor is ±0, ±infinity or NaN (R22). -/
def badScale (x : Nat) : Bool :=
  let v := fmtF32.decode x
  v.isZero || !v.isFin

/-- `qnt` (R219, R220). -/
def execQnt (f : Form) (s : State) : Result State :=
  runVec (.qnt f) f (fun A s => do
    let dt := f.type
    let smooth := decide (f.variant % 2 = 1)
    s.checkRegs (f.d.toNat :: (srcRegs .b32 (f.srcA true) ++ (if smooth then [f.b.toNat] else []) ++
      srcRegs .b32 (f.srcC true)))
    let w := s.me
    let sb (l : Nat) : Nat := w.vsrc .b32 l (f.srcC true) % 256
    let sm ← if smooth then s.smoothing s.cur ((lanesOf A).map fun l => (l, (w.getV f.b.toNat l).toNat))
      else pure (lanesMap A fun _ => 0x3F800000)
    match (if dt = .q4 then none else (lanesOf A).find? fun l => decide (64 ≤ sb l)) with
    | some l => trapEff (rep illegalLayout 3 (u64 (sb l)))
    | none =>
      match sm.find? fun e => badScale e.2 with
      | some e => trapEff (rep divide (u64 e.1) 0)
      | none =>
        let rs : Lanes := sm.map fun e =>
          let l := e.1
          let q := (fmtF32.decode (w.vsrc .f32 l (f.srcA true))).div
            ((fmtF32.decode e.2).mul (.fin false 1 (scaleExp (sb l))))
          let r := w.srMode f.rounding l 0
          (l, if dt = .q4 then q4Round r (sb l / 64) q else (fmtOf dt).encode r f.sat q)
        if dt ≠ .q4 then s.checkFinite dt (fun l => nfReport (u64 l) 0 dt.code 0 0) rs
        pure (s.modMe fun w => (w.vputs .b32 f.d.toNat rs).srAdvance f.rounding A 1)) s

/-- `dqnt` (R221); an operand in a is read as in `unpack` (log entry 78). -/
def execDqnt (f : Form) (s : State) : Result State :=
  runVec (.dqnt f) f (fun A s => do
    let st := f.type
    s.checkRegs (f.d.toNat :: (srcRegs .b32 (f.srcA true) ++ srcRegs .b32 (f.srcC true)))
    let w := s.me
    let sb (l : Nat) : Nat := w.vsrc .b32 l (f.srcC true) % 256
    match (if st = .q4 then none else (lanesOf A).find? fun l => decide (64 ≤ sb l)) with
    | some l => trapEff (rep illegalLayout 3 (u64 (sb l)))
    | none =>
      let rs := lanesMap A fun l =>
        let x := w.vsrc .b32 l (f.srcA true)
        let v := if st = .q4 then q4Value (sb l / 64) x else (fmtOf st).decode (x % 256)
        fmtF32.encode rne false (v.mul (.fin false 1 (scaleExp (sb l))))
      s.checkFinite .f32 (fun l => nfReport (u64 l) st.code 0 (if st = .q4 then sb l / 64 else 0) 0) rs
      pure (s.vputs .b32 f.d.toNat rs)) s

end Sys2Proof.Machine
end

