-- ==== Sys2Proof/Machine/Device.lean ====
section
/-!
DEFINITION. The device as a whole (R419–R430): the register space, device reset and bring-up, the Falja port, power and
thermal control, memory errors, and the host's accesses over CXL.mem and CXL.cache.
-/
namespace Sys2Proof.Machine

/-! ### The register space (R419) -/

/-- The code of a context state (Table 4.1). -/
def CtxSt.code : CtxSt → Nat
  | .empty => 0 | .ready => 1 | .running => 2 | .suspending => 3 | .suspended => 4 | .restoring => 5 | .halted => 6
  | .destroying => 7

/-- The code of a queue state (Table 5.1). -/
def QueueSt.code : QueueSt → Nat
  | .disabled => 0 | .idle => 1 | .active => 2 | .waiting => 3 | .held => 4 | .error => 5 | .stopping => 6

/-- The code of a port state (Table 17.1). -/
def PortSt.code : PortSt → Nat
  | .disabled => 0 | .training => 1 | .up => 2 | .degraded => 3 | .lost => 4

/-- A Bool as a bit. -/
def bit (b : Bool) (i : Nat) : Nat := if b then 2 ^ i else 0

/-- `dv.ready` (R421). -/
def Device.ready (d : Device) : W64 :=
  u64 (d.die.toNat * 2 ^ 20 + d.hbm.toNat * 16 + bit d.fw 3 + bit d.fe 2 + bit d.pg 1 + bit d.sb 0)

/-- `dv.cecnt` (R430). -/
def Device.cecntWord (d : Device) : W64 := u64 d.cecnt

/-- `dv.errlog` (R430). -/
def Device.errlog (d : Device) : W64 :=
  u64 (bit d.errValid 63 + bit d.thermal 62 + d.errSource % 8 * 2 ^ 59 + d.errAddr % 2 ^ 52)

/-- `ctx.status` (R118). -/
def Ctx.status (c : Ctx) : W64 :=
  u64 (c.evcode % 256 * 2 ^ 24 + bit c.overrun 18 + bit c.evpend 17 + bit c.cmderr 16 + bit c.busy 15 +
    bit (!c.pairs.isEmpty) 14 + c.level % 4 * 2 ^ 12 + bit c.light 11 + c.st.code)

/-- `q.ctl` (R120). -/
def Queue.ctlWord (q : Queue) : W64 := u64 (q.prio % 8 * 2 + bit q.enable 0)

/-- `q.status` (R120). -/
def Queue.status (q : Queue) : W64 :=
  u64 (q.headseq % 2 ^ 32 * 2 ^ 32 + q.errcode % 256 * 2 ^ 16 + bit q.cmderr 8 + bit q.errpend 7 + q.st.code)

/-- `pg.status` (R330). -/
def PageBlock.status (b : PageBlock) : W64 := u64 (b.errcode % 256 * 256 + bit b.err 1 + bit (b.doing != .none) 0)

/-- `lk.port` (R394). -/
def Port.word (x : Port) : W64 :=
  u64 ((if x.st.live then x.peer % 1024 else 0) * 2 ^ 16 + bit x.enable 7 + x.width % 4 * 16 + x.st.code)

/-- `lk.pkgid` (R394). -/
def Fabric.pkgid (f : Fabric) : W64 := u64 (bit f.set 16 + bit f.mode 15 + f.pkg % 1024)

/-- `lk.tickcfg` (R394). -/
def Fabric.tickcfg (f : Fabric) : W64 := u64 (bit f.sync 8 + f.ticklen % 32)

/-- `lk.jobst` (R400). -/
def Ctx.jobstWord (c : Ctx) : W64 := u64 (c.joberr % 256 * 256 + c.jobst % 4)

/-- The size of a region of BAR2; 0 where there is none. -/
def regionSize : Nat → Nat
  | 0 => 2 ^ 16
  | 1 => 2 ^ 20
  | 2 => 2 ^ 18
  | 3 => 2 ^ 16
  | 4 => 2 ^ 16
  | 5 => 2 ^ 24
  | _ => 0

/-- The offset of a region in BAR2, which is 64 MiB. -/
def regionBase : Nat → Nat
  | 0 => 0
  | 1 => 0x10_0000
  | 2 => 0x20_0000
  | 3 => 0x30_0000
  | 4 => 0x40_0000
  | _ => 0x100_0000

/-- The region and the offset in it that an access of n bytes over CXL.io names: a whole register, in reach; the update window is
not while the firmware does not run (R420). -/
def State.ioPlace (s : State) (off n : Nat) : Option (Nat × Nat) :=
  if n ≠ 8 || off % 8 ≠ 0 then none
  else
    ((List.range 6).find? fun r =>
      decide (regionBase r ≤ off) && decide (off < regionBase r + regionSize r) && (r ≠ 5 || s.dv.fw)).map fun r =>
      (r, off - regionBase r)

/-- A region and an offset that name a register. -/
def regionOk (region off : Nat) : Bool := decide (off < regionSize region) && off % 8 == 0

/-- A read of a register; what no register holds reads zero. -/
def State.regRead (s : State) (region off : Nat) : W64 :=
  match region with
  | 0 => if off = 0 then s.dv.ready else if off = 8 then s.dv.cecntWord else if off = 0x10 then s.dv.errlog else 0
  | 1 =>
    let c := s.ctxs.get (off / 4096)
    if off % 4096 = 0 then c.cmd else if off % 4096 = 8 then c.status else 0
  | 2 =>
    let q := s.queues.get (off / 64)
    match off % 64 with
    | 0x00 => q.head
    | 0x08 => q.tail
    | 0x10 => q.ctlWord
    | 0x18 => q.status
    | _ => 0
  | 3 =>
    let b := (s.ctxs.get (off / 32)).page
    if 0x2000 ≤ off then 0
    else
      match off % 32 with
      | 0x00 => b.cmd
      | 0x08 => b.arg0
      | 0x10 => b.arg1
      | _ => b.status
  | 4 =>
    if off = 0 then s.fab.pkgid
    else if off = 8 then s.fab.tickcfg
    else if 0x100 ≤ off ∧ off < 0x180 then (s.port ((off - 0x100) / 8)).word
    else if 0x1000 ≤ off ∧ off < 0x1800 then (s.ctxs.get ((off - 0x1000) / 8)).lkjob
    else if 0x1800 ≤ off ∧ off < 0x2000 then (s.ctxs.get ((off - 0x1800) / 8)).jobstWord
    else 0
  | 5 => s.dv.window.get (off / 8)
  | _ => 0

/-- A write of `ctx.status`: its W1C bits (R118). -/
def State.clearCtxStatus (s : State) (ci : Nat) (v : W64) : State :=
  s.modCtx ci fun c =>
    { c with
      overrun := c.overrun && !v.getLsbD 18
      evpend := c.evpend && !v.getLsbD 17
      cmderr := c.cmderr && !v.getLsbD 16 }

/-- A write of `q.head` or `q.tailaddr`: accepted in Disabled alone (R120). -/
def State.writeQaddr (s : State) (qi : Nat) (head : Bool) (v : W64) : State :=
  s.modQueue qi fun q =>
    if q.st ≠ .disabled then { q with cmderr := true }
    else if head then { q with head := v &&& ~~~(0xFF : W64) } else { q with tail := v &&& ~~~(7 : W64) }

/-- A write of `q.status`: its W1C bits (R120, R122). -/
def State.clearQstatus (s : State) (qi : Nat) (v : W64) : State :=
  let s := if v.getLsbD 8 then s.modQueue qi fun q => { q with cmderr := false } else s
  if v.getLsbD 7 then s.clearErrpend qi else s

/-- A write in a block of the page region (R330). -/
def State.writePageBlock (s : State) (ci reg : Nat) (v : W64) : State :=
  match reg with
  | 0 => s.pageCommand ci (v.toNat % 16)
  | 8 => s.modCtx ci fun c => { c with page := { c.page with arg0 := v } }
  | 0x10 => s.modCtx ci fun c => { c with page := { c.page with arg1 := v } }
  | _ => s.modCtx ci fun c => { c with page := { c.page with err := c.page.err && !v.getLsbD 1 } }

/-- A write in the link region (R394, R400). -/
def State.writeLink (s : State) (off : Nat) (v : W64) : State :=
  if off = 0 then s.writePkgid v
  else if off = 8 then s.writeTickcfg v
  else if 0x100 ≤ off ∧ off < 0x180 then s.enablePort ((off - 0x100) / 8) (v.getLsbD 7)
  else if 0x1000 ≤ off ∧ off < 0x1800 then s.bindCtx ((off - 0x1000) / 8) v
  else s

/-- A write of a register, each by its own rules (R8, R419); the context and page regions take none while pg = 0
(R422). -/
def State.regWrite (s : State) (region off : Nat) (v : W64) : State :=
  match region with
  | 0 =>
    if off = 0x10 then
      { s with dv := { s.dv with errValid := s.dv.errValid && !v.getLsbD 63, thermal := s.dv.thermal && !v.getLsbD 62 } }
    else s
  | 1 =>
    if !s.dv.pg then s
    else if off % 4096 = 0 then s.ctxCommand (off / 4096) (v.toNat % 16) (v.toNat / 4096) (v.getLsbD 8)
    else if off % 4096 = 8 then s.clearCtxStatus (off / 4096) v
    else s
  | 2 =>
    match off % 64 with
    | 0x00 => s.writeQaddr (off / 64) true v
    | 0x08 => s.writeQaddr (off / 64) false v
    | 0x10 => s.writeQctl (off / 64) (v.toNat / 2 % 8) (v.getLsbD 0)
    | 0x18 => s.clearQstatus (off / 64) v
    | _ => s
  | 3 => if !s.dv.pg || decide (0x2000 ≤ off) then s else s.writePageBlock (off / 32) (off % 32) v
  | 4 => s.writeLink off v
  | 5 => { s with dv := { s.dv with window := s.dv.window.put (off / 8) v } }
  | _ => s

/-- REGISTER_WRITE (R8, R419): a write of n bytes over CXL.io at an offset of BAR2; one that names no register, or not a whole
one, is ignored. -/
def execRegisterWrite (off n : Nat) (value : BitVec 64) (s : State) : Result State :=
  match s.ioPlace off n with
  | some (region, off) => .next (s.regWrite region off value)
  | none => .next s

/-! ### Device reset and bring-up (R420–R424) -/

/-- The firmware image staged in the update window: the bytes after its length word; none where none is staged (R420). -/
def Device.staged (d : Device) : Option (List Byte) :=
  let n := (d.window.get 0).toNat
  if n = 0 then none
  else some ((List.range (min n (2 ^ 24 - 8))).map fun i => ((d.window.get (i / 8 + 1)) >>> (8 * (i % 8))).setWidth 8)

/-- The boot ROM's checks of an image: key, signature, version (R424). -/
def Device.verifies (d : Device) (image : List Byte) : Bool :=
  Config.firmwareKeyOk image && Config.firmwareSignatureOk image && decide (d.rollback ≤ Config.firmwareVersion image)

/-- The device region after reset: the update window, the flash and the fuses are kept; a staged image that verifies
replaces the firmware, one that does not is discarded (R420). -/
def Device.afterReset (d : Device) : Device :=
  let d' : Device :=
    { ({} : Device) with
      form := d.form
      window := d.window
      flash := d.flash
      rollback := d.rollback
      leaf := d.leaf
      cap := d.cap
      inletCap := d.inletCap
      falja := d.falja }
  match d.staged with
  | none => d'
  | some image =>
    { d' with
      window := d.window.put 0 0
      flash := if d.verifies image && decide ((d.window.get 0).toNat ≤ 2 ^ 24 - 8) then image else d.flash }

/-- DEVICE_RESET (R420, R421): everything at its reset value but what outlives a reset; host memory is the host's. -/
def execDeviceReset (s : State) : Result State :=
  .next { State.reset with
    dv := s.dv.afterReset, hostMem := s.hostMem, sched := s.sched, free := s.free, uid := s.uid }

/-- READY_BIT_SET (R421, R424): fw with a firmware that verifies, sb at any time, the others once fw is set. -/
def tryReadyBitSet (bit : Nat) (s : State) : Option State :=
  let d := s.dv
  let set (d : Device) : Option State := some { s with dv := d }
  if d.ready.getLsbD bit then none
  else if bit = 0 then set { d with sb := true }
  else if bit = 3 then (if d.verifies d.flash then set { d with fw := true } else none)
  else if !d.fw then none
  else if bit = 1 then set { d with pg := true }
  else if bit = 2 then set { d with fe := true }
  else if bit < 20 then set { d with hbm := d.hbm ||| BitVec.ofNat 16 (2 ^ (bit - 4)) }
  else if bit < 32 then set { d with die := d.die ||| BitVec.ofNat 12 (2 ^ (bit - 20)) }
  else none
def execReadyBitSet (bit : Nat) (s : State) : Result State := orSame (tryReadyBitSet bit) s

/-- STANDBY_POWER_LOSS (R420, R423): the update window is lost and the Falja port stops. -/
def execStandbyPowerLoss (s : State) : Result State :=
  .next { s with dv := { s.dv with window := [], standby := false } }

/-! ### The Falja port (R423, R425) -/

/-- A request on the Falja port is answered while the port answers MCTP and its supply stands; else nothing happens. -/
def State.falja (s : State) (f : State → Falja × State) : Result State :=
  if s.dv.sb && s.dv.standby then
    let (r, s) := f s
    .next { s with dv := { s.dv with falja := s.dv.falja ++ [r] } }
  else .next s

/-- Statuses of the Falja port (R423). -/
def faljaOk : Nat := 0
def faljaBadPlace : Nat := 1
def faljaNotReady : Nat := 2
def faljaExhausted : Nat := 3
def faljaRange : Nat := 4

/-- READ64. -/
def execRead64 (region off : Nat) (s : State) : Result State :=
  s.falja fun s => (if regionOk region off then .value faljaOk (s.regRead region off) else .value faljaBadPlace 0, s)

/-- Whether a write of `ctx.cmd` is a CREATE whose descriptor names a pair of a die, or a group of a stack, that is not ready. -/
def State.refusesCreate (s : State) (ci : Nat) (v : W64) : Bool :=
  let c := s.ctxs.get ci
  v.toNat % 16 = 1 && c.st == .empty && !c.busy && (s.sysRead (v.toNat / 4096 * 4096) 256).any fun b =>
    let x := (s.describe b).1
    x.pairs.any (fun p => !s.dv.die.getLsbD (p / 64)) || x.pcgroups.any fun p => !s.dv.hbm.getLsbD (p / 16)

/-- Whether R422 refuses a write. -/
def State.refusesWrite (s : State) (region off : Nat) (v : W64) : Bool :=
  ((region = 1 || region = 3) && !s.dv.pg) || (region = 2 && off % 64 = 0x10 && v.getLsbD 0 && !s.dv.fe) ||
  (region = 1 && off % 4096 = 0 && s.refusesCreate (off / 4096) v)

/-- WRITE64. -/
def execWrite64 (region off : Nat) (value : BitVec 64) (s : State) : Result State :=
  s.falja fun s =>
    if !regionOk region off then (.status faljaBadPlace, s)
    else (.status (if s.refusesWrite region off value then faljaNotReady else faljaOk), s.regWrite region off value)

/-- LOG. -/
def execLogReq (s : State) : Result State :=
  s.falja fun s => (.log s.dv.errlog s.dv.cecntWord ((List.range 256).map fun i => (i, (s.ctxs.get i).status)), s)

/-- Signatures the identity key permits (R425). -/
def attestLimit : Nat := 2 ^ 20

/-- The measurements (R425): SHA-256 of the ROM, the firmware image and the fuse state. -/
def Device.measured (d : Device) : BitVec 768 :=
  (sha256 Config.rom).append ((sha256 d.flash).append (sha256 (Config.fuses d.rollback d.leaf)))

/-- ATTEST (R425): the leaf counter is advanced before the signature leaves. -/
def execAttest (nonce : BitVec 256) (s : State) : Result State :=
  s.falja fun s =>
    let n := s.dv.leaf
    if attestLimit ≤ n then (.status faljaExhausted, s)
    else
      let m := s.dv.measured
      (.attest faljaOk nonce m (Config.attestSignature n m nonce) Config.identityKey,
        { s with dv := { s.dv with leaf := n + 1 } })

/-- POWER (R423). -/
def execPower (cap : Nat) (s : State) : Result State :=
  s.falja fun s =>
    if cap < 800 ∨ 3200 < cap then (.status faljaRange, s) else (.status faljaOk, { s with dv := { s.dv with cap := cap } })

/-- MCTP_CONTROL (R423): the reply is MCTP's (log entry 8). -/
def execMctpControl (msg : List (BitVec 8)) (s : State) : Result State :=
  s.falja fun s => (.mctp (Config.mctpReply msg), s)

/-! ### Power and thermal control (R426–R428) -/

/-- JUNCTION_LIMIT (R427): the stop is logged and issue stops; state stays in place. -/
def execJunctionLimit (s : State) : Result State := .next { s with dv := { s.dv with thermal := true, stopped := true } }

/-- THERMAL_RESUME (R427). -/
def execThermalResume (s : State) : Result State := .next { s with dv := { s.dv with stopped := false } }

/-- ISSUE_GATING (R427, R428). -/
def execIssueGating (held : Bool) (s : State) : Result State := .next { s with dv := { s.dv with gated := held } }

/-- COOLANT_INLET (R426): the limit falls by 80 W per °C above 45 °C; at 55 °C the module shuts down. -/
def execCoolantInlet (celsius : Nat) (s : State) : Result State :=
  if 55 ≤ celsius then .next { s with dv := { s.dv with shut := true } }
  else .next { s with dv := { s.dv with inletCap := 3200 - 80 * (celsius - 45) } }

/-! ### Memory errors (R430) -/

/-- The source field of `dv.errlog`. -/
def sourceCode : MemArray → Nat
  | .hbm => 0 | .l2 => 1 | .scratchpad => 2 | .accumulator => 3 | .registerFile => 4 | .fabric => 5

/-- SOFT_ERROR (R430): a correctable one is corrected and counted; an uncorrectable granule stands until it is written
whole. -/
def execSoftError (src : MemArray) (granule : Nat) (correctable : Bool) (s : State) : Result State :=
  if correctable then .next { s with dv := { s.dv with cecnt := min (s.dv.cecnt + 1) (2 ^ 32 - 1) } }
  else if s.dv.bad.contains (src, granule) then .next s
  else .next { s with dv := { s.dv with bad := s.dv.bad ++ [(src, granule)] } }

/-- SCRUB (R430): the first uncorrectable granule found is recorded. -/
def tryScrub (src : MemArray) (granule : Nat) (s : State) : Option State :=
  if !s.dv.bad.contains (src, granule) || s.dv.errValid then none
  else
    some { s with dv := { s.dv with errValid := true, errSource := sourceCode src, errAddr := 32 * granule % 2 ^ 52 } }
def execScrub (src : MemArray) (granule : Nat) (s : State) : Result State := orSame (tryScrub src granule) s

/-! ### The host over CXL (R232, R250) -/

/-- Whether device memory holds the n bytes from a device address, on a stack that is trained and scrubbed (R327, R421). -/
def State.inDevice (s : State) (pa n : Nat) : Bool :=
  decide (pa < 256 * 2 ^ 32) && decide (pa % 2 ^ 32 + n ≤ s.dv.form.groupBytes) && s.dv.hbm.getLsbD (pa / 2 ^ 36)

/-- The 64-byte lines of n bytes. -/
def linesOf (pa n : Nat) : List Nat := (List.range ((pa + n + 63) / 64 - pa / 64)).map fun i => pa / 64 + i

/-- A host load: the bytes, and the lines the host then holds; an uncorrectable granule gives free bytes. -/
def State.hostLoad (s : State) (pa n : Nat) : State :=
  let bytes := (List.range n).map fun i =>
    if (s.badDev (pa + i) 1).isSome then (Config.freeValue (s.free + i)).setWidth 8 else s.mem.get (pa + i)
  let s := s.send hostDest (.hostData bytes)
  { s with
    free := s.free + n
    dv := { s.dv with hostLines := (s.dv.hostLines ++ linesOf pa n).eraseDups } }

/-- A host store: what the host itself holds needs no back-invalidate. -/
def State.hostStore (s : State) (cells : List (Nat × Byte)) : State :=
  let held := s.dv.hostLines
  let s := { s with dv := { s.dv with hostLines := [] } }.writeDev cells
  { s with dv := { s.dv with hostLines := held } }

/-- CXL_MEM_ACCESS (R250): performed at the line's home slice, while the firmware runs (R424), the host link is Up and
device memory holds the bytes. -/
def tryCxlMemAccess (op : HostOp) (s : State) : Option State :=
  if !s.dv.fw || s.fab.host ≠ .up then none
  else
    match op with
    | .load pa n => if s.inDevice pa n then some (s.hostLoad pa n) else none
    | .store cells => if cells.all fun c => s.inDevice c.1 1 then some (s.hostStore cells) else none
def execCxlMemAccess (op : HostOp) (s : State) : Result State := orSame (tryCxlMemAccess op) s

/-- CXL_CACHE_SNOOP (R232): the device gives up the copies its slices hold of a host line, which never differ from the one
memory of the model (log entry 6); the answer is all there is. -/
def tryCxlCacheSnoop (line : Nat) (s : State) : Option State :=
  if s.fab.host ≠ .up then none else some (s.send hostDest (.hostSnoop line))
def execCxlCacheSnoop (line : Nat) (s : State) : Result State := orSame (tryCxlCacheSnoop line) s

/-- A read of n bytes over CXL.io at an offset of BAR2 (R398, R419): the host has the register; where none is named whole, zeros. -/
def State.ioRead (s : State) (off n : Nat) : State :=
  let v := match s.ioPlace off n with
    | some (region, off) => s.regRead region off
    | none => 0
  if s.fab.host ≠ .up then s else s.send hostDest (.hostData (bytesLE n v.toNat))

end Sys2Proof.Machine
end

