-- ==== Sys2Proof/Machine/Texture.lean ====
section
/-!
DEFINITION. Texture sampling and its adjoint (R378–R381, R387).
-/
namespace Sys2Proof.Machine

/-- A texture descriptor (R378). -/
structure TexDesc where
  base   : Nat
  adj    : Nat
  w      : Nat
  h      : Nat
  levels : Nat
  t      : ElemType
  chans  : Nat
  filter : Nat
  aniso  : Nat
  wrapU  : Bool
  wrapV  : Bool
  bias   : Int
  ok     : Bool
  deriving DecidableEq, Repr, Inhabited

def texType : Nat → ElemType
  | 1 => .f16
  | 2 => .bf16
  | _ => .f32

/-- The descriptor of 64 bytes, and whether it breaches R378. -/
def texDesc (words : List Nat) : TexDesc :=
  let wd (k : Nat) : Nat := (words[k]?).getD 0
  let base := wd 0
  let adj := wd 1
  let x := wd 2
  let w := nbits x 15 0
  let h := nbits x 31 16
  let levels := nbits x 39 32
  let fmt := nbits x 47 40
  let fil := nbits x 55 48
  let adr := nbits x 63 56
  let m := nbits fil 4 2
  { base, adj, w, h, levels, t := texType (nbits fmt 2 0), chans := nbits fmt 5 4 + 1, filter := nbits fil 1 0
    aniso := 2 ^ m, wrapU := nbit adr 0, wrapV := nbit adr 1, bias := signedOf 16 (wd 3)
    ok := base % 256 == 0 && adj % 256 == 0 && decide (1 ≤ w) && decide (w ≤ 16384) && decide (1 ≤ h) &&
      decide (h ≤ 16384) && decide (1 ≤ levels) && decide (levels ≤ 1 + Nat.log2 (max w h)) &&
      decide (nbits fmt 3 0 ≤ 2) && nbits fmt 7 6 == 0 && decide (nbits fil 1 0 ≤ 2) && decide (m ≤ 4) &&
      nbits fil 7 5 == 0 && nbits adr 7 2 == 0 && wd 3 / 2 ^ 16 == 0 && (words.drop 4).all fun v => v == 0 }

/-- Size of level l, and where its texels start, for elements of `size` bytes. -/
def TexDesc.wl (t : TexDesc) (l : Nat) : Nat := max 1 (t.w >>> l)
def TexDesc.hl (t : TexDesc) (l : Nat) : Nat := max 1 (t.h >>> l)
def TexDesc.start (t : TexDesc) (size l : Nat) : Nat :=
  (List.range l).foldl (fun n j => n + ceilDiv (t.wl j * t.hl j * t.chans * size) 256 * 256) 0

/-- Address of channel c of texel (i, j) of level l. -/
def TexDesc.addr (t : TexDesc) (base size l i j c : Nat) : Nat :=
  base + t.start size l + ((j * t.wl l + i) * t.chans + c) * size

/-- The least power of two N with N² · pmin ≥ pmax, at most `cap`. -/
def anisoN (pmin pmax : Rational) (cap : Nat) : Nat :=
  let ok (n : Nat) : Bool := pmax.le ((Rational.ofInt (n * n : Nat)).mul pmin)
  (([1, 2, 4, 8, 16].find? fun n => decide (cap ≤ n) || ok n)).getD cap

/-- ⌊log₂⌋ of a positive rational. -/
def Rational.log2Floor (x : Rational) : Int :=
  let a := x.n.natAbs
  let k : Int := (Nat.log2 a : Int) - Nat.log2 x.d
  let p : Rational := if 0 ≤ k then Rational.ofInt ((2 ^ k.toNat : Nat) : Int) else Rational.mk' 1 (2 ^ (-k).toNat)
  if p.le x then k else k - 1

/-- The integer nearest 128 · log₂ x, for x positive (R379): from ⌊log₂ x^256⌋. -/
def nearest128Log2 (x : Rational) : Int :=
  let y : Rational := { n := x.n ^ 256, d := x.d ^ 256 }
  (y.log2Floor + 1) / 2

/-- What a lane asks of a texture: u, v, the major axis, N and L; none where an operand is not finite. -/
structure TexAsk where
  u  : Rational
  v  : Rational
  mu : Rational
  mv : Rational
  n  : Nat
  L  : Nat
  deriving DecidableEq, Repr, Inhabited

def clampL (t : TexDesc) (x : Option Int) : Nat :=
  match x with
  | none => 0
  | some l => (max 0 (min (l + t.bias) (256 * ((t.levels : Int) - 1)))).toNat

/-- The level of detail (R379). -/
def texAsk (t : TexDesc) (lodMode : Bool) (u v : XR) (ops : List XR) : Option TexAsk :=
  let op (k : Nat) : Rational := ((ops[k]?).getD .nan).rat
  if !u.isFin || !v.isFin || ops.any fun x => !x.isFin then none
  else if lodMode then
    some { u := u.rat, v := v.rat, mu := .zero, mv := .zero, n := 1
           L := clampL t (some ((op 0).mul (Rational.ofInt 256)).round) }
  else
    let sq (a b : Rational) : Rational :=
      let x := a.mul (Rational.ofInt t.w)
      let y := b.mul (Rational.ofInt t.h)
      (x.mul x).add (y.mul y)
    let px := sq (op 0) (op 1)
    let py := sq (op 2) (op 3)
    let pmax := if px.lt py then py else px
    let pmin := if px.lt py then px else py
    let n := if t.filter = 0 then 1
      else if pmin.isZero then (if pmax.isZero then 1 else t.aniso) else anisoN pmin pmax t.aniso
    let L := if pmax.isZero then none else some (nearest128Log2 pmax - 256 * (Nat.log2 n : Int))
    some { u := u.rat, v := v.rat, mu := if px.lt py then op 2 else op 0, mv := if px.lt py then op 3 else op 1
           n := n, L := clampL t L }

/-- Levels used and their weights over 256 (R379). -/
def TexAsk.levels (a : TexAsk) (t : TexDesc) : List (Nat × Nat) :=
  if t.filter = 2 then
    let l := a.L / 256
    let fl := a.L % 256
    if fl = 0 then [(l, 256)] else [(l, 256 - fl), (l + 1, fl)]
  else [((a.L + 128) / 256, 256)]

/-- An index brought into a level: wrapped or clamped (R380). -/
def texIndex (wrap : Bool) (n : Nat) (i : Int) : Nat := if wrap then (i % (n : Int)).toNat else (max 0 (min i ((n : Int) - 1))).toNat

/-- One footprint of sample k at a level: its four texels in the order of R380 with their weights over 65,536; the first
alone for nearest. -/
structure Foot where
  level : Nat
  lw    : Nat
  fu    : Nat
  fv    : Nat
  taps  : List (Nat × Nat × Nat)
  deriving DecidableEq, Repr, Inhabited

def TexAsk.foot (a : TexAsk) (t : TexDesc) (k : Nat) (lv : Nat × Nat) : Foot :=
  let frac := Rational.mk' (2 * (k : Int) + 1 - a.n) (2 * a.n)
  let uk := a.u.add (frac.mul a.mu)
  let vk := a.v.add (frac.mul a.mv)
  let w := t.wl lv.1
  let h := t.hl lv.1
  let T (x : Rational) (n : Nat) : Int :=
    (((x.mul (Rational.ofInt n)).sub (Rational.mk' 1 2)).mul (Rational.ofInt 256)).round
  let Tu := T uk w
  let Tv := T vk h
  let ix (i : Int) : Nat := texIndex t.wrapU w i
  let iy (j : Int) : Nat := texIndex t.wrapV h j
  if t.filter = 0 then
    { level := lv.1, lw := lv.2, fu := 0, fv := 0, taps := [(ix ((Tu + 128) / 256), iy ((Tv + 128) / 256), 65536)] }
  else
    let i := Tu / 256
    let j := Tv / 256
    let fu := (Tu % 256).toNat
    let fv := (Tv % 256).toNat
    { level := lv.1, lw := lv.2, fu := fu, fv := fv
      taps := [(ix i, iy j, (256 - fu) * (256 - fv)), (ix (i + 1), iy j, fu * (256 - fv)),
               (ix i, iy (j + 1), (256 - fu) * fv), (ix (i + 1), iy (j + 1), fu * fv)] }

/-- The footprints in enumeration order. -/
def TexAsk.feet (a : TexAsk) (t : TexDesc) : List Foot :=
  (List.range a.n).flatMap fun k => (a.levels t).map fun lv => a.foot t k lv

/-- The total weight of a tap. -/
def TexAsk.omega (a : TexAsk) (ft : Foot) (wt : Nat) : Rational := Rational.mk' (ft.lw * wt : Nat) (a.n * 256 * 65536)

/-- The descriptor of a lane, checked (R378). -/
def State.laneTex (s : State) (f : Form) (l : Nat) (adj : Bool) : Eff TexDesc := do
  let a := (s.me.getV64 f.b.toNat l).toNat
  s.renderAlign l a 64
  let words ← (List.range 8).mapM fun k => s.renderRead l (a + 8 * k) 8
  let t := texDesc words
  if !t.ok || (adj && t.adj == 0) || decide (255 < f.d.toNat + t.chans - 1) then trapEff (layout10 a) else pure t

/-- The operands of a lane: u, v, and the four gradients or the lod. -/
def Wave.texOps (w : Wave) (f : Form) (l : Nat) : XR × XR × List XR :=
  let x (r : Nat) : XR := f32X (w.getV r l).toNat
  let c := f.c.toNat
  (x f.a.toNat, x (f.a.toNat + 1), if f.optBit 0 then [x c] else [x c, x (c + 1), x (c + 2), x (c + 3)])

/-- A texel channel. -/
def State.texel (s : State) (l : Nat) (t : TexDesc) (level i j c : Nat) : Eff XR := do
  let v ← s.renderRead l (t.addr t.base t.t.bytes level i j c) t.t.bytes
  pure ((fmtOf t.t).decode v).xr

/-- One lane of `tex`: the texel type and its channels' results. -/
def State.texLane (s : State) (f : Form) (l : Nat) : Eff (Nat × List Nat) := do
  let t ← s.laneTex f l false
  let (u, v, ops) := s.me.texOps f l
  match texAsk t (f.optBit 0) u v ops with
  | none => pure (t.t.code, List.replicate t.chans fmtF32.nan)
  | some a =>
    let rs ← (List.range t.chans).mapM fun c => do
      let terms ← (a.feet t).mapM fun ft => do
        let xs ← (ft.taps.filter fun p => p.2.2 ≠ 0).mapM fun p => do
          let x ← s.texel l t ft.level p.1 p.2.1 c
          pure (XR.scale (a.omega ft p.2.2) x)
        pure (XR.sum xs)
      pure (XR.sum terms).f32
    pure (t.t.code, rs)

/-- NONFINITE of `tex`, whose operand type is the lane's texel type (R49). -/
def State.checkTex (s : State) (rs : List (Nat × Nat × List Nat)) : Eff Unit :=
  if !s.nfOn then pure ()
  else
    match rs.find? fun e => e.2.2.any fun x => fmtF32.nonFinite x with
    | some e => trapEff (nfReport (u64 e.1) e.2.1 0 0 0)
    | none => pure ()

/-- The registers d … d + C − 1 of the lanes whose descriptors are good (R157, R203): they stand before the memory traps of the
texels. A descriptor still on its way is waited for. -/
def State.checkChannels (s : State) (f : Form) (adj : Bool) (A : W64) : Eff (List Nat) := do
  let ts := (lanesOf A).map fun l => s.laneTex f l adj
  let waits (x : Eff TexDesc) : Option Stop :=
    match x with
    | .error (.wait why s') => some (.wait why s')
    | _ => none
  match ts.findSome? waits with
  | some e => .error e
  | none =>
    let regs := ts.flatMap fun t =>
      match t with
      | .ok t => regRange f.d.toNat t.chans
      | .error _ => []
    s.checkRegs regs
    pure regs.eraseDups

/-- `tex` (R381). Registers past d outside the allotment are found once C is known. -/
def execTex (f : Form) (s : State) : Result State :=
  runVec (.tex f) f (fun A s => do
    s.checkRegs (f.d.toNat :: texRegs f)
    let regs ← s.checkChannels f false A
    if s.me.fragHeld regs then waitEff .other
    let rs ← lanesEff A (s.texLane f)
    s.checkTex rs
    pure (s.putRegs f.d.toNat (rs.map fun e => (e.1, e.2.2)))) s

/-- One lane of `texadj`: its adds in order, and gu, gv (R387). -/
def State.texadjLane (s : State) (f : Form) (l : Nat) : Eff (Nat × List (Nat × Nat) × List Nat) := do
  let t ← s.laneTex f l true
  let w := s.me
  let (u, v, ops) := w.texOps f l
  match texAsk t (f.optBit 0) u v ops with
  | none => pure (t.chans, [], [fmtF32.nan, fmtF32.nan])
  | some a =>
    let g (c : Nat) : XR := f32X (w.getV (f.d.toNat + c) l).toNat
    let cs := List.range t.chans
    let feet := a.feet t
    let adds := feet.flatMap fun ft => (ft.taps.filter fun p => p.2.2 ≠ 0).flatMap fun p => cs.map fun c =>
      (t.addr t.adj 4 ft.level p.1 p.2.1 c, (XR.scale (a.omega ft p.2.2) (g c)).f32)
    if t.filter = 0 then pure (t.chans, adds, [0, 0])
    else
      let ds ← cs.mapM fun c => do
        let parts ← feet.mapM fun ft => do
          let xs ← ft.taps.mapM fun p => s.texel l t ft.level p.1 p.2.1 c
          let x (k : Nat) : XR := (xs[k]?).getD .nan
          let q (n : Nat) : XR := .fin (Rational.ofInt n)
          let k (n : Nat) : Rational := Rational.mk' (ft.lw * n : Nat) (a.n * 256 * 256)
          let du := (((x 1).sub (x 0)).mul (q (256 - ft.fv))).add (((x 3).sub (x 2)).mul (q ft.fv))
          let dv := (((x 2).sub (x 0)).mul (q (256 - ft.fu))).add (((x 3).sub (x 1)).mul (q ft.fu))
          pure (XR.scale (k (t.wl ft.level)) du, XR.scale (k (t.hl ft.level)) dv)
        pure (XR.sum (parts.map Prod.fst), XR.sum (parts.map Prod.snd))
      let dot (pick : XR × XR → XR) : Nat := (XR.sum (ds.zipIdx.map fun e => (g e.2).mul (pick e.1))).f32
      pure (t.chans, adds, [dot Prod.fst, dot Prod.snd])

def execTexadj (f : Form) (s : State) : Result State :=
  runVec (.texadj f) f (fun A s => do
    s.checkRegs (f.d.toNat :: (f.d.toNat + 1) :: texRegs f)
    let regs ← s.checkChannels f true A
    if s.ackPending regs then waitEff .other
    s.checkEcc regs A
    let rs ← lanesEff A (s.texadjLane f)
    let go ← s.renderAdds (flattenAdds (rs.map fun e => (e.1, e.2.2.1)))
    let out := rs.map fun e => (e.1, e.2.2.2)
    s.checkRender 0 out
    pure ((go s).putRegs f.d.toNat out)) s

end Sys2Proof.Machine
end

