-- ==== Sys2Proof/Machine/Rays.lean ====
section
/-!
DEFINITION. Ray traversal, ray–triangle tests and their adjoint (R382–R385, R388).
-/
namespace Sys2Proof.Machine

/-- A scene descriptor (R382). -/
structure Scene where
  at_    : Nat
  nodes  : Nat
  tris   : Nat
  grads  : Nat
  nnodes : Nat
  ntris  : Nat
  deriving DecidableEq, Repr, Inhabited

/-- A ray (R383): origin, direction, tmin, tmax. -/
structure Ray where
  o    : List Rational
  d    : List Rational
  tmin : XR
  tmax : XR
  deriving DecidableEq, Repr, Inhabited

/-- A lane's ray; none where the lane misses whatever it meets. -/
def Wave.ray (w : Wave) (f : Form) (l : Nat) : Option Ray :=
  let x (k : Nat) : XR := f32X (w.getV (f.a.toNat + k) l).toNat
  let od := (List.range 6).map x
  if od.any (fun v => !v.isFin) || x 6 == .nan || x 7 == .nan then none
  else some { o := (od.take 3).map XR.rat, d := (od.drop 3).map XR.rat, tmin := x 6, tmax := x 7 }

def State.scene (s : State) (f : Form) (l : Nat) : Eff Scene := do
  let a := (s.me.getV64 f.b.toNat l).toNat
  let rd (k : Nat) : Eff Nat := s.renderRead l (a + 8 * k) 8
  let nodes ← rd 0
  let tris ← rd 1
  let grads ← rd 2
  let c ← rd 3
  let nnodes := c % 2 ^ 32
  let ntris := c / 2 ^ 32
  if nnodes = 0 || 2 ^ 31 < nnodes || ntris = 0 || 2 ^ 24 < ntris then trapEff (layout10 a)
  else pure { at_ := a, nodes, tris, grads, nnodes, ntris }

/-- The narrower of two intervals of t: greater lower end, lesser upper end. -/
def xrMax (a b : XR) : XR := if a.le b then b else a
def xrMin (a b : XR) : XR := if a.le b then a else b

/-- One axis of the box test: the interval of t it leaves; none where it cannot be met. -/
def axisHit (o d : Rational) (lo hi : XR) (iv : XR × XR) : Option (XR × XR) :=
  if lo == .nan || hi == .nan || !lo.le hi then none
  else if d.isZero then (if lo.le (.fin o) && (XR.fin o).le hi then some iv else none)
  else
    let at_ (b : XR) : XR := ((b.sub (.fin o))).mul (.fin (Rational.one.div d))
    let a := at_ lo
    let b := at_ hi
    let (a, b) := if d.n < 0 then (b, a) else (a, b)
    some (xrMax iv.1 a, xrMin iv.2 b)

/-- The box test (R383): some real t in the interval. -/
def boxHit (r : Ray) (lo hi : List XR) : Bool :=
  let iv := (List.range 3).foldl (fun (acc : Option (XR × XR)) k =>
    acc.bind fun iv => axisHit ((r.o[k]?).getD .zero) ((r.d[k]?).getD .zero) ((lo[k]?).getD .nan) ((hi[k]?).getD .nan) iv)
    (some (r.tmin, r.tmax))
  match iv with
  | none => false
  | some (a, b) => a.le b && a != .inf false && b != .inf true

/-- The determinant of three columns. -/
def det3 (a b c : List Rational) : Rational :=
  let x (l : List Rational) (k : Nat) : Rational := (l[k]?).getD .zero
  let m (p q r : Rational) : Rational := (p.mul q).mul r
  let pos := ((m (x a 0) (x b 1) (x c 2)).add (m (x b 0) (x c 1) (x a 2))).add (m (x c 0) (x a 1) (x b 2))
  let neg := ((m (x c 0) (x b 1) (x a 2)).add (m (x b 0) (x a 1) (x c 2))).add (m (x a 0) (x c 1) (x b 2))
  pos.sub neg

def vecSub (a b : List Rational) : List Rational := (a.zip b).map fun e => e.1.sub e.2

/-- The columns −d, e1, e2 of M (R383). -/
def rayCols (d p0 p1 p2 : List Rational) : List Rational × List Rational × List Rational :=
  (d.map Rational.neg, vecSub p1 p0, vecSub p2 p0)

/-- The triangle test (R383): t, β, γ of a hit. -/
def triHit (r : Ray) (v : List XR) : Option (Rational × Rational × Rational) :=
  if v.any fun x => !x.isFin then none
  else
    let q := v.map XR.rat
    let p0 := q.take 3
    let (a, b, c) := rayCols r.d p0 ((q.drop 3).take 3) (q.drop 6)
    let D := det3 a b c
    if D.isZero then none
    else
      let y := vecSub r.o p0
      let t := (det3 y b c).div D
      let be := (det3 a y c).div D
      let ga := (det3 a b y).div D
      if Rational.zero.le be && Rational.zero.le ga && (be.add ga).le .one && r.tmin.le (.fin t) && (XR.fin t).le r.tmax
      then some (t, be, ga) else none

/-- The nine coordinates of a triangle. -/
def State.triVerts (s : State) (l : Nat) (sc : Scene) (i : Nat) : Eff (List XR) :=
  (List.range 9).mapM fun k => do
    let v ← s.renderRead l (sc.tris + 48 * i + 4 * k) 4
    pure (f32X v)

/-- The triangles of the reached leaves below a node, and the first node that breaks the layout (R384): every reached node is
read, for its memory trap comes first (R366). `fuel` counts the levels still allowed. -/
def State.candidates (s : State) (l : Nat) (sc : Scene) (r : Ray) : Nat → Nat → Eff (List Nat × Option Nat)
  | fuel, node => do
    let a := sc.nodes + 32 * node
    let cs ← (List.range 6).mapM fun k => do
      let v ← s.renderRead l (a + 4 * k) 4
      pure (f32X v)
    if !boxHit r (cs.take 3) (cs.drop 3) then pure ([], none)
    else
      match fuel with
      | 0 => pure ([], some node)
      | fuel + 1 =>
        let info ← s.renderRead l (a + 0x18) 4
        if nbit info 31 then
          let first := nbits info 23 0
          let n := nbits info 30 24
          if n = 0 || sc.ntris < first + n then pure ([], some node)
          else pure ((List.range n).map (first + ·), none)
        else
          let left := nbits info 30 0
          if sc.nnodes ≤ left + 1 then pure ([], some node)
          else do
            let x ← State.candidates s l sc r fuel left
            let y ← State.candidates s l sc r fuel (left + 1)
            pure (x.1 ++ y.1, x.2 <|> y.2)

/-- Index, t, β, γ of a hit. -/
abbrev Hit := Nat × Rational × Rational × Rational

/-- The hit with the least t, then the least index (R384). -/
def bestHit (l : List Hit) : Option Hit :=
  l.foldl (fun acc h =>
    match acc with
    | none => some h
    | some b => if h.2.1.lt b.2.1 || (h.2.1 == b.2.1 && decide (h.1 < b.1)) then some h else some b) none

/-- t, β, γ as words. -/
def hitWords (h : Rational × Rational × Rational) : List Nat :=
  [(XR.fin h.1).f32, (XR.fin h.2.1).f32, (XR.fin h.2.2).f32]

/-- One lane of `trav`. -/
def State.travLane (s : State) (f : Form) (l : Nat) : Eff (Option Hit) := do
  let sc ← s.scene f l
  match s.me.ray f l with
  | none => pure none
  | some r =>
    let (cand, broken) ← s.candidates l sc r 65 0
    let hits ← cand.mapM fun i => do
      let v ← s.triVerts l sc i
      pure ((triHit r v).map fun h => (i, h))
    match broken with
    | some node => trapEff (layout11 l node)
    | none => pure (bestHit (hits.filterMap id))

/-- The words a missing lane leaves after its index: tmax copied, +0, +0. -/
def Wave.missWords (w : Wave) (f : Form) (l : Nat) : List Nat := [(w.getV (f.a.toNat + 7) l).toNat, 0, 0]

/-- p[Q] := whether each lane hit. -/
def Wave.putHits {α : Type} (w : Wave) (q : Nat) (A : W64) (rs : List (Nat × Option α)) : Wave :=
  w.setP q A (maskOf ((rs.filter fun e => e.2.isSome).map Prod.fst))

/-- The four records of `trav` with `rec` (R384). -/
def State.travRecords (s : State) (rows : List (Nat × List Nat)) : Eff State :=
  s.records 4 4 ((List.range 4).map fun k => (List.range s.me.id.width).map fun l =>
    match rows.find? fun e => e.1 == l with
    | some e => u64 ((e.2[k]?).getD 0)
    | none => 0)

/-- `trav` (R384). -/
def execTrav (f : Form) (s : State) : Result State :=
  runVec (.trav f) f (fun A s => do
    let w := s.me
    s.checkRegs (regRange f.d.toNat 4 ++ regRange f.a.toNat 8 ++ [f.b.toNat, f.b.toNat + 1])
    let rs ← lanesEff A (s.travLane f)
    let rows := rs.map fun e =>
      match e.2 with
      | some h => (e.1, h.1 :: hitWords h.2)
      | none => (e.1, 0xFFFFFFFF :: w.missWords f e.1)
    let recorded ← if f.optBit 4 then s.readSpill.travRecords rows else pure s
    s.checkRender 0 (rs.filterMap fun e => e.2.map fun h => (e.1, hitWords h.2))
    pure ((recorded.putRegs f.d.toNat rows).modMe fun w => w.putHits (f.optBits 3 0) A rs)) s

/-- `isect` (R385). -/
def execIsect (f : Form) (s : State) : Result State :=
  runVec (.isect f) f (fun A s => do
    let w := s.me
    s.checkRegs (regRange f.d.toNat 3 ++ regRange f.a.toNat 8 ++ [f.b.toNat, f.b.toNat + 1, f.c.toNat])
    let rs ← lanesEff A fun l => do
      let sc ← s.scene f l
      let i := (w.getV f.c.toNat l).toNat
      if sc.ntris ≤ i then trapEff (layout11 l i)
      else
        match w.ray f l with
        | none => pure none
        | some r => do
          let v ← s.triVerts l sc i
          pure (triHit r v)
    let rows := rs.map fun e => (e.1, match e.2 with
      | some h => hitWords h
      | none => w.missWords f e.1)
    s.checkRender 0 (rs.filterMap fun e => e.2.map fun h => (e.1, hitWords h))
    pure ((s.putRegs f.d.toNat rows).modMe fun w => w.putHits (f.optBits 3 0) A rs)) s

/-! ### isectadj (R388) -/

/-- The four traversal records taken, oldest first, with the tape after; none at a dropped span. A wave without a share has no
span. -/
def State.popFour (s : State) : Eff (Option (List Record × Tape)) :=
  let w := s.me
  let t := w.seen
  match t.top with
  | none => trapEff (allotTape 0 7)
  | some x =>
    if x.st = .open_ then trapEff (allotTape x.num 8)
    else if x.st = .dropped then pure none
    else
      let four := x.data.reverse.take 4
      if four.length < 4 then trapEff (rep illegalLayout 9 0)
      else
        match four.find? fun r => r.kind ≠ 4 with
        | some r => trapEff (wrongKind r)
        | none => do
          let t ← four.foldlM (fun t r =>
            match t.top with
            | some x => do
              let x ← tapeEff (t.fill (s.shareChunks w) x r)
              pure (t.pop x r)
            | none => pure t) t
          pure (some (four.reverse, t))

/-- The columns of M with their infinities and NaNs, and its cofactor rows: λ = (g₀ b×c + g₁ c×a + g₂ a×b) / det M solves
Mᵀ λ = g. DEDUCED (log entry 69): the products and sums that R367 gives a non-finite input are these. -/
def crossX (x y : List XR) (k : Nat) : XR :=
  let e (z : List XR) (n : Nat) : XR := (z[n % 3]?).getD .nan
  ((e x (k + 1)).mul (e y (k + 2))).sub ((e x (k + 2)).mul (e y (k + 1)))

/-- A quotient by a number that is not zero. -/
def XR.over (x d : XR) : XR :=
  match d with
  | .fin q => x.mul (.fin (Rational.one.div q))
  | .inf _ => match x with
    | .fin _ => .fin Rational.zero
    | _ => .nan
  | .nan => .nan

/-- λ of `isectadj`, from the columns of M and g; none where det M = 0. -/
def solveRay (a b c g : List XR) : Option (List XR) :=
  let at_ (l : List XR) (k : Nat) : XR := (l[k]?).getD .nan
  let D := XR.sum ((List.range 3).map fun k => (at_ a k).mul (crossX b c k))
  if D = .fin Rational.zero then none
  else
    some ((List.range 3).map fun k =>
      (XR.sum [(at_ g 0).mul (crossX b c k), (at_ g 1).mul (crossX c a k), (at_ g 2).mul (crossX a b k)]).over D)

/-- One lane of `isectadj`: six results and nine adds. -/
def State.isectadjLane (s : State) (f : Form) (recs : List Record) (l : Nat) : Eff (List Nat × List (Nat × Nat)) := do
  let w := s.me
  let word (k : Nat) : Nat := ((((recs[k]?).getD default).words[l]?).getD 0).toNat
  let i := word 0
  if i = 0xFFFFFFFF then pure (List.replicate 6 0, [])
  else
    let sc ← s.scene f l
    if sc.ntris ≤ i then trapEff (layout11 l i)
    else
      let v ← s.triVerts l sc i
      let dx := (List.range 3).map fun k => f32X (w.getV (f.a.toNat + 3 + k) l).toNat
      let g := (List.range 3).map fun k => f32X (w.getV (f.c.toNat + k) l).toNat
      let sub (x y : List XR) : List XR := (x.zip y).map fun e => e.1.sub e.2
      let p0 := v.take 3
      match solveRay (dx.map XR.neg) (sub ((v.drop 3).take 3) p0) (sub (v.drop 6) p0) g with
      | none => trapEff (layout11 l i)
      | some lam =>
        let t := f32X (word 1)
        let be := f32X (word 2)
        let ga := f32X (word 3)
        let b0 := ((XR.fin .one).sub be).sub ga
        let out := lam.map XR.f32 ++ lam.map fun x => (t.mul x).f32
        let adds := [b0, be, ga].zipIdx.flatMap fun m => lam.zipIdx.map fun x =>
          (sc.grads + 48 * i + 12 * m.2 + 4 * x.2, (m.1.neg.mul x.1).f32)
        pure (out, adds)

def execIsectadj (f : Form) (s : State) : Result State :=
  runVec (.isectadj f) f (fun A s => do
    s.checkRegs (regRange f.d.toNat 6 ++ regRange f.a.toNat 8 ++ [f.b.toNat, f.b.toNat + 1] ++ regRange f.c.toNat 3)
    let s := s.readSpill
    match ← s.popFour with
    | none => pure (s.modMe fun w => w.setP (f.optBits 3 0) A 0)
    | some (recs, tape) =>
      let rs ← lanesEff A (s.isectadjLane f recs)
      let go ← s.renderAdds (flattenAdds (rs.map fun e => (e.1, e.2.2)))
      let out := rs.map fun e => (e.1, e.2.1)
      s.checkRender 0 out
      let s ← s.moveTape tape
      pure (((go s).putRegs f.d.toNat out).modMe fun w => w.setP (f.optBits 3 0) A A)) s

end Sys2Proof.Machine
end

