-- ==== Sys2Proof/Machine/TapeInstr.lean ====
section
/-!
DEFINITION. The instructions of the tape (R361–R365) and the ordered add of the vector stream (R267, R268).
-/
namespace Sys2Proof.Machine

/-- The words `trec` and `tckpt` record: zero for inactive lanes (R361). -/
def Wave.recordWords (w : Wave) (f : Form) (A : W64) : List W64 :=
  (List.range w.id.width).map fun l => if A.getLsbD l then u64 (w.vsrc f.type l (.reg f.a.toNat)) else 0

/-- An instruction of the tape: it sees what the tape spill holds (R355). -/
def runTape (i : Instr) (f : Form) (body : W64 → State → Eff State) (s : State) : Result State :=
  runVec i f (fun A s => body A s.readSpill) s

/-- `trec` (R361). -/
def execTrec (f : Form) (s : State) : Result State :=
  runTape (.trec f) f (fun A s => do
    s.checkRegs (dstRegs f.type f.a.toNat)
    s.record (if f.type.is64 then 1 else 0) f.type.bytes (s.me.recordWords f A)) s

/-- `tckpt` (R363): at most 16 checkpoint records of a span. -/
def execTckpt (f : Form) (s : State) : Result State :=
  runTape (.tckpt f) f (fun A s => do
    s.checkRegs (dstRegs f.type f.a.toNat)
    let w := s.me
    let open_ := (w.vec.block.bind fun b => b.span).isSome
    let full := match w.seen.top with
      | some x => decide (16 ≤ x.ckpts.length)
      | none => false
    if s.hasShare w && open_ && full then trapEff (allotTape 16 5)
    else s.record (if f.type.is64 then 3 else 2) f.type.bytes (w.recordWords f A)) s

/-- `tpop` (R362). -/
def execTpop (f : Form) (s : State) : Result State :=
  runTape (.tpop f) f (fun A s => do
    let t := f.type
    s.checkRegs (dstRegs t f.d.toNat)
    match ← s.popRecord (if t.is64 then 1 else 0) with
    | none => pure (s.modMe fun w => w.setP f.b.toNat A 0)
    | some (r, tape) =>
      let s ← s.moveTape tape
      let s := s.vputs t f.d.toNat (lanesMap A fun l => ((r.words[l]?).getD 0).toNat)
      pure (s.modMe fun w => w.setP f.b.toNat A A)) s

/-- `tckpt.get` (R363): a checkpoint of the top span, in any of its states. -/
def execTckptGet (f : Form) (s : State) : Result State :=
  runTape (.tckptGet f) f (fun A s => do
    let t := f.type
    let w := s.me
    s.checkRegs (dstRegs t f.d.toNat)
    if !s.hasShare w then trapEff (allotTape 0 1)
    else
      match w.seen.top with
      | none => trapEff (allotTape 0 7)
      | some x =>
        match x.ckpts[f.c.toNat]? with
        | none => trapEff (allotTape f.c.toNat 9)
        | some r =>
          if r.kind ≠ (if t.is64 then 3 else 2) then trapEff (wrongKind r)
          else pure ((s.setTape w.seen).vputs t f.d.toNat (lanesMap A fun l => ((r.words[l]?).getD 0).toNat))) s

/-- `tspan` (R364): the open flag and the number at once, the boundary for the blocks that follow. -/
def runTspan (i : Instr) (f : Form) (recompute refill : Bool) (s : State) : Result State :=
  runCtl i (fun s =>
    let w := s.me
    if !s.hasShare w then trapEff (allotTape 0 1)
    else
      match w.tape.open_ with
      | some n => trapEff (allotTape n 2)
      | none =>
        let num := w.tape.count % 2 ^ 32
        pure (s.modMe fun w =>
          { w.setS f.d.toNat (u64 num) with
            tape := { w.tape with
              open_ := some num
              count := w.tape.count + 1
              pending := w.tape.pending ++ [(w.issued, .begin num recompute refill)] } })) s

def execTspan (f : Form) (s : State) : Result State := runTspan (.tspan f) f (f.optBit 0) false s
def execTspanRefill (f : Form) (s : State) : Result State := runTspan (.tspanRefill f) f false true s

/-- `tspend` (R364). -/
def execTspend (f : Form) (s : State) : Result State :=
  runCtl (.tspend f) (fun s =>
    let w := s.me
    if !s.hasShare w then trapEff (allotTape 0 1)
    else if w.tape.open_.isNone then trapEff (allotTape 0 3)
    else pure (s.modMe fun w =>
      { w with tape := { w.tape with open_ := none, pending := w.tape.pending ++ [(w.issued, .finish)] } })) s

/-- Codes of Table 15.1. -/
def SpanSt.code : SpanSt → Nat
  | .open_ => 1 | .resident => 2 | .spilled => 3 | .dropped => 4

/-- The value `tstat` selects, of the tape as it is read (R365). -/
def Tape.stat (t : Tape) (sel : Nat) : Nat :=
  match sel with
  | 0 => 256 * t.usedChunks
  | 1 => t.spillBytes
  | 2 => t.log
  | 3 =>
    match t.top with
    | none => 0
    | some x => x.st.code + (if x.recompute then 8 else 0) + (if x.refill then 16 else 0) + 256 * x.ckpts.length +
        2 ^ 32 * x.num
  | _ => t.spilled + 2 ^ 32 * t.dropped

/-- The tape as the control side knows its spans (R365): every boundary it has set, but for the end of a span of which blocks are
still to run, whose records may be to come; such a span stands complete. -/
def Tape.foresee (taken : Nat) : List (Nat × SpanCmd) → Option Nat → Tape → Tape
  | [], _, t => t
  | (n, .begin num rc rf) :: r, _, t => Tape.foresee taken r (some n) (t.boundary (.begin num rc rf))
  | (n, .finish) :: r, since, t =>
    let t := if n ≤ taken ∨ since = some n then t.boundary .finish
      else match t.top with
        | some x => t.setTop (some { x with st := .resident })
        | none => t
    Tape.foresee taken r none t

/-- `tstat` (R365): the open flag and the span numbers are the control side's, exact whatever the vector side has reached. -/
def execTstat (f : Form) (s : State) : Result State :=
  runCtl (.tstat f) (fun s =>
    let w := s.me
    let sel := f.optBits 2 0
    let t := if sel = 3 then w.tape.foresee w.taken w.tape.pending none else w.seen
    pure (s.modMe fun w => w.setS f.d.toNat (u64 (t.stat sel)))) s

/-! ### red.o (R267) -/

/-- What an ordered add's word must be: mapped writable device memory of the context. -/
def needAdd : Need := { kind := .add, read := false, write := true, peer := false, host := false }

/-- `red.o`: one ordered add a lane, all checked before any issues. -/
def execRedO (f : Form) (s : State) : Result State :=
  runVec (.redO f) f (fun A s => do
    s.checkRegs (f.d.toNat :: addrRegs f false)
    let w := s.me
    let els ← s.checkAccess s.cur false needAdd 4 (w.vecEls f false true A) (s.checkAdds s.cur 16 (lanesOf A))
    if els.any fun e => s.buffered s.cur e then s.flushBuffer s.cur
    pure (s.issueAdds s.cur (els.filterMap fun e =>
      match e.2.2 with
      | .dev pa => some (e.1, pa, w.getV f.d.toNat e.1)
      | _ => none))) s

end Sys2Proof.Machine
end

