-- ==== Sys2Proof/Machine/VectorFloat.lean ====
section
/-!
DEFINITION. Floating-point arithmetic, classes and compares of the vector stream, and `adamw` (R207–R212, R229, R230).
-/
namespace Sys2Proof.Machine

/-- Source a, b or c as a value of the instruction's type. -/
def Wave.fvA (w : Wave) (f : Form) (l : Nat) : FV := (fmtOf f.type).decode (w.vsrc f.type l (f.srcA true))
def Wave.fvB (w : Wave) (f : Form) (l : Nat) : FV := (fmtOf f.type).decode (w.vsrc f.type l (f.srcB true))
def Wave.fvC (w : Wave) (f : Form) (l : Nat) : FV := (fmtOf f.type).decode (w.vsrc f.type l (f.srcC true))

/-- One rounding of an exact result to the type, in the instruction's mode. -/
def roundF (f : Form) (x : FV) : Nat := (fmtOf f.type).encode { mode := f.rounding } false x

/-- Whether an exact zero sum of operands of opposite sign is −0 (R207). -/
def zeroDown (f : Form) : Bool := f.rounding == .rd

def runFloat2 (i : Instr) (f : Form) (op : FV → FV → FV) (s : State) : Result State :=
  runLanes i f f.type (formRegs2 f f.type) true (fun w l => roundF f (op (w.fvA f l) (w.fvB f l))) s

/-- A one-source function through f32 (R208). -/
def runVia (i : Instr) (f : Form) (fn : W32 → W32) (s : State) : Result State :=
  runLanes i f f.type (formRegs1 f f.type) true
    (fun w l => (fmtOf f.type).viaF32 fn (w.vsrc f.type l (f.srcA true))) s

def execFadd (f : Form) (s : State) : Result State := runFloat2 (.fadd f) f (FV.add (zeroDown f)) s
def execFsub (f : Form) (s : State) : Result State := runFloat2 (.fsub f) f (fun x y => x.add (zeroDown f) y.neg) s
def execFmul (f : Form) (s : State) : Result State := runFloat2 (.fmul f) f FV.mul s
def execFma (f : Form) (s : State) : Result State :=
  runLanes (.fma f) f f.type (formRegs3 f f.type) true
    (fun w l => roundF f (((w.fvA f l).mul (w.fvB f l)).add (zeroDown f) (w.fvC f l))) s
def execFmin (f : Form) (s : State) : Result State := runFloat2 (.fmin f) f fvMin s
def execFmax (f : Form) (s : State) : Result State := runFloat2 (.fmax f) f fvMax s
def execFdiv (f : Form) (s : State) : Result State := runFloat2 (.fdiv f) f FV.div s
def execFsqrt (f : Form) (s : State) : Result State :=
  runLanes (.fsqrt f) f f.type (formRegs1 f f.type) true (fun w l => roundF f (w.fvA f l).sqrt) s
def execFrcp (f : Form) (s : State) : Result State := runVia (.frcp f) f f32Rcp s
def execFrsq (f : Form) (s : State) : Result State := runVia (.frsq f) f f32Rsq s
def execExp2 (f : Form) (s : State) : Result State := runVia (.exp2 f) f f32Exp2 s
def execLog2 (f : Form) (s : State) : Result State := runVia (.log2 f) f f32Log2 s
def execSinpi (f : Form) (s : State) : Result State := runVia (.sinpi f) f f32Sinpi s
def execCospi (f : Form) (s : State) : Result State := runVia (.cospi f) f f32Cospi s

/-- The class mask of a word of a format (R210). -/
def Fmt.classOf (t : Fmt) (x : Nat) : Nat :=
  let mag := x % t.sign
  let bit := match t.decode x with
    | .nan => 8
    | .inf n => if n then 0 else 7
    | .fin n m _ =>
      if m = 0 then (if n then 3 else 4)
      else if mag < 2 ^ t.fbits then (if n then 2 else 5)
      else if n then 1 else 6
  2 ^ bit

def execFclass (f : Form) (s : State) : Result State :=
  runLanes (.fclass f) f .n32 (formRegs1 f f.type) false
    (fun w l => (fmtOf f.type).classOf (w.vsrc f.type l (f.srcA true))) s

/-- `fsel` (R211): a move of the chosen operand's bits. -/
def execFsel (f : Form) (s : State) : Result State :=
  runLanes (.fsel f) f f.type (formRegs2 f f.type) false
    (fun w l => if (w.getP f.c.toNat).getLsbD l then w.vsrc f.type l (f.srcA true) else w.vsrc f.type l (f.srcB true)) s

/-! ### Compares (R66, R212) -/

/-- The writes of a predicate pair over the lanes the block runs: g the guard, q the relation. -/
def Wave.putPairV (w : Wave) (f : Form) (A : W64) (q : Nat → Bool) : Wave :=
  let P := f.d.toNat % 16
  let Q := f.d.toNat / 16
  let p := w.getP P
  let p' := w.getP Q
  let new := (lanesOf w.blockMask).filterMap fun l =>
    (combine f.ctype (A.getLsbD l) (q l) (p.getLsbD l) (p'.getLsbD l)).map fun b => (l, b)
  let m := maskOf (new.map Prod.fst)
  let a := maskOf ((new.filter fun e => e.2.1).map Prod.fst)
  let b := maskOf ((new.filter fun e => e.2.2).map Prod.fst)
  (w.setP P m a).setP Q m b

/-- A vector compare; a guarded-off lane takes part under zero-fill. -/
def runCompare (i : Instr) (f : Form) (rel : Nat → Nat → Bool) (s : State) : Result State :=
  runVec i f (fun A s => do
    s.checkRegs (srcRegs f.type (f.csrcA true) ++ srcRegs f.type (f.csrcB true))
    pure (s.modMe fun w =>
      w.putPairV f A fun l => rel (w.vsrc f.type l (f.csrcA true)) (w.vsrc f.type l (f.csrcB true)))) s

def execFcmp (f : Form) (s : State) : Result State :=
  let t := fmtOf f.type
  runCompare (.fcmp f) f (fun x y => fcondHolds f.cond (t.decode x) (t.decode y)) s

def execIcmp (f : Form) (s : State) : Result State :=
  runCompare (.icmp f) f (fun x y => condHolds f.cond (valOf f.type x) (valOf f.type y)) s

/-! ### adamw (R229, R230) -/

/-- A negative value or −0 becomes +0. -/
def clampLow (x : W32) : W32 := if (f32 x).isNan then x else if x.getLsbD 31 then 0 else x

/-- The new moments and weight: mn, vn, wn. -/
def adamwLane (k0 k1 k2 k3 : W64) (w g m v : W32) : W32 × W32 × W32 :=
  let lo (k : W64) : W32 := k.setWidth 32
  let hi (k : W64) : W32 := k.extractLsb' 32 32
  let one : W32 := 0x3F800000
  let mn := f32Fma (lo k0) m (f32Mul (f32Sub one (lo k0)) g)
  let vn := clampLow (f32Fma (hi k0) v (f32Mul (f32Sub one (hi k0)) (f32Mul g g)))
  let mh := f32Mul mn (lo k3)
  let vh := clampLow (f32Mul vn (hi k3))
  let dn := f32Add (f32Sqrt vh) (lo k2)
  let u := if dn = 0 && (f32 mh).isZero then 0 else f32Div mh dn
  (mn, vn, f32Sub w (f32Mul (lo k1) (f32Add u (f32Mul (hi k1) w))))

def execAdamw (f : Form) (s : State) : Result State :=
  runVec (.adamw f) f (fun A s => do
    s.checkRegs (f.d.toNat :: (srcRegs .f32 (f.srcA true) ++ [f.b.toNat, f.c.toNat]))
    let w := s.me
    let k (n : Nat) : W64 := w.vec.k.get n
    let rs := (lanesOf A).map fun l =>
      (l, adamwLane (k 0) (k 1) (k 2) (k 3) (w.getV f.d.toNat l) (u32 (w.vsrc .f32 l (f.srcA true)))
        (w.getV f.b.toNat l) (w.getV f.c.toNat l))
    match (if s.nfOn then rs.find? fun e =>
        !(f32 e.2.1).isFin || !(f32 e.2.2.1).isFin || !(f32 e.2.2.2).isFin else none) with
    | some e => trapEff (nfReport (u64 e.1) 0 0 0 0)
    | none =>
      pure (s.modMe fun w => rs.foldl (fun w e =>
        ((w.setV f.b.toNat e.1 e.2.1).setV f.c.toNat e.1 e.2.2.1).setV f.d.toNat e.1 e.2.2.2) w)) s

/-! ### Short forms (R76) -/

def execFaddF32Short (f : Short) (s : State) : Result State :=
  runFloat2 (.faddF32Short f) (shortForm f .f32) (FV.add false) s
def execFsubF32Short (f : Short) (s : State) : Result State :=
  runFloat2 (.fsubF32Short f) (shortForm f .f32) (fun x y => x.add false y.neg) s
def execFmulF32Short (f : Short) (s : State) : Result State := runFloat2 (.fmulF32Short f) (shortForm f .f32) FV.mul s
def execFminF32Short (f : Short) (s : State) : Result State := runFloat2 (.fminF32Short f) (shortForm f .f32) fvMin s
def execFmaxF32Short (f : Short) (s : State) : Result State := runFloat2 (.fmaxF32Short f) (shortForm f .f32) fvMax s

end Sys2Proof.Machine
end

