-- ==== Sys2Proof/Machine/VectorInt.lean ====
section
/-!
DEFINITION. Integer, bit and predicate instructions of the vector stream (R213–R215).
-/
namespace Sys2Proof.Machine

def Wave.ivA (w : Wave) (f : Form) (l : Nat) : Int := valOf f.type (w.vsrc f.type l (f.srcA true))
def Wave.ivB (w : Wave) (f : Form) (l : Nat) : Int := valOf f.type (w.vsrc f.type l (f.srcB true))
def Wave.ivC (w : Wave) (f : Form) (l : Nat) : Int := valOf f.type (w.vsrc f.type l (f.srcC true))
def Wave.bitsA (w : Wave) (f : Form) (l : Nat) : Nat := w.vsrc f.type l (f.srcA true)
/-- A shift amount, position or length: n32 whatever the type (R214, R215). -/
def Wave.n32B (w : Wave) (f : Form) (l : Nat) : Nat := w.vsrc .n32 l (f.srcB true)
def Wave.n32C (w : Wave) (f : Form) (l : Nat) : Nat := w.vsrc .n32 l (f.srcC true)

/-- An instruction of Table 9.4 on two typed sources. -/
def runInt2 (i : Instr) (f : Form) (op : Int → Int → Int) (s : State) : Result State :=
  runLanes i f f.type (formRegs2 f f.type) false (fun w l => reduce f.type f.sat (op (w.ivA f l) (w.ivB f l))) s

/-- A bitwise instruction. -/
def runBits2 (i : Instr) (f : Form) (op : Nat → Nat → Nat) (s : State) : Result State :=
  runLanes i f f.type (formRegs2 f f.type) false
    (fun w l => op (w.bitsA f l) (w.vsrc f.type l (f.srcB true)) % 2 ^ f.type.width) s

/-- A shift; b is one register whatever the type. -/
def runShiftV (i : Instr) (f : Form) (op : Nat → Nat → Nat) (s : State) : Result State :=
  runLanes i f f.type (formRegs1 f f.type ++ srcRegs .n32 (f.srcB true)) false
    (fun w l => op (w.bitsA f l) (w.n32B f l) % 2 ^ f.type.width) s

def runSarV (i : Instr) (f : Form) (s : State) : Result State :=
  runLanes i f f.type (formRegs1 f f.type ++ srcRegs .n32 (f.srcB true)) false
    (fun w l => reduce f.type false (sarOp f.type.width (w.ivA f l) (w.n32B f l))) s

def execIadd (f : Form) (s : State) : Result State := runInt2 (.iadd f) f (· + ·) s
def execIsub (f : Form) (s : State) : Result State := runInt2 (.isub f) f (· - ·) s
def execImul (f : Form) (s : State) : Result State := runInt2 (.imul f) f (· * ·) s
def execImad (f : Form) (s : State) : Result State :=
  runLanes (.imad f) f f.type (formRegs3 f f.type) false
    (fun w l => reduce f.type f.sat (w.ivA f l * w.ivB f l + w.ivC f l)) s
def execImulh (f : Form) (s : State) : Result State := runInt2 (.imulh f) f (mulhOp f.type.width) s
def execIabs (f : Form) (s : State) : Result State :=
  runLanes (.iabs f) f f.type (formRegs1 f f.type) false (fun w l => reduce f.type f.sat (w.ivA f l).natAbs) s
def execIand (f : Form) (s : State) : Result State := runBits2 (.iand f) f (· &&& ·) s
def execIor (f : Form) (s : State) : Result State := runBits2 (.ior f) f (· ||| ·) s
def execIxor (f : Form) (s : State) : Result State := runBits2 (.ixor f) f (· ^^^ ·) s
def execIshl (f : Form) (s : State) : Result State := runShiftV (.ishl f) f (shlOp f.type.width) s
def execIshr (f : Form) (s : State) : Result State := runShiftV (.ishr f) f (shrOp f.type.width) s
def execIsar (f : Form) (s : State) : Result State := runSarV (.isar f) f s
def execImin (f : Form) (s : State) : Result State := runInt2 (.imin f) f min s
def execImax (f : Form) (s : State) : Result State := runInt2 (.imax f) f max s

/-- `ipopc` and `iclz` write their count as n32 to one register. -/
def runCountV (i : Instr) (f : Form) (op : Nat → Nat) (s : State) : Result State :=
  runLanes i f .n32 (formRegs1 f f.type) false (fun w l => op (w.bitsA f l)) s

def execIpopc (f : Form) (s : State) : Result State := runCountV (.ipopc f) f popCount s
def execIclz (f : Form) (s : State) : Result State := runCountV (.iclz f) f (leadZeros f.type.width) s

/-- Registers of `ibfx` and `ibfi`. -/
def fieldRegs (f : Form) : List Nat :=
  formRegs1 f f.type ++ srcRegs .n32 (f.srcB true) ++ srcRegs .n32 (f.srcC true)

def execIbfx (f : Form) (s : State) : Result State :=
  runLanes (.ibfx f) f f.type (fieldRegs f) false
    (fun w l => reduce f.type false (bfxOp f.type (w.bitsA f l) (w.n32B f l) (w.n32C f l))) s

def execIbfi (f : Form) (s : State) : Result State :=
  runLanes (.ibfi f) f f.type (fieldRegs f) false
    (fun w l => bfiOp f.type.width (w.vsrc f.type l (.reg f.d.toNat)) (w.bitsA f l) (w.n32B f l) (w.n32C f l)
      % 2 ^ f.type.width) s

/-! ### Predicate logic (R213) -/

/-- A predicate written in the active lanes. -/
def runPred (i : Instr) (f : Form) (op : W64 → W64 → W64) (s : State) : Result State :=
  runVec i f (fun A s => pure (s.modMe fun w =>
    w.setP f.d.toNat A (op (w.getP f.a.toNat) (w.getP f.b.toNat)))) s

def execPand (f : Form) (s : State) : Result State := runPred (.pand f) f (· &&& ·) s
def execPor (f : Form) (s : State) : Result State := runPred (.por f) f (· ||| ·) s
def execPxor (f : Form) (s : State) : Result State := runPred (.pxor f) f (· ^^^ ·) s
def execPnot (f : Form) (s : State) : Result State := runPred (.pnot f) f (fun x _ => ~~~x) s

/-! ### Short forms (R76) -/

def execIaddI32Short (f : Short) (s : State) : Result State := runInt2 (.iaddI32Short f) (shortForm f .i32) (· + ·) s
def execIsubI32Short (f : Short) (s : State) : Result State := runInt2 (.isubI32Short f) (shortForm f .i32) (· - ·) s
def execImulI32Short (f : Short) (s : State) : Result State := runInt2 (.imulI32Short f) (shortForm f .i32) (· * ·) s
def execIandB32Short (f : Short) (s : State) : Result State := runBits2 (.iandB32Short f) (shortForm f .b32) (· &&& ·) s
def execIorB32Short (f : Short) (s : State) : Result State := runBits2 (.iorB32Short f) (shortForm f .b32) (· ||| ·) s
def execIxorB32Short (f : Short) (s : State) : Result State := runBits2 (.ixorB32Short f) (shortForm f .b32) (· ^^^ ·) s
def execIshlB32Short (f : Short) (s : State) : Result State := runShiftV (.ishlB32Short f) (shortForm f .b32) (shlOp 32) s
def execIshrB32Short (f : Short) (s : State) : Result State := runShiftV (.ishrB32Short f) (shortForm f .b32) (shrOp 32) s
def execIsarI32Short (f : Short) (s : State) : Result State := runSarV (.isarI32Short f) (shortForm f .i32) s
def execMovB32Short (f : Short) (s : State) : Result State :=
  runLanes (.movB32Short f) (shortForm f .b32) .b32 [f.a.toNat] false (fun w l => (w.getV f.a.toNat l).toNat) s

end Sys2Proof.Machine
end

