-- ==== Sys2Proof/Machine/VectorMem.lean ====
section
/-!
DEFINITION. Loads, stores, gathers, scatters, atomics, fences and hints of the vector stream (R258–R266, R272, R273).
-/
namespace Sys2Proof.Machine

/-- The checked elements of the vector access at hand: as they were checked once it has begun (R256, R266). -/
def State.vecElements (s : State) (loc : Bool) (need : Need) (n : Nat) (els : List (Nat × Nat)) : Eff (List Element) :=
  match s.me.vec.access with
  | none => s.checkAccess s.cur loc need n els
  | some a => pure a.els

/-- The access begins and waits for its lanes. -/
def State.begin (s : State) (loc past : Bool) (n : Nat) (els : List Element) : State :=
  s.modMe fun w => { w with vec := { w.vec with
    access := match w.vec.access with
      | none => some { loc, past, n, els, stamp := s.epoch }
      | some a => some a } }

/-- A wait that has sent requests keeps the elements. -/
def keepEls {α : Type} (loc : Bool) (n : Nat) (els : List Element) (x : Eff α) : Eff α :=
  match x with
  | .error (.wait why (some s)) => .error (.wait why (some (s.begin loc false n els)))
  | x => x

/-- One lane of the load at hand is read, at an instant of its own (R237). -/
def State.readLane (s : State) (wi lane : Nat) : State :=
  let w := s.waves.get wi
  match w.vec.access with
  | none => s
  | some a =>
    match a.els.find? fun e => e.1 == lane && (a.loc || !e.2.2.isPeer) && !a.got.any fun g => g.1 == lane with
    | none => s
    | some e =>
      let s' := if a.past && !a.loc then s.atHome wi [e] else s
      match s'.loadCached wi 0 (lane + 1) a.loc a.past a.n e with
      | .ok v => s'.modWave wi fun w => { w with vec := { w.vec with access := some { a with got := a.got ++ [(lane, v)] } } }
      | .error _ => s

/-- The value of a lane of a load: as it was read before, else as it is now. -/
def State.laneValue (s : State) (loc past : Bool) (n : Nat) (e : Element) : Eff Nat :=
  match (s.me.vec.access.elim [] VecAccess.got).find? fun g => g.1 == e.1 with
  | some g => pure g.2
  | none => s.loadCached s.cur 0 (e.1 + 1) loc past n e

/-- `ld` (R258): every lane is checked before any is read, and every lane read before any is written. A load with lanes in
peer windows goes on when all of them have answered (R256, R263). -/
def runLoad (i : Instr) (f : Form) (loc : Bool) (s : State) : Result State :=
  runVec i f (fun A s => do
    let t := f.type
    s.checkRegs (dstRegs t f.d.toNat ++ addrRegs f loc)
    let els ← s.vecElements loc needLoad t.bytes (s.me.vecEls f loc true A)
    let far := if loc then [] else els.filter Element.isPeer
    if s.me.vec.access.isNone && (!far.isEmpty || (s.me.split && !els.isEmpty)) then
      .error (.wait .other (some ((s.askPeers t.bytes (fun _ => true) far).begin loc f.pastL1 t.bytes els)))
    else
      match s.peerAnswers far with
      | none => waitEff .other
      | some as =>
        match laneTrap .load as with
        | some r => trapEff r
        | none =>
          let s := if f.pastL1 && !loc then s.atHome s.cur els else s
          let rs ← els.mapM fun e => do
            let v ← s.laneValue loc f.pastL1 t.bytes e
            pure (e.1, v)
          pure ((s.loaded s.cur loc f els).vputs t f.d.toNat rs)) s

def execLdG (f : Form) (s : State) : Result State := runLoad (.ldG f) f false s
def execLdL (f : Form) (s : State) : Result State := runLoad (.ldL f) f true s

/-- `st` (R258, R259): lanes store in ascending order, so the highest supplies a shared byte. -/
def runStore (i : Instr) (f : Form) (loc : Bool) (k : AKind) (s : State) : Result State :=
  runVec i f (fun A s => do
    let t := f.type
    s.checkRegs (dstRegs t f.d.toNat ++ addrRegs f loc)
    let w := s.me
    let els ← s.checkAccess s.cur loc { needStore with kind := k } t.bytes (w.vecEls f loc true A)
    s.orderBuffer s.cur f loc (f.releases && els.any Element.isPeer)
    let (n, s) := s.fresh
    pure (els.foldl (fun s e => s.storeElement s.cur loc f.releases t.bytes (w.vsrc t e.1 (.reg f.d.toNat)) e n) s)) s

def execStG (f : Form) (s : State) : Result State := runStore (.stG f) f false .store s
def execStL (f : Form) (s : State) : Result State := runStore (.stL f) f true .store s
def execStg (f : Form) (s : State) : Result State := runStore (.stg f) f false .scatter s

/-! ### ldg (R260, R261, R263) -/

def Wave.setGather (w : Wave) (g : Option Gather) : Wave := { w with vec := { w.vec with gather := g } }

/-- The trap of a gather none of whose awaited elements can come: all are in peer windows, refused or lost (R263). DESIGN CHOICE
(log entry 71): with two packages lost, the lowest awaited lane names the one. -/
def State.gatherTrap (s : State) (els : List (Nat × Nat)) (g : Gather) : Option Report :=
  if g.awaited.isEmpty || g.awaited.any (fun e => s.mayCome s.cur g e) then none
  else
    laneTrap .gather (g.awaited.filterMap fun e =>
      match e.2 with
      | .peer pkg _ =>
        (s.laneAnswer s.cur (((g.sharing e.2).head?).getD e.1) pkg).map fun a =>
          ((e.1, ((els.find? fun x => x.1 == e.1).map Prod.snd).getD 0, e.2), a)
      | _ => none)

/-- `ldg` (R261): checked and handed to the pug mill; the destination is written when the last element has come. -/
def execLdg (f : Form) (s : State) : Result State :=
  runVec (.ldg f) f (fun A s => do
    let t := f.type
    let at_ := s.me.vecEls f false true A
    match s.me.vec.gather with
    | some g =>
      match s.gatherTrap at_ g with
      | some r => .error (.trapIn r (s.modMe fun w => w.setGather none))
      | none =>
        if g.awaited.isEmpty then
          pure (((s.acquireBy s.cur f).vputs t f.d.toNat g.arrived).modMe fun w => w.setGather none)
        else waitEff .other
    | none =>
      s.checkRegs (dstRegs t f.d.toNat ++ addrRegs f false)
      let els ← s.checkAccess s.cur false { needLoad with kind := .gather } t.bytes at_
      if els.any fun e => s.buffered s.cur e then s.flushBuffer s.cur
      if els.isEmpty then pure s
      else
        let g : Gather :=
          { site := s.me.vecSite
            size := t.bytes
            arrived := []
            awaited := els.map fun e => (e.1, e.2.2)
            stamp := s.epoch }
        .error (.wait .other (some
          ((s.askPeers t.bytes (fun e => (g.sharing e.2.2).head? == some e.1) els).modMe fun w => w.setGather (some g))))) s

/-- LDG_ELEMENT_ARRIVAL (R260): an element of the gather of wave `id` is read at its home and returns, to every lane that
names it, with the wave's own queued stores over it (R238); the L1 keeps no older copy of it (R239). None where it is not
awaited or has not come; uncorrectable data ends a wave once (R111). -/
def tryLdgElementArrival (id lane : Nat) (s : State) : Option State :=
  let w := s.waves.get id
  w.vec.gather.bind fun g =>
    (g.awaited.find? fun e => e.1 == lane).bind fun e =>
      let t := e.2
      let ls := g.sharing t
      let came (s : State) (v : Nat) : State :=
        let v := s.forward id false t.key g.size v
        s.modWave id fun w => w.setGather (some { g with
          arrived := g.arrived ++ ls.map fun l => (l, v), awaited := g.awaited.filter fun e => e.2 != t })
      let ends (pa : Nat) : Option State := if w.st = .running then some (s.uncorrectable id w.vecSite pa) else none
      match t with
      | .peer pkg pa =>
        let asker := (ls.head?).getD lane
        match s.laneAnswer id asker pkg with
        | some (.value v) => some (came s (s.wcbMerge id 0 (asker + 1) pkg pa g.size v.toNat))
        | some (.bad pa) => ends pa
        | _ => none
      | t =>
        let s' := s.atHome id [(lane, 0, t)]
        match s'.readAt t g.size with
        | .ok v => some (came s' v)
        | .error (.uncorr pa) => ends pa
        | .error _ => none

def execLdgElementArrival (id lane : Nat) (s : State) : Result State := orSame (tryLdgElementArrival id lane) s

/-! ### atom (R265, R266) -/

/-- The remote lanes' old values in ascending lane order; where one stops, those before it and the trap. -/
def State.atomPeers (s : State) (op : AtomOp) (t : ElemType) (xy : Nat → Nat × Nat) :
    List Element → Eff (Lanes × Option Report)
  | [] => pure ([], none)
  | e :: r =>
    match e.2.2 with
    | .peer pkg pa => do
      let a ← s.remote s.cur 0 (e.1 + 1) pkg pa (.atomic op t (u64 (xy e.1).1) (u64 (xy e.1).2))
      match remoteValue pkg e.1 e.2.1 .atomic a with
      | .ok v =>
        let (vs, stop) ← State.atomPeers s op t xy r
        pure ((e.1, v) :: vs, stop)
      | .error (.trap rp) => pure ([], some rp)
      | .error x => .error x
    | _ => State.atomPeers s op t xy r

/-- The lanes of this package and the host, in ascending lane order. -/
def State.atomHere (s : State) (loc : Bool) (op : AtomOp) (t : ElemType) (xy : Nat → Nat × Nat) :
    List Element → Eff (Lanes × State)
  | [] => pure ([], s)
  | e :: r =>
    if !loc && e.isPeer then State.atomHere s loc op t xy r
    else do
      let (m, s) ← s.atomLocal s.cur loc op t (xy e.1).1 (xy e.1).2 e
      let (vs, s) ← State.atomHere s loc op t xy r
      pure ((e.1, m) :: vs, s)

/-- `atom` (R266): each lane's step is one atomic; a remote lane that is lost or refused traps and leaves the lanes that
were acknowledged. -/
def runAtom (i : Instr) (f : Form) (op : AtomOp) (s : State) : Result State :=
  runVec i f (fun A s => do
    let t := f.type
    let loc := localBit f
    let width := if t.is64 then 2 else 1
    s.checkRegs (dstRegs t f.d.toNat ++ addrRegs f loc ++ dstRegs t f.c.toNat ++
      (if op = .cas then dstRegs t (f.c.toNat + width) else []))
    let w := s.me
    let els ← s.vecElements loc needAtomic t.bytes (w.vecEls f loc false A)
    if w.vec.access.isNone then
      if !loc && els.any fun e => s.buffered s.cur e then s.flushBuffer s.cur
      s.orderBuffer s.cur f loc false
    let xy (l : Nat) : Nat × Nat := (w.vsrc t l (.reg f.c.toNat), w.vsrc t l (.reg (f.c.toNat + width)))
    let (far, stop) ← if loc then pure ([], none) else keepEls loc t.bytes els (s.atomPeers op t xy els)
    let (near, s) ← s.atomHere loc op t xy els
    let s := (s.acquireBy s.cur f).vputs t f.d.toNat (far ++ near)
    match stop with
    | none => pure s
    | some r => .error (.trapIn r s)) s

def execAtomAdd (f : Form) (s : State) : Result State := runAtom (.atomAdd f) f .add s
def execAtomMin (f : Form) (s : State) : Result State := runAtom (.atomMin f) f .min s
def execAtomMax (f : Form) (s : State) : Result State := runAtom (.atomMax f) f .max s
def execAtomAnd (f : Form) (s : State) : Result State := runAtom (.atomAnd f) f .and s
def execAtomOr (f : Form) (s : State) : Result State := runAtom (.atomOr f) f .or s
def execAtomXor (f : Form) (s : State) : Result State := runAtom (.atomXor f) f .xor s
def execAtomXchg (f : Form) (s : State) : Result State := runAtom (.atomXchg f) f .xchg s
def execAtomCas (f : Form) (s : State) : Result State := runAtom (.atomCas f) f .cas s
def execAtomInc (f : Form) (s : State) : Result State := runAtom (.atomInc f) f .inc s

/-! ### fence and pref (R272, R273) -/

/-- `fence` of the vector stream: earlier memory instructions have completed; the buffer drains and raises what it owes; its
order applies (R242). -/
def execFenceVec (f : Form) (s : State) : Result State :=
  runVec (.fenceVec f) f (fun _ s => do
    s.release s.cur
    s.settleBuffer s.cur
    pure (s.acquireBy s.cur f)) s

/-- `pref` (R273): a hint; only a register outside the allotment stops it. -/
def execPref (f : Form) (s : State) : Result State :=
  runVec (.pref f) f (fun _ s => do
    s.checkRegs (addrRegs f false)
    pure s) s

end Sys2Proof.Machine
end

