-- ==== Sys2Proof/Machine/Dispatch.lean ====
section
/-!
DEFINITION. The dispatch: one arm per constructor of Instr, each one direct call of that instruction's meaning.
-/
namespace Sys2Proof.Machine

/-- What an instruction or step does to the machine. -/
def exec (i : Instr) (s : State) : Host.Outcome State Fault Refusal :=
  match i with
  | .add f => Sys2Proof.Machine.execAdd f s
  | .sub f => Sys2Proof.Machine.execSub f s
  | .mul f => Sys2Proof.Machine.execMul f s
  | .mulh f => Sys2Proof.Machine.execMulh f s
  | .div f => Sys2Proof.Machine.execDiv f s
  | .rem f => Sys2Proof.Machine.execRem f s
  | .bitAnd f => Sys2Proof.Machine.execBitAnd f s
  | .bitOr f => Sys2Proof.Machine.execBitOr f s
  | .xor f => Sys2Proof.Machine.execXor f s
  | .andn f => Sys2Proof.Machine.execAndn f s
  | .shl f => Sys2Proof.Machine.execShl f s
  | .shr f => Sys2Proof.Machine.execShr f s
  | .sar f => Sys2Proof.Machine.execSar f s
  | .min f => Sys2Proof.Machine.execMin f s
  | .max f => Sys2Proof.Machine.execMax f s
  | .sel f => Sys2Proof.Machine.execSel f s
  | .cmp f => Sys2Proof.Machine.execCmp f s
  | .lea f => Sys2Proof.Machine.execLea f s
  | .mov f => Sys2Proof.Machine.execMov f s
  | .ldi f => Sys2Proof.Machine.execLdi f s
  | .ldiHi f => Sys2Proof.Machine.execLdiHi f s
  | .popc f => Sys2Proof.Machine.execPopc f s
  | .clz f => Sys2Proof.Machine.execClz f s
  | .bfx f => Sys2Proof.Machine.execBfx f s
  | .bfi f => Sys2Proof.Machine.execBfi f s
  | .br f => Sys2Proof.Machine.execBr f s
  | .bc f => Sys2Proof.Machine.execBc f s
  | .brv f => Sys2Proof.Machine.execBrv f s
  | .call f => Sys2Proof.Machine.execCall f s
  | .ret f => Sys2Proof.Machine.execRet f s
  | .jr f => Sys2Proof.Machine.execJr f s
  | .loopTo f => Sys2Proof.Machine.execLoopTo f s
  | .clauseHeader f => Sys2Proof.Machine.execClauseHeader f s
  | .vrun f => Sys2Proof.Machine.execVrun f s
  | .mpush f => Sys2Proof.Machine.execMpush f s
  | .melse f => Sys2Proof.Machine.execMelse f s
  | .mpop f => Sys2Proof.Machine.execMpop f s
  | .vany f => Sys2Proof.Machine.execVany f s
  | .vall f => Sys2Proof.Machine.execVall f s
  | .bqrd f => Sys2Proof.Machine.execBqrd f s
  | .lser f => Sys2Proof.Machine.execLser f s
  | .lsend f => Sys2Proof.Machine.execLsend f s
  | .crew f => Sys2Proof.Machine.execCrew f s
  | .gnode f => Sys2Proof.Machine.execGnode f s
  | .grun f => Sys2Proof.Machine.execGrun f s
  | .semw f => Sys2Proof.Machine.execSemw f s
  | .sems f => Sys2Proof.Machine.execSems f s
  | .sld f => Sys2Proof.Machine.execSld f s
  | .sst f => Sys2Proof.Machine.execSst f s
  | .satomAdd f => Sys2Proof.Machine.execSatomAdd f s
  | .satomMin f => Sys2Proof.Machine.execSatomMin f s
  | .satomMax f => Sys2Proof.Machine.execSatomMax f s
  | .satomAnd f => Sys2Proof.Machine.execSatomAnd f s
  | .satomOr f => Sys2Proof.Machine.execSatomOr f s
  | .satomXor f => Sys2Proof.Machine.execSatomXor f s
  | .satomXchg f => Sys2Proof.Machine.execSatomXchg f s
  | .satomCas f => Sys2Proof.Machine.execSatomCas f s
  | .satomInc f => Sys2Proof.Machine.execSatomInc f s
  | .fenceCtrl f => Sys2Proof.Machine.execFenceCtrl f s
  | .trapTo f => Sys2Proof.Machine.execTrapTo f s
  | .eret f => Sys2Proof.Machine.execEret f s
  | .csrr f => Sys2Proof.Machine.execCsrr f s
  | .csrw f => Sys2Proof.Machine.execCsrw f s
  | .acq f => Sys2Proof.Machine.execAcq f s
  | .yield f => Sys2Proof.Machine.execYield f s
  | .exitWave f => Sys2Proof.Machine.execExitWave f s
  | .nop f => Sys2Proof.Machine.execNop f s
  | .clk f => Sys2Proof.Machine.execClk f s
  | .tick f => Sys2Proof.Machine.execTick f s
  | .ldw f => Sys2Proof.Machine.execLdw f s
  | .mma f => Sys2Proof.Machine.execMma f s
  | .mmaSp f => Sys2Proof.Machine.execMmaSp f s
  | .mmaSr f => Sys2Proof.Machine.execMmaSr f s
  | .scac f => Sys2Proof.Machine.execScac f s
  | .zclr f => Sys2Proof.Machine.execZclr f s
  | .zclrPin f => Sys2Proof.Machine.execZclrPin f s
  | .zclrUnpin f => Sys2Proof.Machine.execZclrUnpin f s
  | .zdrain f => Sys2Proof.Machine.execZdrain f s
  | .barWg f => Sys2Proof.Machine.execBarWg f s
  | .barM f => Sys2Proof.Machine.execBarM f s
  | .barGang f => Sys2Proof.Machine.execBarGang f s
  | .barDev f => Sys2Proof.Machine.execBarDev f s
  | .fbar f => Sys2Proof.Machine.execFbar f s
  | .chanPush f => Sys2Proof.Machine.execChanPush f s
  | .chanPop f => Sys2Proof.Machine.execChanPop f s
  | .deqPush f => Sys2Proof.Machine.execDeqPush f s
  | .deqPushReset f => Sys2Proof.Machine.execDeqPushReset f s
  | .deqPop f => Sys2Proof.Machine.execDeqPop f s
  | .deqStealClaim f => Sys2Proof.Machine.execDeqStealClaim f s
  | .deqStealRun f => Sys2Proof.Machine.execDeqStealRun f s
  | .deqStealDone f => Sys2Proof.Machine.execDeqStealDone f s
  | .evict f => Sys2Proof.Machine.execEvict f s
  | .pgq f => Sys2Proof.Machine.execPgq f s
  | .tspan f => Sys2Proof.Machine.execTspan f s
  | .tspanRefill f => Sys2Proof.Machine.execTspanRefill f s
  | .tspend f => Sys2Proof.Machine.execTspend f s
  | .tstat f => Sys2Proof.Machine.execTstat f s
  | .rast f => Sys2Proof.Machine.execRast f s
  | .allred f => Sys2Proof.Machine.execAllred f s
  | .mgrpDef f => Sys2Proof.Machine.execMgrpDef f s
  | .mgrpBind f => Sys2Proof.Machine.execMgrpBind f s
  | .mgrpRevoke f => Sys2Proof.Machine.execMgrpRevoke f s
  | .mgrpFree f => Sys2Proof.Machine.execMgrpFree f s
  | .fadd f => Sys2Proof.Machine.execFadd f s
  | .fsub f => Sys2Proof.Machine.execFsub f s
  | .fmul f => Sys2Proof.Machine.execFmul f s
  | .fma f => Sys2Proof.Machine.execFma f s
  | .fmin f => Sys2Proof.Machine.execFmin f s
  | .fmax f => Sys2Proof.Machine.execFmax f s
  | .fdiv f => Sys2Proof.Machine.execFdiv f s
  | .frcp f => Sys2Proof.Machine.execFrcp f s
  | .frsq f => Sys2Proof.Machine.execFrsq f s
  | .fsqrt f => Sys2Proof.Machine.execFsqrt f s
  | .exp2 f => Sys2Proof.Machine.execExp2 f s
  | .log2 f => Sys2Proof.Machine.execLog2 f s
  | .sinpi f => Sys2Proof.Machine.execSinpi f s
  | .cospi f => Sys2Proof.Machine.execCospi f s
  | .fclass f => Sys2Proof.Machine.execFclass f s
  | .fcmp f => Sys2Proof.Machine.execFcmp f s
  | .fsel f => Sys2Proof.Machine.execFsel f s
  | .iadd f => Sys2Proof.Machine.execIadd f s
  | .isub f => Sys2Proof.Machine.execIsub f s
  | .imul f => Sys2Proof.Machine.execImul f s
  | .imad f => Sys2Proof.Machine.execImad f s
  | .imulh f => Sys2Proof.Machine.execImulh f s
  | .iabs f => Sys2Proof.Machine.execIabs f s
  | .iand f => Sys2Proof.Machine.execIand f s
  | .ior f => Sys2Proof.Machine.execIor f s
  | .ixor f => Sys2Proof.Machine.execIxor f s
  | .ishl f => Sys2Proof.Machine.execIshl f s
  | .ishr f => Sys2Proof.Machine.execIshr f s
  | .isar f => Sys2Proof.Machine.execIsar f s
  | .imin f => Sys2Proof.Machine.execImin f s
  | .imax f => Sys2Proof.Machine.execImax f s
  | .icmp f => Sys2Proof.Machine.execIcmp f s
  | .ipopc f => Sys2Proof.Machine.execIpopc f s
  | .iclz f => Sys2Proof.Machine.execIclz f s
  | .ibfx f => Sys2Proof.Machine.execIbfx f s
  | .ibfi f => Sys2Proof.Machine.execIbfi f s
  | .cvt f => Sys2Proof.Machine.execCvt f s
  | .pack f => Sys2Proof.Machine.execPack f s
  | .unpack f => Sys2Proof.Machine.execUnpack f s
  | .qnt f => Sys2Proof.Machine.execQnt f s
  | .dqnt f => Sys2Proof.Machine.execDqnt f s
  | .movV f => Sys2Proof.Machine.execMovV f s
  | .movk f => Sys2Proof.Machine.execMovk f s
  | .laneRank f => Sys2Proof.Machine.execLaneRank f s
  | .perm f => Sys2Proof.Machine.execPerm f s
  | .bcast f => Sys2Proof.Machine.execBcast f s
  | .compress f => Sys2Proof.Machine.execCompress f s
  | .expand f => Sys2Proof.Machine.execExpand f s
  | .slideup f => Sys2Proof.Machine.execSlideup f s
  | .slidedn f => Sys2Proof.Machine.execSlidedn f s
  | .matchLanes f => Sys2Proof.Machine.execMatchLanes f s
  | .ballot f => Sys2Proof.Machine.execBallot f s
  | .redLanes f => Sys2Proof.Machine.execRedLanes f s
  | .scanLanes f => Sys2Proof.Machine.execScanLanes f s
  | .pand f => Sys2Proof.Machine.execPand f s
  | .por f => Sys2Proof.Machine.execPor f s
  | .pxor f => Sys2Proof.Machine.execPxor f s
  | .pnot f => Sys2Proof.Machine.execPnot f s
  | .adamw f => Sys2Proof.Machine.execAdamw f s
  | .ldG f => Sys2Proof.Machine.execLdG f s
  | .ldL f => Sys2Proof.Machine.execLdL f s
  | .stG f => Sys2Proof.Machine.execStG f s
  | .stL f => Sys2Proof.Machine.execStL f s
  | .ldg f => Sys2Proof.Machine.execLdg f s
  | .stg f => Sys2Proof.Machine.execStg f s
  | .redO f => Sys2Proof.Machine.execRedO f s
  | .mcastSt f => Sys2Proof.Machine.execMcastSt f s
  | .fenceVec f => Sys2Proof.Machine.execFenceVec f s
  | .pref f => Sys2Proof.Machine.execPref f s
  | .atomAdd f => Sys2Proof.Machine.execAtomAdd f s
  | .atomMin f => Sys2Proof.Machine.execAtomMin f s
  | .atomMax f => Sys2Proof.Machine.execAtomMax f s
  | .atomAnd f => Sys2Proof.Machine.execAtomAnd f s
  | .atomOr f => Sys2Proof.Machine.execAtomOr f s
  | .atomXor f => Sys2Proof.Machine.execAtomXor f s
  | .atomXchg f => Sys2Proof.Machine.execAtomXchg f s
  | .atomCas f => Sys2Proof.Machine.execAtomCas f s
  | .atomInc f => Sys2Proof.Machine.execAtomInc f s
  | .zcopy f => Sys2Proof.Machine.execZcopy f s
  | .attnStep f => Sys2Proof.Machine.execAttnStep f s
  | .attnMass f => Sys2Proof.Machine.execAttnMass f s
  | .trec f => Sys2Proof.Machine.execTrec f s
  | .tpop f => Sys2Proof.Machine.execTpop f s
  | .tckpt f => Sys2Proof.Machine.execTckpt f s
  | .tckptGet f => Sys2Proof.Machine.execTckptGet f s
  | .tex f => Sys2Proof.Machine.execTex f s
  | .texadj f => Sys2Proof.Machine.execTexadj f s
  | .trav f => Sys2Proof.Machine.execTrav f s
  | .isect f => Sys2Proof.Machine.execIsect f s
  | .isectadj f => Sys2Proof.Machine.execIsectadj f s
  | .bary f => Sys2Proof.Machine.execBary f s
  | .baryadj f => Sys2Proof.Machine.execBaryadj f s
  | .esmp f => Sys2Proof.Machine.execEsmp f s
  | .addI64Short f => Sys2Proof.Machine.execAddI64Short f s
  | .subI64Short f => Sys2Proof.Machine.execSubI64Short f s
  | .andB64Short f => Sys2Proof.Machine.execAndB64Short f s
  | .orB64Short f => Sys2Proof.Machine.execOrB64Short f s
  | .xorB64Short f => Sys2Proof.Machine.execXorB64Short f s
  | .shlB64Short f => Sys2Proof.Machine.execShlB64Short f s
  | .shrB64Short f => Sys2Proof.Machine.execShrB64Short f s
  | .sarI64Short f => Sys2Proof.Machine.execSarI64Short f s
  | .movB64Short f => Sys2Proof.Machine.execMovB64Short f s
  | .minI64Short f => Sys2Proof.Machine.execMinI64Short f s
  | .maxI64Short f => Sys2Proof.Machine.execMaxI64Short f s
  | .nopShort => Sys2Proof.Machine.execNopShort s
  | .faddF32Short f => Sys2Proof.Machine.execFaddF32Short f s
  | .fsubF32Short f => Sys2Proof.Machine.execFsubF32Short f s
  | .fmulF32Short f => Sys2Proof.Machine.execFmulF32Short f s
  | .fminF32Short f => Sys2Proof.Machine.execFminF32Short f s
  | .fmaxF32Short f => Sys2Proof.Machine.execFmaxF32Short f s
  | .iaddI32Short f => Sys2Proof.Machine.execIaddI32Short f s
  | .isubI32Short f => Sys2Proof.Machine.execIsubI32Short f s
  | .imulI32Short f => Sys2Proof.Machine.execImulI32Short f s
  | .iandB32Short f => Sys2Proof.Machine.execIandB32Short f s
  | .iorB32Short f => Sys2Proof.Machine.execIorB32Short f s
  | .ixorB32Short f => Sys2Proof.Machine.execIxorB32Short f s
  | .ishlB32Short f => Sys2Proof.Machine.execIshlB32Short f s
  | .ishrB32Short f => Sys2Proof.Machine.execIshrB32Short f s
  | .isarI32Short f => Sys2Proof.Machine.execIsarI32Short f s
  | .movB32Short f => Sys2Proof.Machine.execMovB32Short f s
  | .vrunToken => Sys2Proof.Machine.execVrunToken s
  | .maskToken => Sys2Proof.Machine.execMaskToken s
  | .requestToken => Sys2Proof.Machine.execRequestToken s
  | .backQueueAnswer => Sys2Proof.Machine.execBackQueueAnswer s
  | .operationComplete id => Sys2Proof.Machine.execOperationComplete id s
  | .ldgElementArrival id lane => Sys2Proof.Machine.execLdgElementArrival id lane s
  | .orderedAddArrival id => Sys2Proof.Machine.execOrderedAddArrival id s
  | .create ctx arg => Sys2Proof.Machine.execCreate ctx arg s
  | .suspend ctx => Sys2Proof.Machine.execSuspend ctx s
  | .suspendRelease ctx => Sys2Proof.Machine.execSuspendRelease ctx s
  | .resume ctx arg => Sys2Proof.Machine.execResume ctx arg s
  | .releaseCtx ctx => Sys2Proof.Machine.execReleaseCtx ctx s
  | .destroy ctx => Sys2Proof.Machine.execDestroy ctx s
  | .frozenOrSaved ctx => Sys2Proof.Machine.execFrozenOrSaved ctx s
  | .restoreComplete ctx badBlock => Sys2Proof.Machine.execRestoreComplete ctx badBlock s
  | .quiesced ctx => Sys2Proof.Machine.execQuiesced ctx s
  | .overrunStop gang wg => Sys2Proof.Machine.execOverrunStop gang wg s
  | .hang ctx wave => Sys2Proof.Machine.execHang ctx wave s
  | .matrixReset core pc => Sys2Proof.Machine.execMatrixReset core pc s
  | .queueEnable ctx q prio => Sys2Proof.Machine.execQueueEnable ctx q prio s
  | .queueDisable ctx q prio => Sys2Proof.Machine.execQueueDisable ctx q prio s
  | .errpendClear ctx q => Sys2Proof.Machine.execErrpendClear ctx q s
  | .tailAdvance ctx q => Sys2Proof.Machine.execTailAdvance ctx q s
  | .launchPkt ctx q => Sys2Proof.Machine.execLaunchPkt ctx q s
  | .graphPkt ctx q => Sys2Proof.Machine.execGraphPkt ctx q s
  | .signalPkt ctx q => Sys2Proof.Machine.execSignalPkt ctx q s
  | .waitPkt ctx q => Sys2Proof.Machine.execWaitPkt ctx q s
  | .conditionHolds ctx q => Sys2Proof.Machine.execConditionHolds ctx q s
  | .waitTimeout ctx q => Sys2Proof.Machine.execWaitTimeout ctx q s
  | .fencePkt ctx q => Sys2Proof.Machine.execFencePkt ctx q s
  | .fenceComplete ctx q => Sys2Proof.Machine.execFenceComplete ctx q s
  | .levelPkt ctx q => Sys2Proof.Machine.execLevelPkt ctx q s
  | .levelComplete ctx => Sys2Proof.Machine.execLevelComplete ctx s
  | .placeGang kernel core split => Sys2Proof.Machine.execPlaceGang kernel core split s
  | .grantGang gang => Sys2Proof.Machine.execGrantGang gang s
  | .drainedGang gang => Sys2Proof.Machine.execDrainedGang gang s
  | .commitComplete kernel => Sys2Proof.Machine.execCommitComplete kernel s
  | .copyNode graph node => Sys2Proof.Machine.execCopyNode graph node s
  | .launchNode graph node => Sys2Proof.Machine.execLaunchNode graph node s
  | .signalNode graph node => Sys2Proof.Machine.execSignalNode graph node s
  | .nopNode graph node => Sys2Proof.Machine.execNopNode graph node s
  | .graphNodeComplete graph node => Sys2Proof.Machine.execGraphNodeComplete graph node s
  | .barrierTimeout wave => Sys2Proof.Machine.execBarrierTimeout wave s
  | .fbarArrival job id member time => Sys2Proof.Machine.execFbarArrival job id member time s
  | .fbarRelease job id => Sys2Proof.Machine.execFbarRelease job id s
  | .leaseExpiry header slot => Sys2Proof.Machine.execLeaseExpiry header slot s
  | .ingressLeaseExpiry line => Sys2Proof.Machine.execIngressLeaseExpiry line s
  | .wcbEntryDrain core entry => Sys2Proof.Machine.execWcbEntryDrain core entry s
  | .peerRequest req => Sys2Proof.Machine.execPeerRequest req s
  | .peerResponse resp => Sys2Proof.Machine.execPeerResponse resp s
  | .mcastReplicate id => Sys2Proof.Machine.execMcastReplicate id s
  | .mcastAck id => Sys2Proof.Machine.execMcastAck id s
  | .allredContribution con => Sys2Proof.Machine.execAllredContribution con s
  | .allredResult job group k => Sys2Proof.Machine.execAllredResult job group k s
  | .tickBoundary => Sys2Proof.Machine.execTickBoundary s
  | .tickClose pkg tick => Sys2Proof.Machine.execTickClose pkg tick s
  | .timingMessage aligned => Sys2Proof.Machine.execTimingMessage aligned s
  | .epochAdvance => Sys2Proof.Machine.execEpochAdvance s
  | .coolingEnd ctx frame => Sys2Proof.Machine.execCoolingEnd ctx frame s
  | .inv ctx => Sys2Proof.Machine.execInv ctx s
  | .invall ctx => Sys2Proof.Machine.execInvall ctx s
  | .invComplete ctx => Sys2Proof.Machine.execInvComplete ctx s
  | .migrate ctx => Sys2Proof.Machine.execMigrate ctx s
  | .migrateComplete ctx => Sys2Proof.Machine.execMigrateComplete ctx s
  | .portEnable port => Sys2Proof.Machine.execPortEnable port s
  | .portDisable port => Sys2Proof.Machine.execPortDisable port s
  | .trainingSucceeds port width peer => Sys2Proof.Machine.execTrainingSucceeds port width peer s
  | .trainingFails port => Sys2Proof.Machine.execTrainingFails port s
  | .laneFails port width => Sys2Proof.Machine.execLaneFails port width s
  | .laneRecovery port => Sys2Proof.Machine.execLaneRecovery port s
  | .loss port => Sys2Proof.Machine.execLoss port s
  | .retrain port => Sys2Proof.Machine.execRetrain port s
  | .hostLinkStateChange st => Sys2Proof.Machine.execHostLinkStateChange st s
  | .linkDown pkg tick => Sys2Proof.Machine.execLinkDown pkg tick s
  | .mirrorReload ctx cells => Sys2Proof.Machine.execMirrorReload ctx cells s
  | .bind ctx value => Sys2Proof.Machine.execBind ctx value s
  | .unbind ctx => Sys2Proof.Machine.execUnbind ctx s
  | .lkPkgidWrite value => Sys2Proof.Machine.execLkPkgidWrite value s
  | .registerWrite off n value => Sys2Proof.Machine.execRegisterWrite off n value s
  | .deviceReset => Sys2Proof.Machine.execDeviceReset s
  | .readyBitSet bit => Sys2Proof.Machine.execReadyBitSet bit s
  | .read64 region off => Sys2Proof.Machine.execRead64 region off s
  | .write64 region off value => Sys2Proof.Machine.execWrite64 region off value s
  | .logReq => Sys2Proof.Machine.execLogReq s
  | .attest nonce => Sys2Proof.Machine.execAttest nonce s
  | .power cap => Sys2Proof.Machine.execPower cap s
  | .mctpControl msg => Sys2Proof.Machine.execMctpControl msg s
  | .junctionLimit => Sys2Proof.Machine.execJunctionLimit s
  | .thermalResume => Sys2Proof.Machine.execThermalResume s
  | .coolantInlet celsius => Sys2Proof.Machine.execCoolantInlet celsius s
  | .scrub src granule => Sys2Proof.Machine.execScrub src granule s
  | .cxlMemAccess op => Sys2Proof.Machine.execCxlMemAccess op s
  | .cxlCacheSnoop line => Sys2Proof.Machine.execCxlCacheSnoop line s
  | .softError src granule correctable => Sys2Proof.Machine.execSoftError src granule correctable s
  | .standbyPowerLoss => Sys2Proof.Machine.execStandbyPowerLoss s
  | .linkLevelReplay port delivered => Sys2Proof.Machine.execLinkLevelReplay port delivered s
  | .issueGating held => Sys2Proof.Machine.execIssueGating held s

end Sys2Proof.Machine
end

