-- ==== Sys2Proof/Machine/Turns.lean ====
section
/-!
DEFINITION. The turns a step takes: of a wave's control stream, of its vector side, of an input, and of the part's own
units when the schedule names nothing (log entry 5).
-/
namespace Sys2Proof.Machine

/-- Time passes after a step that has taken place; what the step let go is served: waiters at semaphores, records and bindings
that waited for a page, frames taken from a free list, the line before the range-lock table; and the hang detector looks. -/
def afterStep : Result State → Result State
  | .next s => .next s.leaveArrivals.serveSems.serveLate.serveBinds.noteTaken.tidyLockq.tickStep.noteIdle.noteOnward
  | .fault r => .fault r
  | .refused r => .refused r

/-- Whether a wave's control stream takes a turn: it may issue, and no vector trap waits for it to stop; or an instruction of
it is under way, which completes (R97, R165, R264). -/
def State.ctlMay (s : State) (wi : Nat) : Bool :=
  let w := s.waves.get wi
  (s.mayIssue wi && (w.vec.pend.isNone || w.vec.held)) || (w.st = .running && s.midCtl wi && !s.heldBack)

/-- Whether a wave's vector side takes a turn: to deliver the trap it stands at, to issue, or to complete the instruction it
has under way (R165, R264). -/
def State.vecMay (s : State) (wi : Nat) : Bool :=
  let w := s.waves.get wi
  if w.vec.pend.isSome then s.mayTrap wi
  else (w.vec.block.isSome || !w.ctl.queue.isEmpty) && ((s.vecMayIssue wi && !w.vec.held) || (w.st = .running && w.midVec && !s.heldBack))

/-- A turn of a wave's control stream (R160). -/
def ctlTurn (wi : Nat) (s : State) : Result State :=
  if s.ctlMay wi then
    let s := ({ s with cur := wi }.noteIssue).modCore (coreOf wi) fun c => { c with lastCtl := wi % 32 }
    match s.nextCtl with
    | .ok i => exec i s
    | .error e => .next (s.ctlStop e)
  else .next s

/-- A turn of a wave's vector side. -/
def vecTurn (wi : Nat) (s : State) : Result State :=
  if s.vecMay wi then
    let s := { s with cur := wi }.modCore (coreOf wi) fun c => { c with lastVec := wi % 32 }
    match s.me.vec.pend with
    | some r =>
      let next (v : Vec) : Vec := { v with pend := v.more.head?, more := v.more.tail }
      .next ((s.modMe fun w => { w with vec := next w.vec }).takeTrap wi r s.me.ctl.pc)
    | none =>
      match s.nextVec with
      | some (.ok i) => exec i s
      | some (.error e) => .next (s.vecFail e)
      | none => .next s
  else .next s

/-- A step without an encoding, given from outside or taken by one of the part's units. The steps of a wave's own
units belong to its turns, and an encoded instruction is fetched, not given: nothing happens then. -/
def eventTurn (i : Instr) (s : State) : Result State :=
  match i with
  | .vrunToken | .maskToken | .requestToken | .backQueueAnswer => .next s
  | i => if i.isEvent && i.eventOk then exec i s else .next s

/-- A leaf enters a context's translation caches, as the table has it: valid, and not held (R329). -/
def State.cacheLeaf (s : State) (ci va : Nat) : State :=
  let c := s.ctxs.get ci
  if !canonical va then s
  else
    match s.walkFrom c va 4 c.pgroot with
    | .leaf _ _ entry =>
      let lvl := leafLevel s.mem va 4 c.pgroot
      let l : CachedLeaf := { lvl, page := va / (4096 * 512 ^ lvl), e := s.mem.readNat entry 8, entry }
      if c.tlb.contains l then s else s.modCtx ci fun c => { c with tlb := l :: c.tlb }
    | _ => s

/-- A choice takes effect (log entry 6). -/
def State.choose (s : State) : Choice → State
  | .keep w on => if (s.waves.get w).st = .running then s.modWave w fun x => { x with keep := on } else s
  | .perform w i => s.popLane w i
  | .slow core on => s.modCore core fun c => { c with slow := on }
  | .arrive core i => s.arriveOne core i
  | .split w on => if (s.waves.get w).st = .running then s.modWave w fun x => { x with split := on } else s
  | .readLane w lane => s.readLane w lane
  | .caching core on => s.modCore core fun c => { c with caching := on }
  | .evict core key => s.l1Drop core key
  | .cacheLeaf ctx va => s.cacheLeaf ctx va
  | .useLeaves ctx on => s.modCtx ctx fun c => { c with tlbOn := on }
  | .ioRead off n => s.ioRead off n
  | .routeLost pkg => s.routeLost pkg
  | .routeBack pkg => s.heard pkg
  | .logAdd uid => s.logAdd uid
  | .fullMirror ctx => s.fullMirror ctx

/-- The acts of matrix engines and of requests to memory: they are held while power or thermal control holds issue back
(R427). -/
def Act.held : Act → Bool
  | .ev (.operationComplete _) | .ev (.ldgElementArrival _ _) | .ev (.orderedAddArrival _) => true
  | .choose (.perform _ _) | .choose (.arrive _ _) | .choose (.readLane _ _) => true
  | _ => false

/-- One act. -/
def runAct (a : Act) (s : State) : Result State :=
  if s.heldBack && a.held then .next s
  else
    match a with
    | .ctl w => ctlTurn w s
    | .vec w => vecTurn w s
    | .ev i => eventTurn i s
    | .choose c => .next (s.choose c)

/-! ### The part's own units -/

/-- Keys above `k` first, then the rest: ascending order starting after `k` (R160). -/
def rotate (k : Nat) (l : List Nat) : List Nat := l.filter (fun x => decide (k < x)) ++ l.filter fun x => decide (x ≤ k)

/-- The state of the first of several steps that can happen. -/
def firstNext (s : State) : List (State → Option State) → Option State
  | [] => none
  | f :: r =>
    match f s with
    | some s' => some s'
    | none => firstNext s r

/-- Steps of the memory side: operations, stores that wait in a queue, gathers, ordered adds, buffers, quiescence (R69, R238,
R246–R249, R260, R333). -/
def State.memorySteps (s : State) : List (State → Option State) :=
  (if s.heldBack then []
  else
    (s.waves.flatMap fun e => e.2.ctl.ops.map fun o => tryOperationComplete o.uid) ++
    ((s.waves.filter fun e => !e.2.stq.isEmpty).map fun e => fun (s : State) => some (s.popStore e.1)) ++
    ((s.cores.filter fun e => !e.2.out.isEmpty).map fun e => fun (s : State) => some (s.arriveOne e.1 0)) ++
    (s.waves.flatMap fun e => match e.2.vec.gather with
      | some g => g.awaited.map fun x => tryLdgElementArrival e.1 x.1
      | none => []) ++
    ((s.adds.filter fun a => !a.home).map fun a => tryOrderedAddArrival a.uid)) ++
  (s.cores.flatMap fun e => (List.range e.2.wcb.length).map fun i => tryWcbEntryDrain e.1 i) ++
  (s.leases.map fun l => tryIngressLeaseExpiry l.1) ++ [tryEpochAdvance]

/-- Steps of a context: commands and page changes under way (R89, R331–R335). -/
def contextSteps (ci : Nat) (c : Ctx) : List (State → Option State) :=
  [tryFrozenOrSaved ci, tryRestoreComplete ci none, tryQuiesced ci, tryInvComplete ci, tryMigrateComplete ci,
    tryLevelComplete ci] ++ c.frames.map fun e => tryCoolingEnd ci e.1

/-- Steps of a queue (R121–R131). -/
def queueSteps (ci q : Nat) : List (State → Option State) :=
  [tryTailAdvance ci q] ++ [1, 2, 3, 4, 5, 6].map (fun t => startTyped t ci q) ++
  [tryConditionHolds ci q, tryWaitTimeout ci q, tryFenceComplete ci q]

/-- Steps of the front end: contexts, queues, kernels, gangs and graphs. -/
def State.frontSteps (s : State) : List (State → Option State) :=
  (s.ctxs.flatMap fun e => contextSteps e.1 e.2) ++
  (s.queues.flatMap fun e => if e.2.st = .disabled then [] else queueSteps (e.1 / 16) (e.1 % 16)) ++
  (s.kernels.flatMap fun e =>
    (if e.2.unplaced then
      (s.ctxs.get e.2.ctx).pairs.flatMap fun p => [2 * p, 2 * p + 1].flatMap fun k =>
        (List.range (e.2.desc.gangwg + 1)).map fun j => tryPlaceGang e.1 k j
    else []) ++ [tryCommitComplete e.1]) ++
  (s.gangs.flatMap fun e =>
    [tryGrantGang e.1, tryDrainedGang e.1] ++ (List.range 4).map fun wg => tryOverrunStop e.1 wg) ++
  (s.graphs.flatMap fun e => (e.2.ready ++ e.2.launched).flatMap fun n =>
    [tryCopyNode e.1 n, tryLaunchNode e.1 n, trySignalNode e.1 n, tryNopNode e.1 n, tryGraphNodeComplete e.1 n])

/-- Steps of barriers, the switch role, link loss and the hang detector (R313–R316, R405, R411, R413, R415). -/
def State.fabricSteps (s : State) : List (State → Option State) :=
  (s.waves.flatMap fun e => [tryBarrierTimeout e.1, tryHang e.2.id.ctx e.1]) ++
  (s.fab.outbox.flatMap fun m => match m.body with
    | .fbarArrive j i k (some t) => [tryFbarArrival j i k t]
    | .allred c => [tryAllredContribution c]
    | .mcast id => [tryMcastReplicate id]
    | _ => []) ++
  (s.fab.lines.map fun e => tryMcastAck e.1) ++
  (s.fab.fbars.map fun b => tryFbarRelease b.job b.id) ++
  (s.fab.colls.map fun c => tryAllredResult c.job c.group c.k) ++
  (s.fab.lost.map fun l => tryLinkDown l.1 l.2.1) ++
  ((s.fab.cut.toList).map fun c => tryLinkDown s.fab.pkg c.1) ++ [tryTickBoundary]

/-- The wave a side issues from next: of the next core with an eligible wave, the first eligible slot after the one that
side last issued from (R160). -/
def State.pick (s : State) (last : CoreSt → Nat) (p : Nat → Bool) : Option Nat :=
  let ws := s.waves.keys.filter p
  match rotate (coreOf s.cur) (ws.map coreOf) with
  | [] => none
  | k :: _ => (rotate (last (s.cores.get k)) ((ws.filter fun w => coreOf w == k).map (· % 32))).head?.map (32 * k + ·)

/-- A turn of the wave a side picks. -/
def State.turnOf (s : State) (last : CoreSt → Nat) (p : Nat → Bool) (turn : Nat → State → Result State) : Option State :=
  match (s.pick last p).map fun w => turn w s with
  | some (.next s') => some s'
  | _ => none

/-- What the part does of itself: a vector side, a control stream that does not wait, a unit of the memory side, of the
front end or of the fabric, a control stream that waits; the six kinds take the first place in turn. With nothing to do,
time passes. -/
def State.ownTurns (s : State) : List (State → Option State) :=
  let waits (w : Nat) : Bool := (s.waves.get w).wait != .none
  let kinds : List (List (State → Option State)) :=
    [[fun s => s.turnOf CoreSt.lastVec s.vecMay vecTurn],
      [fun s => s.turnOf CoreSt.lastCtl (fun w => s.ctlMay w && !waits w) ctlTurn],
      s.memorySteps, s.frontSteps, s.fabricSteps,
      [fun s => s.turnOf CoreSt.lastCtl (fun w => s.ctlMay w && waits w) ctlTurn]]
  let n := s.free % 6
  (kinds.drop n ++ kinds.take n).flatten

/-- What happens when the schedule is empty (log entry 5). -/
def ownStep (s : State) : Result State := .next ((firstNext s s.ownTurns).getD s)

/-- What the standby supply runs: requests of the Falja port, and its own loss (R423). -/
def Instr.onStandby : Instr → Bool
  | .read64 .. | .write64 .. | .logReq | .attest _ | .power _ | .mctpControl _ | .standbyPowerLoss => true
  | _ => false

/-- Whether the next act is one that the standby supply runs. -/
def State.onStandby (s : State) : Bool :=
  match s.sched.head? with
  | some (.ev i) => Instr.onStandby i
  | _ => false

/-- The next act: the head of the schedule, else the part's own. -/
def nextAct (s : State) : Result State :=
  match s.sched with
  | a :: r => runAct a { s with sched := r }
  | [] => ownStep s

end Sys2Proof.Machine
end

