-- ==== Sys2Proof/Machine/Step.lean ====
section
/-!
DEFINITION. One step of the machine.
-/
namespace Sys2Proof.Machine

/-- One step: the next act of the schedule, or what the part does of itself, and the time it takes. A part that has shut down
answers on the Falja port alone, from the standby supply (R423, R426). -/
def step (s : State) : Host.Outcome State Fault Refusal :=
  if s.dv.shut && !s.onStandby then .fault .shutDown else afterStep (nextAct s)

/-- `s` with one instruction placed where the next step fetches and runs it (log entry 9): a loaded program stands for
the CREATE, LAUNCH and PLACE that bring one. -/
def State.withFetchWord (s : State) (nbits w : Nat) : State := s.placed nbits w

end Sys2Proof.Machine
end

