-- ==== Sys2Proof/Safety.lean ====
section
/-!
DEFINITION. What counts as a well-formed state: the canonical forms of the memories and tables of the state. A safe run
is one that stays among these states and never stops with a fault.
-/
namespace Sys2Proof.Machine

/-- The canonical form of a memory. -/
abbrev Memory.wf (m : Mem) : Prop := Tab.wf m = true

/-- The memories and object tables of a state are in canonical form. -/
def State.wf (s : State) : Prop :=
  Memory.wf s.mem ∧ Memory.wf s.hostMem ∧ Tab.wf s.waves = true ∧ Tab.wf s.cores = true ∧ Tab.wf s.gangs = true ∧
  Tab.wf s.kernels = true ∧ Tab.wf s.ctxs = true ∧ Tab.wf s.queues = true

/-- A safe step: it neither faults nor leaves the well-formed states. -/
def safeStep (s : State) : Prop :=
  match step s with
  | .next s' => s'.wf
  | .fault _ => False
  | .refused _ => True

end Sys2Proof.Machine
end

