-- ==== Sys2Proof/Claims.lean ====
section
/-!
DEFINITION. The terms the statements are written in: when an instruction may run, what it is to have run, and what stays
as it was.
-/
namespace Sys2Proof.Claim

open Sys2Proof.Machine

/-! ### The control stream -/

/-- Control instruction `i` is at hand in the wave at work: the wave runs, no clause is broken (R72), and no register it
names is still to be written (R69, R185, R186). -/
def ctlFree (s : State) (i : Instr) : Bool :=
  decide (s.me.st = .running) && !s.me.ctl.skip && !s.me.breaksClause i && !s.me.busy i

/-- None of the stores of the core at work is still on its way to its home (R238, R243). -/
def arrived (s : State) : Bool := (s.cores.get (coreOf s.cur)).out.isEmpty

/-- The wave's queued stores are performed, and those of its core have reached their homes, where the instruction does not
begin before that (R238, R240). -/
def inOrder (s : State) (i : Instr) : Bool := !drains i || (s.me.stq.isEmpty && (!publishes i || arrived s))

/-- It may take effect now: its guards hold (R65, R67), no handler runs where R107 forbids it, and the stores it must follow
are performed. -/
def ctlReady (s : State) (i : Instr) : Bool :=
  ctlFree s i && s.me.guardTrue i && !(s.me.nest && steers i) && inOrder s i

/-- No part of the state changes but the wave at work. -/
def OnlyMe (s t : State) : Prop :=
  t = { s with waves := t.waves } ∧ ∀ w, w ≠ s.cur → t.waves.get w = s.waves.get w

/-- No part of the state changes but the wave at work and, where it acquires, what its core's L1 may still serve (R233). -/
def OnlyMeAcq (s t : State) : Prop :=
  t = { s with waves := t.waves, cores := t.cores } ∧ (∀ w, w ≠ s.cur → t.waves.get w = s.waves.get w) ∧
  ∀ c, { t.cores.get c with since := 0 } = { s.cores.get c with since := 0 }

/-- The control side stands past an instruction of `n` parcels. -/
def Past (s t : State) (n : Nat) : Prop :=
  t.me.ctl.pc = s.me.ctl.pc + u64 (4 * n) ∧ t.me.ctl.clause = (s.me.advance n false).ctl.clause

/-- Nothing of the wave at work changes but its place in the control stream, its s and c registers, what it waits for and
its list of remote accesses in flight. -/
def OnlyRegs (s t : State) : Prop :=
  t.me = { s.me with
    wait := .none
    remote := t.me.remote
    ctl := { s.me.ctl with pc := t.me.ctl.pc, clause := t.me.ctl.clause, s := t.me.ctl.s, c := t.me.ctl.c } }

/-- Every s register outside `ds` is unchanged. -/
def KeepsS (s t : State) (ds : List Nat) : Prop := ∀ n, n ∉ ds → t.me.getS n = s.me.getS n

/-- Control instruction `i` has run in the wave at work, writing no more than the s registers of `ds` (R60). -/
def CtlDone (s t : State) (i : Instr) (ds : List Nat) : Prop :=
  OnlyMe s t ∧ Past s t (parcelsOfInstr i) ∧ OnlyRegs s t ∧ t.me.ctl.c = s.me.ctl.c ∧ KeepsS s t ds

/-- Control instruction `i` has run in the wave at work, writing no more than the s registers of `ds`, and may have acquired
(R240): nothing of its vector side, of its c registers or outside the wave is changed. -/
def MeetDone (s t : State) (i : Instr) (ds : List Nat) : Prop :=
  OnlyMeAcq s t ∧ Past s t (parcelsOfInstr i) ∧ KeepsS s t ds ∧ t.me.ctl.c = s.me.ctl.c ∧ t.me.vec = s.me.vec

/-- Of the lines its core's L1 holds, the wave at work hits none that a form's order bypasses: none filled before an acquire
at `.pair` scope or wider, nor before the core's last acquire at a narrower one (R233, R240). -/
def Acquired (s t : State) (f : Form) : Prop :=
  t.me.since =
    if f.acquires then (s.cores.get (coreOf s.cur)).fills
    else if f.order = .acq ∨ f.order = .ar then (s.cores.get (coreOf s.cur)).since else s.me.since

/-- What a write leaves in an s register: s0 reads as zero (R60). -/
def kept (d : BitVec 8) (x : W64) : W64 := if d = 0 then 0 else x

/-- The source a control instruction of class A reads in place a, b or c under a type (R61, R62, R170). -/
def srcX (w : Wave) (f : Form) (t : ElemType) : Nat := w.src t (f.srcA false)
def srcY (w : Wave) (f : Form) (t : ElemType) : Nat := w.src t (f.srcB false)
def srcZ (w : Wave) (f : Form) (t : ElemType) : Nat := w.src t (f.srcC false)

/-- The result r of Table 8.2 for integers x and y of a type of w bits; none for a zero divisor (R172). -/
def integerRow : Instr → Option (Form × (Nat → Int → Int → Option Int))
  | .add f => some (f, fun _ x y => some (x + y))
  | .sub f => some (f, fun _ x y => some (x - y))
  | .mul f => some (f, fun _ x y => some (x * y))
  | .mulh f => some (f, fun w x y => some (x * y / (2 ^ w : Nat)))
  | .div f => some (f, fun _ x y => if y = 0 then none else some (x.tdiv y))
  | .rem f => some (f, fun _ x y => if y = 0 then none else some (x - y * x.tdiv y))
  | .min f => some (f, fun _ x y => some (if x ≤ y then x else y))
  | .max f => some (f, fun _ x y => some (if x ≤ y then y else x))
  | .addI64Short f => some (shortForm f .i64, fun _ x y => some (x + y))
  | .subI64Short f => some (shortForm f .i64, fun _ x y => some (x - y))
  | .minI64Short f => some (shortForm f .i64, fun _ x y => some (if x ≤ y then x else y))
  | .maxI64Short f => some (shortForm f .i64, fun _ x y => some (if x ≤ y then y else x))
  | _ => none

/-- The result of a bitwise instruction of Table 8.2 for bits x and y of a type of w bits. -/
def bitwiseRow : Instr → Option (Form × ((w : Nat) → BitVec w → BitVec w → BitVec w))
  | .bitAnd f => some (f, fun _ x y => x &&& y)
  | .bitOr f => some (f, fun _ x y => x ||| y)
  | .xor f => some (f, fun _ x y => x ^^^ y)
  | .andn f => some (f, fun _ x y => x &&& ~~~y)
  | .andB64Short f => some (shortForm f .b64, fun _ x y => x &&& y)
  | .orB64Short f => some (shortForm f .b64, fun _ x y => x ||| y)
  | .xorB64Short f => some (shortForm f .b64, fun _ x y => x ^^^ y)
  | _ => none

/-- The result of a shift of Table 8.2: x of w bits, the amount y read as n64 whatever the type (R171). -/
def shiftRow : Instr → Option (Form × ((w : Nat) → BitVec w → Nat → BitVec w))
  | .shl f => some (f, fun w x y => if w ≤ y then 0 else x <<< y)
  | .shr f => some (f, fun w x y => if w ≤ y then 0 else x >>> y)
  | .sar f => some (f, fun w x y => x.sshiftRight (min y (w - 1)))
  | .shlB64Short f => some (shortForm f .b64, fun w x y => if w ≤ y then 0 else x <<< y)
  | .shrB64Short f => some (shortForm f .b64, fun w x y => if w ≤ y then 0 else x >>> y)
  | .sarI64Short f => some (shortForm f .i64, fun w x y => x.sshiftRight (min y (w - 1)))
  | _ => none

/-- The destination and value of a move or an address form (R173, R174, R177). -/
def moveRow (w : Wave) : Instr → Option (BitVec 8 × W64)
  | .mov f => some (f.d, extend64 f.type (srcX w f f.type))
  | .ldi f => some (f.d, extend64 f.type (srcX w f f.type))
  | .movB64Short f => some (f.d, w.getS f.a.toNat)
  | .ldiHi f => some (f.d, (w.getS f.d.toNat &&& 0xFFFFFFFF#64) ||| ((f.lit?.getD 0).setWidth 64 <<< 32))
  | .lea f => some (f.d, w.getS f.a.toNat + w.getS f.b.toNat * u64 (2 ^ f.variant) + u64 (srcZ w f .i64))
  | .sel f => some (f.d, extend64 f.type (if w.getC f.c.toNat then srcX w f f.type else srcY w f f.type))
  | _ => none

/-- The destination and value of a count or a bit field (R175, R176). -/
def fieldRow (w : Wave) : Instr → Option (BitVec 8 × W64)
  | .popc f => some (f.d, u64 ((List.range 64).countP fun i => (srcX w f f.type).testBit i))
  | .clz f =>
    let x := srcX w f f.type
    some (f.d, u64 (f.type.width - (if x = 0 then 0 else Nat.log2 x + 1)))
  | .bfx f =>
    let p := min (srcY w f .n64) f.type.width
    let l := min (srcZ w f .n64) (f.type.width - p)
    let v := srcX w f f.type / 2 ^ p % 2 ^ l
    some (f.d, extend64 f.type (wrapNat f.type.width
      (if f.type.signed ∧ 0 < l ∧ 2 ^ (l - 1) ≤ v then (v : Int) - (2 ^ l : Nat) else v)))
  | .bfi f =>
    let n := f.type.width
    let p := min (srcY w f .n64) n
    let l := min (srcZ w f .n64) (n - p)
    let m := BitVec.ofNat n ((2 ^ l - 1) * 2 ^ p)
    let o := BitVec.ofNat n (w.getS f.d.toNat).toNat
    some (f.d, extend64 f.type ((o &&& ~~~m) ||| (BitVec.ofNat n (srcX w f f.type * 2 ^ p) &&& m)).toNat)
  | _ => none

/-- The state registers of Table 4.6 as the wave at work reads them (R112, R200). -/
def csrRow (s : State) : List (Nat × W64) :=
  [(0x01, u64 s.me.id.ctx), (0x02, u64 (s.kernOf s.me).desc.level),
   (0x03, u64 (s.me.id.lcore % 128 + 256 * (s.me.id.lcore / 128))), (0x04, u64 (s.cur % 32)), (0x08, s.me.trap.trapen),
   (0x09, s.me.trap.handler), (0x10, s.me.trap.cause), (0x11, s.me.trap.pc), (0x12, s.me.trap.epc),
   (0x14, s.me.trap.info0), (0x15, s.me.trap.info1), (0x16, s.me.trap.info2), (0x17, s.me.trap.info3)]

/-- The value an instruction reads from the machine: core cycles since reset, the exchange tick with its phase, a state
register (R199, R200, R404). -/
def systemRow (s : State) : Instr → Option (BitVec 8 × W64)
  | .clk f => some (f.d, u64 s.cycle)
  | .tick f => some (f.d, u64 (s.fab.tick * 2 ^ 16 + s.fab.sub))
  | .csrr f => ((csrRow s).find? fun e => e.1 == f.csr).map fun e => (f.d, e.2)
  | .nop _ | .nopShort => some (0, 0)
  | _ => none

/-- Where a control transfer goes, none where it falls through, and the s registers it writes (R179, R180). P is the
instruction's address. -/
def flowRow (w : Wave) : Instr → Option (Option W64 × List (BitVec 8 × W64))
  | .br f => some (some (w.ctl.pc + (f.lit?.getD 0).signExtend 64), [])
  | .bc f =>
    let x := valOf f.type (w.getS f.a.toNat).toNat
    let y := valOf f.type (w.getS f.b.toNat).toNat
    some (if condHolds f.cond x y then some (w.ctl.pc + (f.lit?.getD 0).signExtend 64) else none, [])
  | .call f => some (some (w.ctl.pc + (f.lit?.getD 0).signExtend 64), [(63, w.ctl.pc + 12)])
  | .ret f => if (w.getS f.a.toNat).toNat % 4 = 0 then some (some (w.getS f.a.toNat), []) else none
  | .jr f =>
    if (w.getS f.a.toNat).toNat % 4 = 0 then
      some (some (w.getS f.a.toNat), [(f.d, w.ctl.pc + u64 (4 * f.parcels))]) else none
  | .loopTo f =>
    some (if w.getS f.a.toNat - 1 ≠ 0 then some (w.ctl.pc + (f.lit?.getD 0).signExtend 64) else none,
      [(f.a, w.getS f.a.toNat - 1)])
  | _ => none

/-- The control side stands at a target with no clause open, or past the instruction where there is none (R71, R179). -/
def Goes (s t : State) (n : Nat) : Option W64 → Prop
  | some x => t.me.ctl.pc = x ∧ t.me.ctl.clause = none
  | none => Past s t n

/-! ### Tokens -/

/-- The token an instruction issues to the vector side (R161, R162, R182–R186). -/
def tokenRow (w : Wave) : Instr → Option Token
  | .vrun f => some (.vrun w.ctl.pc (w.ctl.pc + (f.lit?.getD 0).signExtend 64) ((w.getS f.a.toNat).toNat % 2 ^ 32)
      (f.b.toNat % 16) (f.optBit 3) ((List.range (f.optBits 2 0)).map fun j => w.getS (f.d.toNat + j)) w.tape.open_)
  | .mpush f => if w.ctl.depth = 255 then none else some (.mpush w.ctl.pc (f.b.toNat % 16))
  | .melse _ => if w.ctl.depth = 0 then none else some (.melse w.ctl.pc)
  | .mpop _ => if w.ctl.depth = 0 then none else some (.mpop w.ctl.pc)
  | .vany f => some (.vany w.ctl.pc (f.b.toNat % 16))
  | .vall f => some (.vall w.ctl.pc (f.b.toNat % 16))
  | .bqrd f =>
    if f.optBit 0 then some (.bqrd w.ctl.pc f.a.toNat none f.type)
    else if f.c.toNat < w.id.width then some (.bqrd w.ctl.pc f.a.toNat (some f.c.toNat) f.type) else none
  | _ => none

/-- What the answer to it will write (R185, R186). -/
def owedRow : Instr → List Owed
  | .vany f | .vall f => [.pred f.d.toNat]
  | .bqrd f => [.scalar f.d.toNat]
  | _ => []

/-- The mask-stack depth the control side counts after it (R164). -/
def depthRow (w : Wave) : Instr → Nat
  | .mpush _ => w.ctl.depth + 1
  | .mpop _ => w.ctl.depth - 1
  | _ => w.ctl.depth

/-! ### Traps, ends and meetings -/

/-- The control instruction is left behind after its effect has made `s1` of `s`. -/
def leave (s s1 : State) (i : Instr) : State :=
  (s1.endOwn s.cur false).onMe fun w => w.advance (parcelsOfInstr i) false

/-- The wave at work takes a precise trap at its control instruction (R105, R113). -/
def trapsAt (s : State) (r : Report) : State :=
  (s.endOwn s.cur false).takeTrap s.cur { r with pc := s.me.ctl.pc, vec := false, async := false } s.me.ctl.pc

/-- The core's write-combining buffer is empty, its drains are acknowledged, and it owes the wave no loss (R248). -/
def settled (s : State) : Bool :=
  (s.cores.get (coreOf s.cur)).wcb.isEmpty && !s.drainsOut (coreOf s.cur) && s.me.losses.isEmpty

/-- Nothing of the wave at work is still under way: its vector side, its pending operations, the faults it holds, its
core's buffer, its ordered adds and multicast lines (R240, R304). -/
def quiet (s : State) : Bool :=
  s.me.vecIdle && s.me.ctl.ops.isEmpty && s.me.ctl.faults.isEmpty && settled s && !s.outstanding s.cur

/-- An element's check finds device address `pa` (R255, R256, R303). -/
def objectAt (s : State) (a pa : Nat) (peer : Bool) : Prop := ∃ l, s.checkObject a peer = .ok (l, a, .dev pa)

/-- The instance of a barrier inside a gang that an instruction meets, with the mask it brings; none where `bar.m` traps
(R306, R308, R309). -/
def barRow (s : State) : Instr → Option (Nat × W64)
  | .barWg _ => some (s.me.id.member / (s.kernOf s.me).desc.wgwaves, 0)
  | .barGang _ => some (16, 0)
  | .barM f =>
    let m := s.me.getS f.a.toNat
    let b := (s.gangOf s.me).bars.get (32 + f.optBits 3 0)
    if m.getLsbD s.me.id.member && m &&& memberMask (s.gangOf s.me).waves.length == m &&
      (b.arrived.isEmpty || b.mask == m) then some (32 + f.optBits 3 0, m) else none
  | _ => none

/-- With the wave at work, every member an instance requires has arrived or exited (R307). -/
def lastToCome (s : State) (key : Nat) (mask : W64) : Bool :=
  let g := s.gangOf s.me
  (g.required (s.kernOf s.me).desc.wgwaves key mask).all fun m =>
    ((g.bars.get key).arrived ++ [s.me.id.member]).contains m || g.exited.contains m

/-- The deque operation of an instruction, and whether the deque may lie in a peer window (R322, R323). -/
def dequeRow (w : Wave) : Instr → Option (Form × Bool × DeqOp)
  | .deqPush f => some (f, false, .push ((w.getS f.b.toNat).setWidth 32))
  | .deqPushReset f => some (f, false, .reset)
  | .deqPop f => some (f, false, .pop)
  | .deqStealClaim f => some (f, true, .claim)
  | .deqStealRun f => some (f, true, .run (w.getS f.b.toNat).toNat)
  | .deqStealDone f => some (f, true, .done (w.getS f.b.toNat).toNat)
  | _ => none

/-- Tile, state, thief and expiry of slot i of a deque (R319). -/
def slotRow (s : State) (at_ : DeqAt) (i : Nat) : Nat × Nat × Nat × Nat :=
  (s.deqField at_ (64 + 16 * i) 4, s.deqField at_ (68 + 16 * i) 1, s.deqField at_ (70 + 16 * i) 2, s.deqField at_ (72 + 16 * i) 8)

/-- A deque operation has acted on slot i, if any: its row, the header's `bottom` and `done`; every other slot keeps its
row. -/
def DeqDone (s t : State) (at_ : DeqAt) (i : Option Nat) (row : Nat × Nat × Nat × Nat) (bottom done : Nat) : Prop :=
  (∀ j, i = some j → slotRow t at_ j = row) ∧ t.deqField at_ 4 4 = bottom ∧ t.deqField at_ 8 4 = done ∧
  ∀ j, j < s.deqField at_ 0 4 → i ≠ some j → slotRow t at_ j = slotRow s at_ j

/-- The eight words of a node or template at an address (R191). -/
def nodeWords (a : Nat) : List (Nat × Nat) := (List.range 8).map fun k => (0, (a + 8 * k) % 2 ^ 64)

/-- The n bytes at an address of the wave's context lie together in device memory from `pa`, readable and writable (R325,
R326). -/
def deviceAt (s : State) (va n pa : Nat) : Prop :=
  ∀ k, k < n → ∃ p e, s.walk (s.ctxOf s.me) (va + k) = .leaf (.dev (pa + k)) p e ∧ p.r = true ∧ p.w = true

/-- They do so in every state in which memory differs inside these bytes alone: no page table lies there. -/
def deviceFixed (s : State) (va n pa : Nat) : Prop :=
  ∀ m : Mem, (∀ a, a < pa ∨ pa + n ≤ a → m.get a = s.mem.get a) → deviceAt { s with mem := m } va n pa

/-- No request of the control instruction at hand has left (R402). -/
def notAsked (s : State) : Prop := ∀ r ∈ s.me.remote, ¬(r.owner = 0 ∧ r.lane = 0 ∧ r.site = s.me.ctl.pc)

/-- The answer to the request of the control instruction at hand has come. -/
def answeredBy (s : State) (a : PeerAnswer) : Prop :=
  ∃ r, s.me.remote.find? (fun r => r.owner == 0 && r.lane == 0 && r.site == s.me.ctl.pc) = some r ∧ r.answer = some a

/-- One request has left for a package, and nothing else. -/
def Sends (s t : State) (pkg pa : Nat) (op : PeerOp) : Prop :=
  ∃ r, t.fab.outbox = s.fab.outbox ++ [{ dest := pkg, tick := s.fab.tick, body := .req r }] ∧ r.pa = pa ∧ r.op = op ∧
    r.job = s.jobOf s.me

/-- No scalar access of the wave is pending (R238). -/
def scalarsDone (s : State) : Bool := !(s.me.ctl.ops.any fun o => scalarMemory o.instr)

/-- The predecessors a template names, in order (R191, R192). -/
def templatePreds (node : List Byte) : List Nat :=
  ((List.range 4).map fun k => ofBytesLE ((node.drop (8 + 2 * k)).take 2)).filter fun j => j ≠ 0xFFFF

/-! ### The vector stream -/

/-- The register of a compatibility guard (R67). -/
def guardRegs (f : Form) : List Nat :=
  match f.ext with
  | .compat g => [g.reg.toNat]
  | _ => []

/-- Registers inside the wave's allotment (R157). -/
def regsIn (s : State) (rs : List Nat) : Bool := rs.all fun r => decide (r < s.vregs s.me)

/-- Vector instruction `i` may take effect now: the wave runs a block, no register it reads awaits an acknowledgement and none
it writes a fragment operation (R270, R284), its guard register is in the allotment, the stores it must follow are
performed (R238), and no granule of the part is uncorrectable. -/
def vecReady (s : State) (i : Instr) (f : Form) : Bool :=
  decide (s.me.st = .running) && s.me.vec.block.isSome && s.dv.bad.isEmpty && regsIn s (guardRegs f) &&
  !s.ackPending (guardRegs f ++ vReads i f) && !s.me.fragHeld (vWrites i f) && inOrder s i

/-- The lanes it executes in (R65, R67, R164). -/
def active (s : State) (f : Form) : W64 := s.me.guardLanes f s.me.blockMask

/-- The vector instruction is left behind after its effect has made `s1` of `s`. -/
def vleave (s s1 : State) (i : Instr) : State := (s1.endOwn s.cur true).onMe fun w => w.vadvance (parcelsOfInstr i)

/-- The wave at work meets a precise trap at its vector instruction: it takes it at once, or, where its control slice is
not at an instruction boundary or may not issue, the trap waits there (R105, R113, R165, R264). -/
def vtrapsAt (s : State) (r : Report) : State :=
  let s1 := s.endOwn s.cur true
  let r : Report := { r with pc := s.me.vecSite, vec := true, async := false }
  if s1.mayTrap s1.cur then s1.takeTrap s1.cur r s1.me.ctl.pc
  else s1.modMe fun w => { w with vec := { w.vec with pend := some r, gather := none } }

/-- The wave at work has left a vector instruction behind: of it nothing changes but its place in the block, its v and p
registers, its rounding states, and what it keeps of remote accesses in flight; no access of it is in progress. -/
def VecPast (s t : State) (i : Instr) : Prop :=
  t.me = { s.me.vadvance (parcelsOfInstr i) with
    remote := t.me.remote
    vec := { (s.me.vadvance (parcelsOfInstr i)).vec with
      v := t.me.vec.v, p := t.me.vec.p, sr := t.me.vec.sr, access := none } }

/-- A vector instruction has run in the wave at work, and nothing else of the machine has changed. -/
def VecDone (s t : State) (i : Instr) : Prop := OnlyMe s t ∧ VecPast s t i

/-- The lanes of A hold results of type `dt` in register d, or the pair from d (R24, R202); every other lane of every
register is unchanged. -/
def LanesHold (s t : State) (dt : ElemType) (d : Nat) (A : W64) (g : Nat → Nat) : Prop :=
  ∀ l, l < 64 →
    (A.getLsbD l = true → if dt.is64 then t.me.getV64 d l = u64 (g l) else t.me.getV d l = i32 (valOf dt (g l))) ∧
    ∀ r, A.getLsbD l = false ∨ r ∉ dstRegs dt d → t.me.getV r l = s.me.getV r l

/-- What an instruction of one result a lane computes: its form, result type, source registers and value. -/
structure LaneRow where
  f    : Form
  dt   : ElemType
  srcs : List Nat
  val  : Wave → Nat → Nat

/-- The sources of a lane as integers of the type, and b and c as n32 (R201, R214). -/
def laneX (f : Form) (w : Wave) (l : Nat) : Int := valOf f.type (w.vsrc f.type l (f.srcA true))
def laneY (f : Form) (w : Wave) (l : Nat) : Int := valOf f.type (w.vsrc f.type l (f.srcB true))
def laneZ (f : Form) (w : Wave) (l : Nat) : Int := valOf f.type (w.vsrc f.type l (f.srcC true))
def laneN (f : Form) (w : Wave) (l : Nat) : Nat := w.vsrc .n32 l (f.srcB true)
def laneL (f : Form) (w : Wave) (l : Nat) : Nat := w.vsrc .n32 l (f.srcC true)

/-- A row of two typed sources. -/
def intRow2 (f : Form) (op : Int → Int → Int) : LaneRow :=
  ⟨f, f.type, formRegs2 f f.type, fun w l => reduce f.type f.sat (op (laneX f w l) (laneY f w l))⟩

/-- A row of a bitwise operation. -/
def bitRow2 (f : Form) (op : (n : Nat) → BitVec n → BitVec n → BitVec n) : LaneRow :=
  ⟨f, f.type, formRegs2 f f.type, fun w l =>
    (op f.type.width (BitVec.ofNat _ (w.vsrc f.type l (f.srcA true))) (BitVec.ofNat _ (w.vsrc f.type l (f.srcB true)))).toNat⟩

/-- A row of a shift, whose amount is read as n32 whatever the type. -/
def shiftRow2 (f : Form) (op : (n : Nat) → BitVec n → Nat → BitVec n) : LaneRow :=
  ⟨f, f.type, formRegs1 f f.type ++ srcRegs .n32 (f.srcB true), fun w l =>
    (op f.type.width (BitVec.ofNat _ (w.vsrc f.type l (f.srcA true))) (laneN f w l)).toNat⟩

/-- The integer instructions of one result a lane (R214, R215; Table 9.4). -/
def intLaneRow : Instr → Option LaneRow
  | .iadd f => some (intRow2 f (· + ·))
  | .isub f => some (intRow2 f (· - ·))
  | .imul f => some (intRow2 f (· * ·))
  | .imulh f => some (intRow2 f fun x y => x * y / (2 ^ f.type.width : Nat))
  | .imin f => some (intRow2 f fun x y => if x ≤ y then x else y)
  | .imax f => some (intRow2 f fun x y => if x ≤ y then y else x)
  | .imad f => some ⟨f, f.type, formRegs3 f f.type, fun w l =>
      reduce f.type f.sat (laneX f w l * laneY f w l + laneZ f w l)⟩
  | .iabs f => some ⟨f, f.type, formRegs1 f f.type, fun w l => reduce f.type f.sat (laneX f w l).natAbs⟩
  | .iaddI32Short f => some (intRow2 (shortForm f .i32) (· + ·))
  | .isubI32Short f => some (intRow2 (shortForm f .i32) (· - ·))
  | .imulI32Short f => some (intRow2 (shortForm f .i32) (· * ·))
  | _ => none

/-- The bit instructions of one result a lane (R214, R215; Table 9.4). -/
def bitLaneRow : Instr → Option LaneRow
  | .iand f => some (bitRow2 f fun _ x y => x &&& y)
  | .ior f => some (bitRow2 f fun _ x y => x ||| y)
  | .ixor f => some (bitRow2 f fun _ x y => x ^^^ y)
  | .iandB32Short f => some (bitRow2 (shortForm f .b32) fun _ x y => x &&& y)
  | .iorB32Short f => some (bitRow2 (shortForm f .b32) fun _ x y => x ||| y)
  | .ixorB32Short f => some (bitRow2 (shortForm f .b32) fun _ x y => x ^^^ y)
  | .ishl f => some (shiftRow2 f fun n x y => if n ≤ y then 0 else x <<< y)
  | .ishr f => some (shiftRow2 f fun n x y => if n ≤ y then 0 else x >>> y)
  | .isar f => some (shiftRow2 f fun n x y => x.sshiftRight (min y (n - 1)))
  | .ishlB32Short f => some (shiftRow2 (shortForm f .b32) fun n x y => if n ≤ y then 0 else x <<< y)
  | .ishrB32Short f => some (shiftRow2 (shortForm f .b32) fun n x y => if n ≤ y then 0 else x >>> y)
  | .isarI32Short f => some (shiftRow2 (shortForm f .i32) fun n x y => x.sshiftRight (min y (n - 1)))
  | .movB32Short f => some ⟨shortForm f .b32, .b32, [f.a.toNat], fun w l => (w.getV f.a.toNat l).toNat⟩
  | .movV f => some ⟨f, f.type, formRegs1 f f.type, fun w l => w.vsrc f.type l (f.srcA true)⟩
  | .movk f => some ⟨f, f.type, [], fun w _ =>
      if f.type.is64 then (w.vec.k.get f.a.toNat).toNat
      else ((w.vec.k.get f.a.toNat).extractLsb' (32 * f.variant) 32).toNat⟩
  | .ipopc f => some ⟨f, .n32, formRegs1 f f.type, fun w l =>
      (List.range 64).countP fun i => (w.vsrc f.type l (f.srcA true)).testBit i⟩
  | .iclz f => some ⟨f, .n32, formRegs1 f f.type, fun w l =>
      let x := w.vsrc f.type l (f.srcA true)
      f.type.width - (if x = 0 then 0 else Nat.log2 x + 1)⟩
  | .ibfx f => some ⟨f, f.type, formRegs1 f f.type ++ srcRegs .n32 (f.srcB true) ++ srcRegs .n32 (f.srcC true), fun w l =>
      let p := min (laneN f w l) f.type.width
      let n := min (laneL f w l) (f.type.width - p)
      let v := w.vsrc f.type l (f.srcA true) / 2 ^ p % 2 ^ n
      wrapNat f.type.width (if f.type.signed ∧ 0 < n ∧ 2 ^ (n - 1) ≤ v then (v : Int) - (2 ^ n : Nat) else v)⟩
  | .ibfi f => some ⟨f, f.type, formRegs1 f f.type ++ srcRegs .n32 (f.srcB true) ++ srcRegs .n32 (f.srcC true), fun w l =>
      let p := min (laneN f w l) f.type.width
      let n := min (laneL f w l) (f.type.width - p)
      let m := BitVec.ofNat f.type.width ((2 ^ n - 1) * 2 ^ p)
      let o := BitVec.ofNat f.type.width (w.vsrc f.type l (.reg f.d.toNat))
      ((o &&& ~~~m) ||| (BitVec.ofNat f.type.width (w.vsrc f.type l (f.srcA true) * 2 ^ p) &&& m)).toNat⟩
  | .fclass f => some ⟨f, .n32, formRegs1 f f.type, fun w l => (fmtOf f.type).classOf (w.vsrc f.type l (f.srcA true))⟩
  | .fsel f => some ⟨f, f.type, formRegs2 f f.type, fun w l =>
      if (w.getP f.c.toNat).getLsbD l then w.vsrc f.type l (f.srcA true) else w.vsrc f.type l (f.srcB true)⟩
  | _ => none

/-- The sources of a lane as values of the floating type (R207). -/
def floatX (f : Form) (w : Wave) (l : Nat) : FV := (fmtOf f.type).decode (w.vsrc f.type l (f.srcA true))
def floatY (f : Form) (w : Wave) (l : Nat) : FV := (fmtOf f.type).decode (w.vsrc f.type l (f.srcB true))
def floatZ (f : Form) (w : Wave) (l : Nat) : FV := (fmtOf f.type).decode (w.vsrc f.type l (f.srcC true))

/-- One rounding of an exact result to the type in the form's mode (R207). -/
def roundOnce (f : Form) (x : FV) : Nat := (fmtOf f.type).encode { mode := f.rounding } false x

def floatRow2 (f : Form) (op : FV → FV → FV) : LaneRow :=
  ⟨f, f.type, formRegs2 f f.type, fun w l => roundOnce f (op (floatX f w l) (floatY f w l))⟩

/-- A function of f32: the source widened, the function, one rounding back to the type (R208). -/
def viaRow (f : Form) (fn : W32 → W32) : LaneRow :=
  ⟨f, f.type, formRegs1 f f.type, fun w l => (fmtOf f.type).viaF32 fn (w.vsrc f.type l (f.srcA true))⟩

/-- The floating instructions of one result a lane (R207–R209). -/
def floatLaneRow : Instr → Option LaneRow
  | .fadd f => some (floatRow2 f (FV.add (f.rounding == .rd)))
  | .fsub f => some (floatRow2 f fun x y => x.add (f.rounding == .rd) y.neg)
  | .fmul f => some (floatRow2 f FV.mul)
  | .fma f => some ⟨f, f.type, formRegs3 f f.type, fun w l =>
      roundOnce f (((floatX f w l).mul (floatY f w l)).add (f.rounding == .rd) (floatZ f w l))⟩
  | .fmin f => some (floatRow2 f fvMin)
  | .fmax f => some (floatRow2 f fvMax)
  | .fdiv f => some (floatRow2 f FV.div)
  | .fsqrt f => some ⟨f, f.type, formRegs1 f f.type, fun w l => roundOnce f (floatX f w l).sqrt⟩
  | .frcp f => some (viaRow f f32Rcp)
  | .frsq f => some (viaRow f f32Rsq)
  | .exp2 f => some (viaRow f f32Exp2)
  | .log2 f => some (viaRow f f32Log2)
  | .sinpi f => some (viaRow f f32Sinpi)
  | .cospi f => some (viaRow f f32Cospi)
  | .faddF32Short f => some (floatRow2 (shortForm f .f32) (FV.add false))
  | .fsubF32Short f => some (floatRow2 (shortForm f .f32) fun x y => x.add false y.neg)
  | .fmulF32Short f => some (floatRow2 (shortForm f .f32) FV.mul)
  | .fminF32Short f => some (floatRow2 (shortForm f .f32) fvMin)
  | .fmaxF32Short f => some (floatRow2 (shortForm f .f32) fvMax)
  | _ => none

/-- NONFINITE is off, or every active lane's result is finite (R48). -/
def finiteOk (s : State) (t : ElemType) (A : W64) (g : Nat → Nat) : Bool :=
  !s.me.trap.trapen.getLsbD 0 || (lanesOf A).all fun l => !(fmtOf t).nonFinite (g l)

/-- Lane j of the chosen ones, counted from 0 (R224). -/
def chosenAt (S : W64) (j : Nat) : Nat := ((lanesOf S)[j]?).getD 0

/-- Of a lane-moving instruction: its form, result type, source registers, the lanes it writes and what each gets; none
where its operand is not lane-uniform (R222–R226). -/
def laneMove (s : State) : Instr → Option (Form × ElemType × List Nat × W64 × (Nat → Nat))
  | .laneRank f =>
    let A := active s f
    let S := A &&& s.me.getP f.b.toNat
    some (f, .n32, [], A, fun l => (lanesOf S).countP fun j => decide (j < l))
  | .perm f => some (f, f.type, formRegs1 f f.type ++ srcRegs .n32 (f.srcB true), active s f, fun l =>
      s.me.vsrc f.type (laneN f s.me l % s.me.id.width) (f.srcA true))
  | .bcast f =>
    let A := active s f
    if maskWhere A (fun l => laneN f s.me l == laneN f s.me (lowest A)) = A then
      some (f, f.type, formRegs1 f f.type ++ srcRegs .n32 (f.srcB true), A, fun _ =>
        s.me.vsrc f.type (laneN f s.me (lowest A) % s.me.id.width) (f.srcA true))
    else none
  | .compress f =>
    let S := active s f &&& s.me.getP f.b.toNat
    some (f, f.type, formRegs1 f f.type, u64 (2 ^ (lanesOf S).length - 1), fun l =>
      s.me.vsrc f.type (chosenAt S l) (f.srcA true))
  | .expand f =>
    let S := active s f &&& s.me.getP f.b.toNat
    some (f, f.type, formRegs1 f f.type, S, fun l =>
      s.me.vsrc f.type ((lanesOf S).countP fun j => decide (j < l)) (f.srcA true))
  | .slideup f =>
    let A := active s f
    let n := laneN f s.me (lowest A)
    if maskWhere A (fun l => laneN f s.me l == n) = A then
      some (f, f.type, formRegs1 f f.type ++ srcRegs .n32 (f.srcB true), maskWhere A fun l => decide (n ≤ l), fun l =>
        s.me.vsrc f.type (l - n) (f.srcA true))
    else none
  | .slidedn f =>
    let A := active s f
    let n := laneN f s.me (lowest A)
    if maskWhere A (fun l => laneN f s.me l == n) = A then
      some (f, f.type, formRegs1 f f.type ++ srcRegs .n32 (f.srcB true),
        maskWhere A fun l => decide (l + n < s.me.id.width), fun l => s.me.vsrc f.type (l + n) (f.srcA true))
    else none
  | .matchLanes f =>
    let A := active s f
    let key (l : Nat) : Nat := s.me.vsrc f.type l (f.srcA true)
    some (f, .b64, formRegs1 f f.type, A, fun l => (maskWhere A fun j => key j == key l).toNat)
  | .ballot f => some (f, .b64, [], active s f, fun _ => (active s f &&& s.me.getP f.b.toNat).toNat)
  | _ => none

/-! ### Tokens taken -/

/-- The vector side may take the token at the head of its queue (R161). -/
def tokenFree (w : Wave) : Bool := w.vec.block.isNone && w.vec.gather.isNone

/-- The lanes a request asks (R181, R185). -/
def asked (w : Wave) : W64 := w.act &&& w.sermask

/-- The head token is taken, counted as done, and leaves the vector side as `v`. -/
def tokenTaken (w : Wave) (rest : List Token) (v : Vec) : Wave :=
  { w with ctl := { w.ctl with queue := rest }, taken := w.taken + 1, vec := v }

/-! ### Long-latency instructions -/

/-- What a long-latency operation issued now acts with (R69, R281). -/
def opAt (s : State) (i : Instr) (f : Form) : OpCtx :=
  { wi := s.cur, uid := s.uid + 1, site := s.me.ctl.pc, i, f, caps := s.me.caps i f, mark := s.me.issued }

/-- It may issue: a scalar access at once, an operation of an engine as a release, with the wave's stores, scalar accesses,
ordered adds and multicast lines performed, and the core's stores at their homes (R238, R244). -/
def mayIssueOp (s : State) (i : Instr) : Bool :=
  scalarMemory i ||
    (s.me.stq.isEmpty && arrived s && !(s.me.ctl.ops.any fun o => scalarMemory o.instr) && !s.outstanding s.cur)

/-- What its checks leave as it issues: what it acts with, and the state; or how they stop it. -/
def started (s : State) (op : LongOp) (i : Instr) (f : Form) : Eff (OpCtx × State) :=
  op.start (opAt s i f) { s with uid := s.uid + 1 }

/-- Its ranges may enter the range-lock table: none in force bars them, and nobody of the context waits first (R245). -/
def unlocked (s : State) (op : LongOp) (c : OpCtx) : Bool :=
  s.lockTurn (lockAsker s.cur false) s.me.id.ctx (op.locks c s)

/-- It takes no flag from its clause and has not begun: no operation of it is recorded, no request of it has left (R69). -/
def unflagged (s : State) : Bool :=
  decide (12 ≤ s.me.setFlagOf) && !(s.me.ctl.ops.any fun o => o.flag == 15 && o.site == s.me.ctl.pc) &&
  (s.askedAt s.cur (s.uid + 1) 0).isNone

/-- The control side stands past a long-latency instruction of `n` parcels. -/
def PastLong (s t : State) (n : Nat) : Prop :=
  t.me.ctl.pc = s.me.ctl.pc + u64 (4 * n) ∧ t.me.ctl.clause = (s.me.advance n true).ctl.clause

/-! ### Memory -/

/-- The three memories an access reaches in this package and its host (R231, R232). -/
inductive Space where
  | loc | dev | host
  deriving DecidableEq, Repr

/-- A byte of one of them. -/
def byteIn (s : State) (sp : Space) (a : Nat) : Byte :=
  match sp with
  | .loc => s.readLocalByte s.cur a
  | .dev => s.mem.get a
  | .host => s.hostMem.get a

/-- Where an element lies; none for a peer's memory. -/
def homeIn (loc : Bool) (e : Element) : Option (Space × Nat) :=
  if loc then some (.loc, e.2.1)
  else
    match e.2.2 with
    | .dev pa => some (.dev, pa)
    | .host pa => some (.host, pa)
    | .peer _ _ => none

/-- The n-byte number an element holds. -/
def heldAt (loc : Bool) (n : Nat) (m : Space → Nat → Byte) (e : Element) : Nat :=
  match homeIn loc e with
  | some (sp, b) => ofBytesLE ((List.range n).map fun i => m sp (b + i))
  | none => 0

/-- The byte an element's store of a value leaves at an address, if it covers it. -/
def byteOfStore (loc : Bool) (n : Nat) (sp : Space) (a : Nat) (e : Element × Nat) : Option Byte :=
  match homeIn loc e.1 with
  | some (sp', b) =>
    if sp' = sp ∧ b ≤ a ∧ a < b + n then some (BitVec.ofNat 8 (e.2 / 256 ^ (a - b))) else none
  | none => none

/-- Memory after the stores of some elements in order: the last that covers a byte supplies it; every other byte is
unchanged. -/
def Stored (s t : State) (loc : Bool) (n : Nat) (es : List (Element × Nat)) : Prop :=
  ∀ sp a, byteIn t sp a = ((es.reverse.findSome? (byteOfStore loc n sp a)).getD (byteIn s sp a))

/-- No byte of any memory is changed. -/
def KeepsMemory (s t : State) : Prop := Stored s t false 0 []

/-- The atomics of some elements, one after another: the old value of each lane, and memory after (R266). -/
def atomRun (op : AtomOp) (t : ElemType) (loc : Bool) (xy : Nat → Nat × Nat) :
    List Element → (Space → Nat → Byte) → (Nat → Nat) × (Space → Nat → Byte)
  | [], m => (fun _ => 0, m)
  | e :: r, m =>
    let old := heldAt loc t.bytes m e
    let new := atomNew op t old (xy e.1).1 (xy e.1).2
    let (g, m') := atomRun op t loc xy r fun sp a => (byteOfStore loc t.bytes sp a (e, new)).getD (m sp a)
    (fun l => if l = e.1 then old else g l, m')

/-- The operation of a scalar or vector atomic instruction (R197, R265). -/
def satomRow : Instr → Option (Form × AtomOp)
  | .satomAdd f => some (f, .add)
  | .satomMin f => some (f, .min)
  | .satomMax f => some (f, .max)
  | .satomAnd f => some (f, .and)
  | .satomOr f => some (f, .or)
  | .satomXor f => some (f, .xor)
  | .satomXchg f => some (f, .xchg)
  | .satomCas f => some (f, .cas)
  | .satomInc f => some (f, .inc)
  | _ => none
def atomRow : Instr → Option (Form × AtomOp)
  | .atomAdd f => some (f, .add)
  | .atomMin f => some (f, .min)
  | .atomMax f => some (f, .max)
  | .atomAnd f => some (f, .and)
  | .atomOr f => some (f, .or)
  | .atomXor f => some (f, .xor)
  | .atomXchg f => some (f, .xchg)
  | .atomCas f => some (f, .cas)
  | .atomInc f => some (f, .inc)
  | _ => none

/-- The members of the wave's gang are distinct slots, so that no two offsets of local space are one byte (R156). -/
def membersDistinct (s : State) : Prop := (s.gangOf s.me).waves.Nodup

/-- What must be performed before an access of a form is issued: nothing unless it releases; then the wave's own accesses
(R257), and the core's buffer where R248 has it drain. -/
def orderReady (s : State) (loc : Bool) (f : Form) (els : List Element) : Bool :=
  (!f.releases || !s.outstanding s.cur) &&
  (loc || settled s || (!fabRelease f && !(f.releases && els.any Element.isPeer)))

/-- The stores of a form enter the wave's queue: they are relaxed, and something keeps them there (R238). -/
def keepsStores (s : State) (f : Form) : Bool := !f.releases && (s.me.keep || !s.me.stq.isEmpty)

/-- They are performed at their homes as the instruction executes, and no other of the core with them (R238, R243). -/
def storesNow (s : State) (f : Form) (loc : Bool) : Bool :=
  !keepsStores s f && (loc || (arrived s && (f.releases || !(s.cores.get (coreOf s.cur)).slow)))

/-- They leave the queue at once and are on their way: the core's waves see them, their homes do not yet (R20, R238). -/
def storesLater (s : State) (f : Form) (loc : Bool) : Bool :=
  !keepsStores s f && !loc && !f.releases && (s.cores.get (coreOf s.cur)).slow

/-- The stores of some elements by instruction number `grp`, as they stand in a queue (R238). -/
def queued (s : State) (loc : Bool) (n grp : Nat) (es : List (Element × Nat)) : List QStore :=
  es.map fun e => { loc, off := e.1.2.1, t := e.1.2.2, n, v := e.2, stamp := s.epoch, grp }

/-- Where the bytes of a store into a peer window are, once it is performed: in the core's write-combining buffer; on their
way to the peer; or lost, the wave owing the loss (R248, R259, R263). -/
def PeerBytes (s t : State) (pkg pa n v : Nat) : Prop :=
  (∀ k, k < n → (pa + k, BitVec.ofNat 8 (v / 256 ^ k)) ∈ t.wcbBytes (coreOf s.cur) pkg pa n) ∨
  (∃ m ∈ t.fab.outbox.drop s.fab.outbox.length, ∃ r cells, m.dest = pkg ∧ m.body = .req r ∧ r.op = .store cells ∧
    ∀ k, k < n → (pa + k, BitVec.ofNat 8 (v / 256 ^ k)) ∈ cells) ∨
  (s.routed pkg = false ∧ ∃ x ∈ t.me.losses, x.peer = pkg ∧ x.line = u64 (pa / 256 * 256))

/-- A core holds no L1 line that the wave could hit, no store of it is on its way, and its wave has no queued store it could
meet (R233, R238). -/
def readsHome (s : State) : Bool := (s.cores.get (coreOf s.cur)).l1.isEmpty && arrived s && s.me.stq.isEmpty

/-- A load may fill lines of its core's L1, and an acquire end the wave's use of those filled before; nothing else of the
machine has changed but the wave at work (R233). -/
def LoadDone (s t : State) (i : Instr) : Prop :=
  t = { s with waves := t.waves, cores := t.cores } ∧ (∀ w, w ≠ s.cur → t.waves.get w = s.waves.get w) ∧
  (∀ c, { t.cores.get c with l1 := [], fills := 0, since := 0 } = { s.cores.get c with l1 := [], fills := 0, since := 0 }) ∧
  VecPast (s.modMe fun w => { w with since := t.me.since }) t i

/-- What an access of a form must find performed so that it changes and reads what it names alone: the wave's queued stores
before one with an order, and the core's stores on their way before one that goes past the L1 or makes them visible (R238,
R240, R243). -/
def inTurn (s : State) (loc home : Bool) (f : Form) : Bool :=
  (f.order == .rlx || s.me.stq.isEmpty) && ((!f.publishes && (loc || !home)) || arrived s)

/-- The scalar access whose instruction stands at the pc without a flag is recorded, its request has been answered, and no
earlier one of the wave is pending (R69, R238, R402). -/
def ScalarAnswered (s : State) (o : PendingOp) (i : Instr) (pkg pa : Nat) (v : W64) : Prop :=
  s.me.ctl.ops.find? (fun x => x.flag == 15 && x.site == s.me.ctl.pc) = some o ∧ o.instr = i ∧ o.uid ≠ 0 ∧
  (∀ x ∈ s.me.ctl.ops, x.uid < o.uid → scalarMemory x.instr = false) ∧
  ∃ r, s.me.remote.find? (fun r => r.owner == o.uid && r.lane == 0 && r.site == 0) = some r ∧ r.pkg = pkg ∧ r.pa = pa ∧
    r.answer = some (.value v)

/-- A vector instruction has left the wave's registers, predicates and control side as they were, and moved on. -/
def VecKeeps (s t : State) (i : Instr) : Prop :=
  t.me.vec = { (s.me.vadvance (parcelsOfInstr i)).vec with access := none } ∧ t.me.ctl = s.me.ctl ∧
  ∀ w, w ≠ s.cur → (t.waves.get w).vec = (s.waves.get w).vec

/-! ### Tiles, tape, render units -/

/-- Entry q of a physical tile of a core (R275). -/
def entryOf (s : State) (core tile q : Nat) : W48 := (s.cores.get core).entries.get (1024 * tile + q)

/-- No entry of the core changes outside a tile, and no other core's. -/
def KeepsTiles (s t : State) (core tile : Nat) : Prop :=
  (∀ k, k < 1024 * tile ∨ 1024 * tile + 1024 ≤ k → (t.cores.get core).entries.get k = (s.cores.get core).entries.get k) ∧
  ∀ c, c ≠ core → t.cores.get c = s.cores.get c

/-- The rational number a finite value is. -/
def ratOf : FV → Option ℚ
  | .fin n m e => some ((if n then -1 else 1) * (m : ℚ) * (2 : ℚ) ^ e)
  | _ => none

/-- x is round_ax48(v, sticky) (R31, R33): the nearest AX48 value, a tie going to the larger magnitude under a set sticky bit
and else to the even fraction; infinity from (2 − 2⁻⁴⁰)·2¹²⁷ on. -/
def RoundsAx48 (v : ℚ) (sticky : Bool) (x : Nat) : Prop :=
  if (2 - 1 / 2 ^ 40) * 2 ^ 127 ≤ |v| then ax x = .inf (decide (v < 0))
  else ∃ y, ratOf (ax x) = some y ∧ ∀ x' y', ratOf (ax x') = some y' →
    |v - y| ≤ |v - y'| ∧ (y' ≠ y → |v - y'| = |v - y| → if sticky then |y'| < |y| else x % 2 = 0)

/-- r is the AX48 sum of two entries (R33). -/
def AddsAx48 (z b r : Nat) : Prop :=
  match ax z, ax b with
  | .nan, _ => ax r = .nan
  | _, .nan => ax r = .nan
  | .inf m, .inf n => ax r = if m = n then .inf m else .nan
  | .inf m, _ => ax r = .inf m
  | _, .inf n => ax r = .inf n
  | x, y => ∀ p q, ratOf x = some p → ratOf y = some q → RoundsAx48 (p + q) false r

/-- A rational number as a whole number, toward zero. -/
def towardZero (q : ℚ) : ℤ := if 0 ≤ q then ⌊q⌋ else ⌈q⌉

/-- b is the block sum of R37 over finite products: each is cut toward zero in units of 2⁻⁴⁷ of the largest one's power of
two, the cut terms are summed exactly, and the sum is rounded once, a lost bit setting the sticky bit. -/
def BlockSums (ps : List ℚ) (b : Nat) : Prop :=
  ((∀ p ∈ ps, p = 0) → ratOf (ax b) = some 0) ∧
  ∀ E : ℤ, (∀ p ∈ ps, |p| < 2 ^ (E + 1)) → (∃ p ∈ ps, (2 : ℚ) ^ E ≤ |p|) →
    let ulp : ℚ := 2 ^ (E - 47)
    let cut (p : ℚ) : ℤ := towardZero (p / ulp)
    RoundsAx48 ((ps.map cut).sum * ulp) (ps.any fun p => decide ((cut p : ℚ) * ulp ≠ p)) b

/-- One product's update of a cell under a semiring, for finite values (R41). -/
def SemiStep (sem : Nat) (acc new : Nat) (a b : ℚ) : Prop :=
  ∀ z, ratOf (ax acc) = some z →
    if sem = 2 then ratOf (ax new) = some (if z ≠ 0 ∨ (a ≠ 0 ∧ b ≠ 0) then 1 else 0)
    else ∃ x, RoundsAx48 (if sem = 0 then a + b else a * b) false x ∧
      ((∃ n, ax x = .inf n ∧ ax new = if (sem = 0 ∧ n = true) ∨ (sem ≠ 0 ∧ n = false) then .inf n else ax acc) ∨
       ∃ v, ratOf (ax x) = some v ∧
         ratOf (ax new) = some (if sem = 0 then (if v < z then v else z) else (if z < v then v else z)))

/-- Consecutive registers from d up hold each active lane's words; every other lane and register is unchanged. -/
def RegsHold (s t : State) (d : Nat) (A : W64) (words : Nat → List Nat) : Prop :=
  ∀ l, l < 64 →
    (A.getLsbD l = true → ∀ k x, (words l)[k]? = some x → t.me.getV (d + k) l = u32 x) ∧
    ∀ r, A.getLsbD l = false ∨ r < d ∨ d + (words l).length ≤ r → t.me.getV r l = s.me.getV r l

/-- NONFINITE is off, or every word of every active lane is finite (R48, R366). -/
def wordsFinite (s : State) (A : W64) (words : Nat → List Nat) : Bool :=
  !s.nfOn || (lanesOf A).all fun l => (words l).all fun x => !fmtF32.nonFinite x

/-- A predicate holds `x` in the lanes of A; every other lane and predicate is unchanged (R60). -/
def PredHolds (s t : State) (q : Nat) (A x : W64) : Prop :=
  ∀ n, t.me.getP n = if n = q ∧ n ≠ 0 then (s.me.getP n &&& ~~~A) ||| (x &&& A) else s.me.getP n

/-- A record of the open span has been appended last (R348, R361). -/
def Recorded (t : Tape) (kind W n : Nat) (words : List W64) : Prop :=
  ∃ x r, t.top = some x ∧ x.records.getLast? = some r ∧ r.kind = kind ∧ r.words = words ∧ r.bytes = recordSize W n words

/-! ### Steps without an encoding -/

/-- Nothing changes but one context slot; one queue; the fabric side; the device side. -/
def OnlyCtx (s t : State) (ci : Nat) : Prop :=
  t = { s with ctxs := t.ctxs } ∧ ∀ x, x ≠ ci → t.ctxs.get x = s.ctxs.get x
def OnlyQueue (s t : State) (qi : Nat) : Prop :=
  t = { s with queues := t.queues } ∧ ∀ x, x ≠ qi → t.queues.get x = s.queues.get x
def OnlyFab (s t : State) : Prop := t = { s with fab := t.fab }
def OnlyDevice (s t : State) : Prop := t = { s with dv := t.dv }

/-- A queue under the hold of its context, and when the hold ends (R122). -/
def heldQueue (q : Queue) : Queue :=
  match q.st with
  | .idle | .active | .waiting => { q with st := .held, prior := q.st }
  | _ => q
def freedQueue (q : Queue) : Queue := if q.st = .held then { q with st := q.prior } else q

/-- Every queue of a context after a change; every other queue unchanged. -/
def QueuesOf (s t : State) (ci : Nat) (f : Queue → Queue) : Prop :=
  ∀ x, t.queues.get x = if 16 * ci ≤ x ∧ x < 16 * ci + 16 then f (s.queues.get x) else s.queues.get x

/-- The context a command names and the states that accept it (Table 4.2). -/
def commandRow : Instr → Option (Nat × List CtxSt)
  | .create ci _ => some (ci, [.empty])
  | .suspend ci | .suspendRelease ci => some (ci, [.ready, .running])
  | .resume ci _ => some (ci, [.suspended])
  | .releaseCtx ci => some (ci, [.halted])
  | .destroy ci => some (ci, [.ready, .suspended, .halted])
  | _ => none

/-- No kernel of a context goes on: one that has not ended aborts, as its pending operations complete (R126, R155). -/
def KernelsEnd (t : State) (ci : Nat) : Prop :=
  ∀ k, (t.kernels.get k).ctx = ci → (t.kernels.get k).st ∈ [KernSt.absent, .complete, .aborting, .aborted]

/-- The context has halted on an event (Table 4.2, R109). -/
def Halts (t : State) (ci code : Nat) : Prop :=
  (t.ctxs.get ci).st = .halted ∧ (t.ctxs.get ci).busy = false ∧ (t.ctxs.get ci).save = none ∧
  (t.ctxs.get ci).evcode = code ∧ (t.ctxs.get ci).evpend = true ∧ KernelsEnd t ci ∧
  ∀ j, j < 16 → (t.queues.get (16 * ci + j)).st ∉ [QueueSt.idle, .active, .waiting]

/-- The event record of a context in device memory (R109). -/
def EventRecorded (s t : State) (ci code pair i0 : Nat) : Prop :=
  ∀ pa, s.sysTarget (s.ctxs.get ci).evrec.toNat = some (.dev pa) →
    t.mem.readNat pa 1 = code % 256 ∧ t.mem.readNat (pa + 2) 2 = pair % 2 ^ 16 ∧
    t.mem.readNat (pa + 8) 8 = s.fab.tick % 2 ^ 64 ∧ t.mem.readNat (pa + 16) 8 = i0 % 2 ^ 64

/-- What a restored wave holds of the saved one: all but its place and its clocks (R103). -/
def RestoredWave (a b : Wave) : Prop :=
  b.st = a.st ∧ b.id = a.id ∧ b.ctl = a.ctl ∧ b.vec = a.vec ∧ b.trap = a.trap ∧ b.tape = a.tape ∧ b.prol = a.prol ∧
  b.scratch = a.scratch ∧ b.tiles = a.tiles

/-! ### Queues -/

/-- A queue whose head packet has been consumed as packet n (R125, R126). -/
def begunQueue (q : Queue) (l : Line) (n : Nat) : Queue :=
  { q with
    headseq := q.headseq + 1
    head := if l.next = 0 then q.head + 0x100 else l.next
    line := none
    since := 0
    st := if q.headseq + 1 < q.seen then .active else .idle
    packets := (q.packets.filter fun p => !p.done) ++
      [{ seq := n, type := l.type, done := false, counted := decide (l.type ≤ 2), cmpl := l.cmpl.toNat }] }

/-- The packet has been consumed as packet n and has completed. -/
def PacketDone (s t : State) (qi n : Nat) : Prop :=
  (t.queues.get qi).headseq = (s.queues.get qi).headseq + 1 ∧ ∃ p ∈ (t.queues.get qi).packets, p.seq = n ∧ p.done = true

/-- The step that starts the head packet of an Active queue by its type. -/
def PacketStep (ctx q type : Nat) : Instr → Prop
  | .launchPkt c k => type = 1 ∧ c = ctx ∧ k = q
  | .graphPkt c k => type = 2 ∧ c = ctx ∧ k = q
  | .signalPkt c k => type = 3 ∧ c = ctx ∧ k = q
  | .waitPkt c k => type = 4 ∧ c = ctx ∧ k = q
  | .fencePkt c k => type = 5 ∧ c = ctx ∧ k = q
  | .levelPkt c k => type = 6 ∧ c = ctx ∧ k = q
  | _ => False

/-- A kernel just admitted (R126, R135). -/
def admittedKernel (ctx : Nat) (src : Source) (d : KDesc) (l : Launch) (prio age : Nat) : Kernel :=
  { (default : Kernel) with st := .admitted, ctx, source := src, desc := d, launch := l, prio, age }

/-- Memory holds an n-byte number at an address and is otherwise unchanged. -/
def WordSet (m m' : Mem) (a n v : Nat) : Prop :=
  m'.readNat a n = v % 256 ^ n ∧ ∀ b, b < a ∨ a + n ≤ b → m'.get b = m.get b

/-! ### Gangs and graphs -/

/-- A wave at its entry (R36, R141–R144, R151, R167): member m of the gang the kernel places next. -/
def StartsAs (w : Wave) (kid gid : Nat) (k : Kernel) (m : Nat) : Prop :=
  let d := k.desc
  let l := k.launch
  let task := k.placed * d.gangwg + m / d.wgwaves
  let wv := m % d.wgwaves
  w.st = .running ∧ w.id.ctx = k.ctx ∧ w.id.kern = kid ∧ w.id.gang = gid ∧ w.id.member = m ∧ w.id.task = task ∧
  w.id.phase = k.phase ∧ w.id.inWg = wv ∧ w.id.width = d.width ∧ w.ctl.pc = d.entry ∧ w.ctl.clause = none ∧
  w.ctl.c = 0 ∧ w.ctl.f = 0 ∧ w.ctl.queue = [] ∧
  w.getS 1 = l.args ∧ w.getS 2 = u64 task ∧ w.getS 3 = u64 k.phase ∧ w.getS 4 = u64 wv ∧ w.getS 5 = u64 (task % l.gx) ∧
  w.getS 6 = u64 (task / l.gx % l.gy) ∧ w.getS 7 = u64 (task / (l.gx * l.gy)) ∧
  w.getS 8 = l.spill + u64 (l.spillsz * (task * d.wgwaves + wv)) ∧ w.getS 62 = 0x0D80 ∧
  (∀ n, n = 0 ∨ 9 ≤ n ∧ n ≠ 62 → w.getS n = 0) ∧
  w.vec.k.get 4 = l.args ∧ w.vec.k.get 5 = u64 task ∧ w.vec.k.get 6 = u64 k.phase ∧ w.vec.k.get 7 = u64 wv ∧
  (∀ r x, w.getV r x = 0) ∧ (∀ n, 0 < n → w.getP n = 0) ∧
  w.trap.handler = d.handler ∧ w.trap.trapen = (if d.nfen then 1 else 0) ∧ w.trap.cause = 0 ∧
  ∀ x, x < d.width →
    let r := l.seed.setWidth 32 ^^^ (l.seed >>> 32).setWidth 32 ^^^
      BitVec.ofNat 32 ((k.phase * 2 ^ 24 + task) * 0x9E3779B1) ^^^ BitVec.ofNat 32 (wv * 0x85EBCA77) ^^^
      BitVec.ofNat 32 (x * 0xC2B2AE3D)
    w.vec.sr.get x = if r = 0 then 1 else r

/-- A lane add at its word, as a change of memory (R45, R246). -/
def addStep (m : Nat → Byte) (a : HeldAdd) : Nat → Byte := fun b =>
  if a.pa ≤ b ∧ b < a.pa + 4 then
    BitVec.ofNat 8 (addWord (ofBytesLE ((List.range 4).map fun i => m (a.pa + i))) (fmtF32.decode a.value.toNat) /
      256 ^ (b - a.pa))
  else m b

/-- Node i of graph gi is Launched: its status byte, and its place in the walk (R193). -/
def launchedNode (s : State) (gi i : Nat) : State :=
  (s.setStatus (s.graphs.get gi) i 1).modGraph gi fun g =>
    { g with ready := g.ready.filter (· ≠ i), launched := g.launched ++ [i] }

/-- A node of a kind stands first: its walk is on, it is launchable, its context goes on, and nothing the walker reaches lies
in a page in migration. -/
def nodeReady (s : State) (gi i kind : Nat) : Bool :=
  (s.graphs.get gi).live && (s.graphs.get gi).ready.contains i && s.nodeKind (s.graphs.get gi) i == kind &&
  (s.ctxs.get (s.graphs.get gi).ctx).admits && !s.graphHeld (s.graphs.get gi) i

/-- The node array of a graph lies in device memory from `pa`, readable and writable, and goes on lying there whatever its
bytes are (R193, R325). -/
def arrayAt (s : State) (g : Graph) (pa : Nat) : Prop :=
  g.base.toNat + 64 * g.count ≤ 2 ^ 64 ∧
  ∀ m : Mem, (∀ a, a < pa ∨ pa + 64 * g.count ≤ a → m.get a = s.mem.get a) → ∀ k, k < 64 * g.count →
    ∃ p e, ({ s with mem := m } : State).walk (s.ctxs.get g.ctx) (g.base.toNat + k) = .leaf (.dev (pa + k)) p e ∧
      p.r = true ∧ p.w = true

/-- The nodes of a walk after node i has left it: those still launched and those launchable; with none of either the graph is
complete: its array is unlocked, and the packet that started it done (R193). -/
def WalkGoesOn (t : State) (gi i : Nat) (g : Graph) (more : List Nat) : Prop :=
  let on := g.launched.filter (· ≠ i)
  (on ++ g.ready ++ more ≠ [] → t.graphs.get gi = { g with
    launched := on, ready := g.ready ++ more
    asked := g.asked.filter fun a => a.1 ≠ i, copies := g.copies.filter fun a => a.1 ≠ i }) ∧
  (on ++ g.ready ++ more = [] → (t.graphs.get gi).live = false ∧ (∀ l ∈ t.locks, l.uid ≠ gi) ∧
    (g.sem = 0 → ∀ ctx q n, g.source = .packet ctx q n →
      ∀ p ∈ (t.queues.get (16 * ctx + q)).packets, p.seq = n → p.done = true))

/-- An add held for the commit of kernel k. -/
def ofKernel (k : Nat) (a : HeldAdd) : Bool := a.kern == k

/-! ### Timers and messages -/

/-- The wave has entered its handler for BARRIER_TIMEOUT at its control instruction, its arrival withdrawn (R106, R113,
R315). -/
def TimedOut (s t : State) (wave i0 i1 i2 : Nat) : Prop :=
  let w := s.waves.get wave
  let w' := t.waves.get wave
  w'.arrival = none ∧ w'.ctl.pc = w.trap.handler ∧ w'.trap.cause = 0x40C ∧ w'.trap.pc = w.ctl.pc ∧ w'.trap.epc = w.ctl.pc ∧
  w'.trap.info0 = u64 i0 ∧ w'.trap.info1 = u64 i1 ∧ w'.trap.info2 = u64 i2 ∧ w'.vec.held = true ∧ ∀ n, w'.getS n = w.getS n

/-- The instance inside a gang an arrival is at, and its number in reports (R306, R315). -/
def instanceKey (s : State) (w : Wave) : BarKind → Option (Nat × Nat)
  | .wg => some (w.id.member / (s.kernOf w).desc.wgwaves, 0x100)
  | .gang => some (16, 0x200)
  | .masked id => some (32 + id, id)
  | _ => none

/-- The members an instance requires that have neither arrived nor exited. -/
def absentees (s : State) (w : Wave) (key : Nat) : List Nat :=
  let g := s.gangOf w
  (g.required (s.kernOf w).desc.wgwaves key (g.bars.get key).mask).filter fun m =>
    !(g.bars.get key).arrived.contains m && !g.exited.contains m

/-- The last message sent is the answer to a request. -/
def Answered (s t : State) (r : PeerReq) (a : PeerAnswer) : Prop :=
  t.fab.outbox.getLast? =
    some { dest := r.sender, tick := s.fab.tick, body := .resp { sender := s.fab.pkg, id := r.id, answer := a } }

/-! ### Whole steps -/

/-- Code at an address of a context: each parcel lies in device memory the context may execute, uncorrectable nowhere
(R52, R326). -/
def CodeAt (s : State) (c : Ctx) (va : W64) (ps : List W32) : Prop :=
  va.toNat % 4 = 0 ∧ s.dv.bad = [] ∧ ∀ j p, ps[j]? = some p → ∃ pa perm e,
    s.walk c (va + u64 (4 * j)).toNat = .leaf (.dev pa) perm e ∧ perm.x = true ∧ s.mem.readNat pa 4 = p.toNat

/-- The state in which a turn of a wave's control stream or vector side runs its instruction: the wave is at work, its
workgroup's time has started (R149), and its core remembers the slot (R160). -/
def ctlState (s : State) (wi : Nat) (r : List Act) : State :=
  ({ s with sched := r, cur := wi }).noteIssue.modCore (coreOf wi) fun c => { c with lastCtl := wi % 32 }
def vecState (s : State) (wi : Nat) (r : List Act) : State :=
  ({ s with sched := r, cur := wi } : State).modCore (coreOf wi) fun c => { c with lastVec := wi % 32 }

/-- What every step keeps: the canonical form of both memories, and a sub-tick inside the tick (R404). -/
def MachineInv (s : State) : Prop :=
  Memory.wf s.mem ∧ Memory.wf s.hostMem ∧ (s.fab.ticklen ≠ 0 → s.fab.sub < 1200 * s.fab.ticklen)

end Sys2Proof.Claim
end

