-- ==== Sys2Proof/Certificates/Slice0/Obligations.lean ====
section
/-!
DEFINITION. The statements for the provers. Each docstring names the rule of spec/ it states.
-/
open Sys2Proof Sys2Proof.Machine Sys2Proof.Claim

/-! ### Control stream: values, flags, transfers -/

/-- The exact result of Table 8.2 on the typed sources, clamped under `.sat` and else wrapped, then extended to the whole
destination; nothing else of the machine changes (R170–R172). -/
def Obligations.IntegerResultsOfTable82 : Prop :=
  ∀ (i : Instr) (f : Form) (op : Nat → Int → Int → Option Int) (s : State) (r : Int),
    integerRow i = some (f, op) → ctlReady s i = true →
    op f.type.width (valOf f.type (srcX s.me f f.type)) (valOf f.type (srcY s.me f f.type)) = some r →
    ∃ t, exec i s = .next t ∧ CtlDone s t i [f.d.toNat] ∧
      t.me.getS f.d.toNat = kept f.d (extend64 f.type (reduce f.type f.sat r))

/-- Bitwise operations and shifts on w-bit sources; a shift amount is read as n64, and one of w or more leaves no bit of x,
or its sign (R171, R172). -/
def Obligations.BitResultsOfTable82 : Prop :=
  (∀ (i : Instr) (f : Form) (op : (w : Nat) → BitVec w → BitVec w → BitVec w) (s : State),
    bitwiseRow i = some (f, op) → i.wf = true → ctlReady s i = true →
    ∃ t, exec i s = .next t ∧ CtlDone s t i [f.d.toNat] ∧
      t.me.getS f.d.toNat = kept f.d (extend64 f.type
        (op f.type.width (BitVec.ofNat _ (srcX s.me f f.type)) (BitVec.ofNat _ (srcY s.me f f.type))).toNat)) ∧
  ∀ (i : Instr) (f : Form) (op : (w : Nat) → BitVec w → Nat → BitVec w) (s : State),
    shiftRow i = some (f, op) → i.wf = true → ctlReady s i = true →
    ∃ t, exec i s = .next t ∧ CtlDone s t i [f.d.toNat] ∧
      t.me.getS f.d.toNat = kept f.d (extend64 f.type
        (op f.type.width (BitVec.ofNat _ (srcX s.me f f.type)) (srcY s.me f .n64)).toNat)

/-- Moves and address forms, counts and bit fields, and the values read of the machine: the destination holds the value of
its row and nothing else changes (R173–R177, R199, R200). -/
def Obligations.MovesFieldsAndMachineReads : Prop :=
  (∀ (i : Instr) (s : State) (d : BitVec 8) (x : W64), moveRow s.me i = some (d, x) → i.wf = true →
     ctlReady s i = true →
     ∃ t, exec i s = .next t ∧ CtlDone s t i [d.toNat] ∧ t.me.getS d.toNat = kept d x) ∧
  (∀ (i : Instr) (s : State) (d : BitVec 8) (x : W64), fieldRow s.me i = some (d, x) → i.wf = true →
     ctlReady s i = true →
     ∃ t, exec i s = .next t ∧ CtlDone s t i [d.toNat] ∧ t.me.getS d.toNat = kept d x) ∧
  (∀ (i : Instr) (s : State) (d : BitVec 8) (x : W64), systemRow s i = some (d, x) → ctlReady s i = true →
     ∃ t, exec i s = .next t ∧ CtlDone s t i [d.toNat] ∧ t.me.getS d.toNat = kept d x)

/-- `cmp` writes its predicate pair by Table 3.9, from its guard g and the relation q of Table 3.6; c0 stays true. It is the
one control instruction whose false guard can write (R66, R178). -/
def Obligations.CompareWritesPredicatePair : Prop :=
  ∀ (f : Form) (s : State), ctlFree s (.cmp f) = true →
    ∃ t, exec (.cmp f) s = .next t ∧ OnlyMe s t ∧ Past s t f.parcels ∧ OnlyRegs s t ∧ KeepsS s t [] ∧
      ∀ n, n < 8 → t.me.getC n =
        match combine f.ctype (s.me.guardTrue (.cmp f))
          (condHolds f.cond (valOf f.type (s.me.src f.type (f.csrcA false))) (valOf f.type (s.me.src f.type (f.csrcB false))))
          (s.me.getC (f.d.toNat % 16)) (s.me.getC (f.d.toNat / 16)) with
        | none => s.me.getC n
        | some (p, q) =>
          if n = 0 then true else if n = f.d.toNat / 16 then q else if n = f.d.toNat % 16 then p else s.me.getC n

/-- A control instruction with a false guard writes nothing and goes on; a long-latency one uses up its set-flag position
(R65). One that leaves a `brv` whose answer is out forgets the question (log entry 73). `cmp` is stated apart. -/
def Obligations.FalseGuardOnlyGoesOn : Prop :=
  ∀ (i : Instr) (f : Form) (s : State), i.form? = some f → i.vec = false → (∀ g, i ≠ .cmp g) →
    ctlFree s i = true → s.me.guardTrue i = false →
    (s.me.ctl.brv = none ∨ (∀ g, i ≠ .brv g) →
      exec i s = .next (s.modMe fun w => w.advance (parcelsOfInstr i) (longLatency i))) ∧
    (i = .brv f → ∃ t, exec i s = .next t ∧ OnlyMe s t ∧ Past s t f.parcels ∧ KeepsS s t [] ∧
      t.me.ctl.c = s.me.ctl.c ∧ t.me.vec = s.me.vec ∧ t.me.ctl.brv = none)

/-- Branches, calls, returns and loops: where control goes and what they write (R179, R180). -/
def Obligations.ControlTransfers : Prop :=
  ∀ (i : Instr) (s : State) (g : Option W64) (ws : List (BitVec 8 × W64)), flowRow s.me i = some (g, ws) →
    ctlReady s i = true →
    ∃ t, exec i s = .next t ∧ OnlyMe s t ∧ OnlyRegs s t ∧ t.me.ctl.c = s.me.ctl.c ∧
      Goes s t (parcelsOfInstr i) g ∧ KeepsS s t (ws.map fun e => e.1.toNat) ∧
      ∀ e ∈ ws, t.me.getS e.1.toNat = kept e.1 e.2

/-- Traps of the control side with nothing written: DIVIDE at a zero divisor (R172); ILLEGAL_ENCODING at `ret` and `jr` to an
address off a parcel boundary (R179), at `eret` outside a handler or with such an `st.epc`, and inside a handler at the
instructions that steer or question the vector side, which issue no token (R107); one of these whose guard register a
pending operation will write waits for it first (R67, R69; log entry 3). -/
def Obligations.ControlSideTraps : Prop :=
  (∀ (f : Form) (s : State) (i : Instr), i = .div f ∨ i = .rem f → ctlReady s i = true →
     valOf f.type (srcY s.me f f.type) = 0 →
     exec i s = .next (trapsAt s (rep divide 0 0))) ∧
  (∀ (f : Form) (s : State) (i : Instr), i = .ret f ∨ i = .jr f → ctlReady s i = true →
     (s.me.getS f.a.toNat).toNat % 4 ≠ 0 →
     exec i s = .next (trapsAt s (illegalOf i))) ∧
  (∀ (f : Form) (s : State), ctlReady s (.eret f) = true → s.me.ctl.faults = [] →
     (s.me.nest = false ∨ s.me.trap.epc.toNat % 4 ≠ 0) →
     exec (.eret f) s = .next (trapsAt s (illegalOf (.eret f)))) ∧
  (∀ (i : Instr) (s : State), steers i = true → s.me.nest = true → s.me.ctl.skip = false → s.me.breaksClause i = false →
     (s.me.guardBusy i = false → s.me.guardTrue i = true → exec i s = .next (trapsAt s (illegalOf i))) ∧
     (s.me.guardBusy i = true → exec i s = .next (s.stay .other)))

/-! ### Clauses, tokens, serial sections -/

/-- A clause header whose flags are clear and hold no fault opens its clause (R69, R70). -/
def Obligations.ClauseHeaderOpensClause : Prop :=
  ∀ (c : Clause) (s : State), ctlReady s (.clauseHeader c) = true → s.me.ctl.f &&& c.wait = 0 →
    s.me.firstFault (fun x => c.wait.getLsbD x) = none →
    ∃ t, exec (.clauseHeader c) s = .next t ∧ OnlyMe s t ∧ OnlyRegs s t ∧ t.me.ctl.s = s.me.ctl.s ∧
      t.me.ctl.c = s.me.ctl.c ∧ t.me.ctl.pc = s.me.ctl.pc + 4 ∧
      t.me.ctl.clause = some { rem := c.len.toNat, slot := 0, set1 := c.set1.toNat, set2 := c.set2.toNat }

/-- `vrun`, the mask instructions and the requests enter the control queue and go on; a request leaves owed what its answer
will write (R161, R162, R164, R182–R186). MASK_SPILL at `mpush` at depth 255, with the address level 256 would take,
and at `melse` and `mpop` at depth 0 (R164). -/
def Obligations.TokensEnterTheControlQueue : Prop :=
  (∀ (f : Form) (s : State), ctlReady s (.mpush f) = true → s.me.ctl.depth = 255 →
    exec (.mpush f) s = .next (trapsAt s (rep maskSpill (s.me.id.spill + u64 (16 * 256)) 0))) ∧
  (∀ (i : Instr) (f : Form) (s : State), i = .melse f ∨ i = .mpop f → ctlReady s i = true → s.me.ctl.depth = 0 →
    exec i s = .next (trapsAt s (rep maskSpill 0 0))) ∧
  ∀ (i : Instr) (s : State) (k : Token), tokenRow s.me i = some k → ctlReady s i = true →
    s.me.ctl.queue.length < 64 → s.me.ctl.owed.length < 16 →
    ∃ t, exec i s = .next t ∧ OnlyMe s t ∧ Past s t (parcelsOfInstr i) ∧
      t.me = { s.me with
        wait := .none
        remote := t.me.remote
        issued := s.me.issued + 1
        ctl := { s.me.ctl with
          pc := t.me.ctl.pc
          clause := t.me.ctl.clause
          queue := s.me.ctl.queue ++ [k]
          owed := s.me.ctl.owed ++ owedRow i
          depth := depthRow s.me i } }

/-- `brv` asks the vector side, waits, and goes by the answer: on when no active lane holds the condition, to the target
when all do and agree on it, and into NON_UNIFORM otherwise (R181). `lser` starts a serial section at the lowest active
lane once the vector side is idle, or skips it where no lane is active; `lsend` runs the next lane's round or ends the
section; a nested `lser`, and an `lsend` outside a section or at another mask depth, take ILLEGAL_ENCODING (R187). -/
def Obligations.BranchOnVectorAndSerialSections : Prop :=
  (∀ (f : Form) (s : State), ctlReady s (.brv f) = true →
     (s.me.ctl.brv = none → s.me.ctl.queue.length < 64 → s.me.ctl.owed.length < 16 →
       ∃ t, exec (.brv f) s = .next t ∧ OnlyMe s t ∧ t.me.ctl.pc = s.me.ctl.pc ∧ t.me.ctl.brv = some .asked ∧
         t.me.ctl.owed = s.me.ctl.owed ++ [.brv] ∧
         t.me.ctl.queue = s.me.ctl.queue ++ [.brv s.me.ctl.pc (s.me.ctl.pc + (f.lit?.getD 0).signExtend 64)
           (f.b.toNat % 16) (if f.optBit 0 then some f.c.toNat else none)]) ∧
     ∀ (x a same target : W64), s.me.ctl.brv = some (.answered x a same target) →
       (x = 0 ∨ (x = a ∧ (f.optBit 0 = true → same = a)) →
         ∃ t, exec (.brv f) s = .next t ∧ OnlyMe s t ∧ t.me.ctl.brv = none ∧ t.me.ctl.s = s.me.ctl.s ∧
           t.me.ctl.c = s.me.ctl.c ∧ t.me.vec = s.me.vec ∧
           Goes s t f.parcels (if x = 0 then none else some target)) ∧
       (x ≠ 0 ∧ (x ≠ a ∨ (f.optBit 0 = true ∧ same ≠ a)) →
         exec (.brv f) s = .next (trapsAt (s.modMe fun w => { w with ctl := { w.ctl with brv := none } })
           (rep nonUniform x a same target)))) ∧
  ((∀ (f : Form) (s : State), ctlReady s (.lser f) = true → s.me.vecIdle = true → s.me.ctl.serial = none →
     ∃ t, exec (.lser f) s = .next t ∧ OnlyMe s t ∧ Past s t f.parcels ∧
       (s.me.act = 0 → t.me.ctl.skip = true ∧ t.me.ctl.serial = none ∧ KeepsS s t []) ∧
       (s.me.act ≠ 0 →
         t.me.ctl.skip = false ∧ KeepsS s t [f.d.toNat] ∧
         t.me.getS f.d.toNat = kept f.d (u64 (lowest s.me.act)) ∧ t.me.vec.serial = some (lowest s.me.act) ∧
         t.me.ctl.serial = some { lanes := s.me.act, lane := lowest s.me.act, ret := t.me.ctl.pc, reg := f.d.toNat,
                                  depth := s.me.ctl.depth })) ∧
   ∀ (f : Form) (s : State) (x : Serial), ctlReady s (.lsend f) = true → s.me.ctl.serial = some x →
     x.depth = s.me.ctl.depth → s.me.ctl.queue.length < 64 →
     ∃ t, exec (.lsend f) s = .next t ∧ OnlyMe s t ∧
       (x.lanes &&& ~~~(u64 (2 ^ x.lane)) = 0 →
         Past s t f.parcels ∧ t.me.ctl.serial = none ∧ KeepsS s t [] ∧
         t.me.ctl.queue = s.me.ctl.queue ++ [.serial s.me.ctl.pc none]) ∧
       ∀ rest, rest = x.lanes &&& ~~~(u64 (2 ^ x.lane)) → rest ≠ 0 →
         t.me.ctl.pc = x.ret ∧ t.me.ctl.serial = some { x with lanes := rest, lane := lowest rest } ∧
         t.me.getS x.reg = (if x.reg = 0 then 0 else u64 (lowest rest)) ∧ KeepsS s t [x.reg] ∧
         t.me.ctl.queue = s.me.ctl.queue ++ [.serial s.me.ctl.pc (some (lowest rest))]) ∧
  (∀ (f : Form) (s : State), ctlReady s (.lser f) = true → s.me.vecIdle = true → s.me.ctl.serial.isSome = true →
     exec (.lser f) s = .next (trapsAt s (illegalOf (.lser f)))) ∧
  ∀ (f : Form) (s : State), ctlReady s (.lsend f) = true →
    (s.me.ctl.serial = none ∨ ∃ x, s.me.ctl.serial = some x ∧ x.depth ≠ s.me.ctl.depth) →
    exec (.lsend f) s = .next (trapsAt s (illegalOf (.lsend f)))

/-- The vector side takes tokens (R73, R161, R164, R181–R186). A `vrun` with a zero trip count is over at once; another opens
its block with the mask read once and the constants captured, or takes ILLEGAL_ENCODING: at the `vrun` where the target is
no header, at the header where that is bad. The mask tokens push, flip and pop a level, spilling to memory beyond 16;
requests put their answer in the back queue, and the oldest answer reaches what awaits it. -/
def Obligations.TokensTaken : Prop :=
  ∀ (s : State) (rest : List Token), tokenFree s.me = true →
    let w := s.me
    let taken (v : Vec) : Host.Outcome State Fault Refusal := .next (s.modMe fun w => tokenTaken w rest v)
    (∀ site target trip pred neg kv span, w.ctl.queue = .vrun site target trip pred neg kv span :: rest →
      (trip = 0 → exec .vrunToken s = taken w.vec) ∧
      ∀ h, trip ≠ 0 → s.fetchParcel (s.ctxOf w) target = .ok h →
        let len := (h.extractLsb' 2 12).toNat
        (h.extractLsb' 0 2 = 3 ∧ h.extractLsb' 14 18 = 0 ∧ len ≠ 0 →
          ∃ t, exec .vrunToken s = .next t ∧ OnlyMe s t ∧
            t.me = { w with
              ctl := { w.ctl with queue := rest }
              vec := { w.vec with
                k := t.me.vec.k
                block := some { site, base := target, len, at_ := 0, iter := 0, trip, span
                                mask := (if neg then ~~~(w.getP pred) else w.getP pred) &&& asked w } } } ∧
            ∀ j, t.me.vec.k.get j = (kv[j]?).getD (w.vec.k.get j)) ∧
        (h.extractLsb' 0 2 ≠ 3 →
          exec .vrunToken s = .next (s.vecStop site (.trap (rep illegalEncoding (u64 h.toNat) target)))) ∧
        (h.extractLsb' 0 2 = 3 → (h.extractLsb' 14 18 ≠ 0 ∨ len = 0) →
          exec .vrunToken s = .next (s.vecStop target (.trap (rep illegalEncoding (u64 h.toNat) 0))))) ∧
    (∀ site p, w.ctl.queue = .mpush site p :: rest → w.vec.masks.length < 16 →
      exec .maskToken s = taken { w.vec with
        masks := { entry := w.act, act := w.act &&& w.getP p } :: w.vec.masks, depth := w.vec.depth + 1 }) ∧
    (∀ site p t u, w.ctl.queue = .mpush site p :: rest → w.vec.masks.length = 16 → w.stq = [] → arrived s = true →
      s.spillTargets { needStore with peer := false } (w.spillAddr (w.vec.depth - 15)) = .ok (t, u) →
      ∃ old s', w.vec.masks.getLast? = some old ∧
        s' = (s.spillWord t old.entry).spillWord u old.act ∧
        (∀ a b, t = .dev a → u = .dev b → a + 8 ≤ b ∨ b + 8 ≤ a →
          s'.mem.readNat a 8 = old.entry.toNat ∧ s'.mem.readNat b 8 = old.act.toNat) ∧
        exec .maskToken s = .next (s'.modMe fun w => tokenTaken w rest { w.vec with
          masks := { entry := w.act, act := w.act &&& w.getP p } :: w.vec.masks.dropLast, depth := w.vec.depth + 1 })) ∧
    (∀ site l more, w.ctl.queue = .melse site :: rest → w.vec.masks = l :: more →
      exec .maskToken s = taken { w.vec with masks := { l with act := l.entry &&& ~~~l.act } :: more }) ∧
    (∀ site, w.ctl.queue = .mpop site :: rest → w.vec.depth ≤ 16 →
      exec .maskToken s = taken { w.vec with masks := w.vec.masks.tail, depth := w.vec.depth - 1 }) ∧
    (∀ site t u x y, w.ctl.queue = .mpop site :: rest → 16 < w.vec.depth → w.stq = [] → arrived s = true →
      s.spillTargets { needLoad with peer := false } (w.spillAddr (w.vec.depth - 16)) = .ok (t, u) →
      s.readAt t 8 = .ok x → s.readAt u 8 = .ok y →
      exec .maskToken s = taken { w.vec with
        masks := w.vec.masks.tail ++ [{ entry := u64 x, act := u64 y }], depth := w.vec.depth - 1 }) ∧
    (∀ site lane, w.ctl.queue = .serial site lane :: rest →
      exec .maskToken s = taken { w.vec with serial := lane }) ∧
    (∀ site p, w.ctl.queue = .vany site p :: rest →
      exec .requestToken s = taken { w.vec with back := w.vec.back ++ [.pred (asked w &&& w.getP p ≠ 0)] }) ∧
    (∀ site p, w.ctl.queue = .vall site p :: rest →
      exec .requestToken s = taken { w.vec with back := w.vec.back ++ [.pred (asked w &&& w.getP p = asked w)] }) ∧
    (∀ site reg lane t, w.ctl.queue = .bqrd site reg lane t :: rest →
      s.ackPending (if t = .b64 then [reg, reg + 1] else [reg]) = false →
      regsIn s (if t = .b64 then [reg, reg + 1] else [reg]) = true → s.dv.bad = [] →
      exec .requestToken s = taken { w.vec with back := w.vec.back ++ [.scalar
        (if lane = none ∧ asked w = 0 then 0
         else
          let l := lane.getD (lowest (asked w))
          if t = .b64 then w.getV (reg + 1) l ++ w.getV reg l
          else if t = .i32 then (w.getV reg l).signExtend 64 else (w.getV reg l).setWidth 64)] }) ∧
    (∀ site target p index, w.ctl.queue = .brv site target p index :: rest → s.ackPending index.toList = false →
      regsIn s index.toList = true → s.dv.bad = [] →
      let tg (l : Nat) : W64 := match index with
        | some r => target + (w.getV r l).signExtend 64 <<< 2
        | none => target
      exec .requestToken s = taken { w.vec with back := w.vec.back ++ [.brv (asked w &&& w.getP p) (asked w)
        (maskWhere (asked w) fun l => tg l == tg (lowest (asked w))) (tg (lowest (asked w)))] }) ∧
    ∀ a back o owed, w.vec.back = a :: back → w.ctl.owed = o :: owed →
      let w' : Wave := { w with vec := { w.vec with back }, ctl := { w.ctl with owed } }
      (∀ b c, a = .pred b → o = .pred c → exec .backQueueAnswer s = .next (s.modMe fun _ => w'.setC c b)) ∧
      (∀ v d, a = .scalar v → o = .scalar d → exec .backQueueAnswer s = .next (s.modMe fun _ => w'.setS d v)) ∧
      ∀ t x same target, a = .brv t x same target → o = .brv →
        exec .backQueueAnswer s = .next (s.modMe fun _ =>
          { w' with ctl := { w'.ctl with brv := some (.answered t x same target) } })

/-! ### Traps, handlers, system instructions -/

/-- Entry to a handler (R105, R106, R113, R114): the trap registers, `st.epc`, the frame in the prologue area, the vector
side held, control at `st.handler`; every byte of the prologue area outside the frame and all memory are unchanged. -/
def Obligations.TrapEntersHandler : Prop :=
  ∀ (s : State) (wi : Nat) (r : Report) (restart : W64),
    (s.waves.get wi).trap.handler ≠ 0 → (s.waves.get wi).nest = false → r.code < 256 → (s.waves.get wi).stq = [] →
    let t := s.takeTrap wi r restart
    let w := s.waves.get wi
    let x := t.waves.get wi
    x.ctl.pc = w.trap.handler ∧ x.trap.epc = restart ∧ x.trap.pc = r.pc ∧
    x.trap.cause = u64 (r.code + (if r.vec then 256 else 0) + (if r.async then 512 else 0) + 1024) ∧
    x.trap.info0 = r.i0 ∧ x.trap.info1 = r.i1 ∧ x.trap.info2 = r.i2 ∧ x.trap.info3 = r.i3 ∧
    x.trap.handler = w.trap.handler ∧ x.trap.trapen = w.trap.trapen ∧ x.nest = true ∧
    (∀ n, n < 64 → x.prol.readNat (0xD80 + 8 * n) 8 = (w.getS n).toNat) ∧
    x.prol.get 0xF80 = w.ctl.c ||| 1 ∧ x.prol.readNat 0xF88 8 = w.ctl.crew.toNat ∧
    (∀ a, a < 0xD80 ∨ (0xF81 ≤ a ∧ a < 0xF88) ∨ 0xFA0 ≤ a → x.prol.get a = w.prol.get a) ∧
    x.vec = { w.vec with held := true } ∧ x.ctl.clause = none ∧ x.ctl.s = w.ctl.s ∧ x.ctl.c = w.ctl.c ∧
    x.ctl.crew = w.ctl.crew ∧ x.st = w.st ∧ x.scratch = w.scratch ∧ x.tape = w.tape ∧
    (∀ j, j ≠ wi → t.waves.get j = s.waves.get j) ∧ t.mem = s.mem ∧ t.hostMem = s.hostMem ∧ t.kernels = s.kernels ∧
    t.gangs = s.gangs

/-- Without a handler, or inside one, a trap stops the kernel with the report and status 1; it is Aborted once no gang of it
is left (R105, R126, R133). -/
def Obligations.TrapWithoutHandlerAbortsKernel : Prop :=
  ∀ (s : State) (wi : Nat) (r : Report) (restart : W64),
    let w := s.waves.get wi
    let k := s.kernels.get w.id.kern
    (w.trap.handler = 0 ∨ w.nest = true) → k.st = .running →
    let t := s.takeTrap wi r restart
    let x := t.kernels.get w.id.kern
    (x.st = .aborting ∨ x.st = .aborted) ∧
    (t.gangs.any (fun e => e.2.kern == w.id.kern) = false → x.st = .aborted) ∧ x.status = 1 ∧ x.report = some r

/-- `trap` takes TRAP with its operand in info0 and the next address as the restart point (R108, R199). -/
def Obligations.TrapInstructionTakesTrap : Prop :=
  ∀ (f : Form) (s : State), ctlReady s (.trapTo f) = true →
    let s1 := s.modMe fun w => w.advance f.parcels false
    exec (.trapTo f) s = .next (s1.takeTrap s.cur
      { code := 0x0D, pc := s.me.ctl.pc, i0 := if f.a ≠ 0 then s.me.getS f.a.toNat else u64 f.opt }
      (s.me.ctl.pc + u64 (4 * f.parcels)))

/-- `eret` restores s1–s63, c1–c7 and crew from the frame as it stands, clears nest, releases the vector side and resumes
at `st.epc`; the clause goes on only at the restart address (R71, R107). -/
def Obligations.HandlerReturn : Prop :=
  ∀ (f : Form) (s : State), ctlReady s (.eret f) = true → s.me.nest = true → s.me.ctl.faults = [] →
    s.me.trap.epc.toNat % 4 = 0 → s.dv.bad = [] →
    ∃ t, exec (.eret f) s = .next t ∧ OnlyMe s t ∧ t.me.ctl.pc = s.me.trap.epc ∧
      (∀ n, 0 < n → n < 64 → t.me.getS n = u64 (s.me.prol.readNat (0xD80 + 8 * n) 8)) ∧ t.me.getS 0 = 0 ∧
      t.me.ctl.c = BitVec.ofNat 8 ((s.me.prol.get 0xF80).toNat / 2 * 2) ∧
      t.me.ctl.crew = u64 (s.me.prol.readNat 0xF88 8) ∧ t.me.nest = false ∧
      t.me.vec = { s.me.vec with held := false } ∧ t.me.prol = s.me.prol ∧ t.me.scratch = s.me.scratch ∧
      t.me.ctl.clause = if s.me.trap.epc = s.me.trap.restart then s.me.trap.clause else none

/-- `csrw` writes `st.handler`, its low bits cleared, and `st.epc`; the other state registers ignore it (R112, R199). `crew`
takes a value whose members are distinct members of the gang with the wave among them; another value takes ALLOTMENT with
it (R190). -/
def Obligations.StateRegisterAndCrewWrites : Prop :=
  (∀ (f : Form) (s : State), ctlReady s (.csrw f) = true → f.csr ∈ (csrRow s).map Prod.fst →
     ∃ t, exec (.csrw f) s = .next t ∧ OnlyMe s t ∧ Past s t f.parcels ∧ t.me.ctl.s = s.me.ctl.s ∧
       t.me.ctl.c = s.me.ctl.c ∧ t.me.vec = s.me.vec ∧
       t.me.trap = { s.me.trap with
         handler := if f.csr = 9 then s.me.getS f.c.toNat &&& ~~~3#64 else s.me.trap.handler
         epc := if f.csr = 0x12 then s.me.getS f.c.toNat else s.me.trap.epc }) ∧
  (∀ (f : Form) (s : State), ctlReady s (.crew f) = true →
     let x := s.me.getS f.a.toNat
     (crewOk x (s.gangOf s.me).waves.length s.me.id.member = true →
       ∃ t, exec (.crew f) s = .next t ∧ OnlyMe s t ∧ Past s t f.parcels ∧ t.me.ctl.crew = x ∧
         t.me.ctl.s = s.me.ctl.s ∧ t.me.ctl.c = s.me.ctl.c ∧ t.me.vec = s.me.vec) ∧
     (crewOk x (s.gangOf s.me).waves.length s.me.id.member = false →
       exec (.crew f) s = .next (trapsAt s (rep allotment x 7))))

/-- `acq` in a granted gang does nothing; in another it leaves the gang's request and waits, or takes ALLOTMENT for a demand
no core could meet (R159). `yield` with no fault to raise, and `fence` of the control stream with nothing to wait for, only
go on; a fence that acquires ends the use of the L1 lines filled before it (R70, R108, R233, R272). `exit` with nothing
under way ends the wave; its gang notes the member, and is Draining when the last has exited (R155, R168). The model's
choices: the order of pools and cores in which a demand that no core could meet is named (log entry 14), and which pending
operations a fence has to wait for (log entry 30). -/
def Obligations.GrantYieldFenceAndExit : Prop :=
  (∀ (f : Form) (s : State), ctlReady s (.acq f) = true →
     let g := s.gangOf s.me
     (g.granted = true → ∃ t, exec (.acq f) s = .next t ∧ CtlDone s t (.acq f) []) ∧
     (g.granted = false → g.cores.findSome? (fun c => overPool (s.demand g c) grantable) = none →
       ∃ t, exec (.acq f) s = .next t ∧ t.me.ctl.pc = s.me.ctl.pc ∧ t.me.wait = .grant ∧
         t.gangs.get s.me.id.gang = { g with request := true }) ∧
     ∀ pool amount, g.granted = false →
       g.cores.findSome? (fun c => overPool (s.demand g c) grantable) = some (pool, amount) →
       exec (.acq f) s = .next (trapsAt s (allotPool amount pool))) ∧
  ((∀ (f : Form) (s : State), ctlReady s (.yield f) = true → s.me.ctl.faults = [] →
      ∃ t, exec (.yield f) s = .next t ∧ CtlDone s t (.yield f) []) ∧
   (∀ (f : Form) (s : State), ctlReady s (.fenceCtrl f) = true → s.me.ctl.ops.any PendingOp.memory = false →
      s.me.ctl.faults = [] → settled s = true → (f.releases = true → s.outstanding s.cur = false) →
      ∃ t, exec (.fenceCtrl f) s = .next t ∧ MeetDone s t (.fenceCtrl f) [] ∧
        Acquired s t f) ∧
   (∀ (f : Form) (s : State), ctlReady s (.exitWave f) = true → s.me.vecIdle = true → s.me.ctl.ops = [] →
      s.me.ctl.faults = [] → s.me.losses = [] → s.bufferOwes s.cur = false →
      let g := s.gangs.get s.me.id.gang
      ∃ t, exec (.exitWave f) s = .next t ∧ t.me.st = .exited ∧ t.me.ctl.queue = [] ∧ t.me.vec.block = none ∧
        t.me.vec.masks = [] ∧ t.me.tape.spans = [] ∧ t.me.ctl.s = s.me.ctl.s ∧ t.mem = s.mem ∧
        (∀ w, w ≠ s.cur → t.waves.get w = s.waves.get w) ∧
        (t.gangs.get s.me.id.gang).exited = g.exited ++ [s.me.id.member] ∧
        (t.gangs.get s.me.id.gang).st = if g.exited.length + 1 = g.waves.length then .draining else g.st))

/-! ### Semaphores, graphs, barriers, channels, deques -/

/-- `sems` adds its count to the word; `semw`, first in the word's queue, waits for the count and subtracts it, and one of
count 0 waits for nothing (R196). On a word of another package each sends one request and waits; the answer lets it go on
(R196, R402). -/
def Obligations.SemaphoreWords : Prop :=
  ∀ (f : Form) (s : State) (l va : Nat) (x : Target), s.checkSem f = .ok (l, va, x) → s.dv.bad = [] →
    scalarsDone s = true →
    let e : Element := (l, va, x)
    let old := heldAt false 8 (byteIn s) e
    let n := s.me.semCount f
    let mayPost := ctlReady s (.sems f) = true ∧ s.outstanding s.cur = false ∧ (f.optBits 2 0 = 5 → settled s = true)
    (e.isPeer = false →
      (mayPost → ∃ t, exec (.sems f) s = .next t ∧ Past s t f.parcels ∧ KeepsS s t [] ∧
        Stored s t false 8 [(e, (old + n) % 2 ^ 64)]) ∧
      (ctlReady s (.semw f) = true → arrived s = true →
        (s.sems.get x.key = [] ∨ n = 0 → n ≤ old →
          ∃ t, exec (.semw f) s = .next t ∧ Past s t f.parcels ∧ KeepsS s t [] ∧ Stored s t false 8 [(e, old - n)]) ∧
        (s.sems.get x.key = [] → old < n →
          ∃ t, exec (.semw f) s = .next t ∧ t.me.ctl.pc = s.me.ctl.pc ∧ t.me.wait = .sem ∧ KeepsMemory s t ∧
            t.sems.get x.key = [{ wave := s.cur, peer := none, value := u64 n, push := false }]))) ∧
    ∀ pkg pa, x = .peer pkg pa →
      (s.routed pkg = true → notAsked s → settled s = true →
        (mayPost → ∃ t, exec (.sems f) s = .next t ∧ t.me.ctl.pc = s.me.ctl.pc ∧ KeepsMemory s t ∧
          Sends s t pkg pa (.sems (u64 n))) ∧
        (ctlReady s (.semw f) = true → ∃ t, exec (.semw f) s = .next t ∧ t.me.ctl.pc = s.me.ctl.pc ∧ t.me.wait = .sem ∧
          KeepsMemory s t ∧ Sends s t pkg pa (.semw (u64 n)))) ∧
      (answeredBy s .done → ∀ i, i = .sems f ∨ i = .semw f → ctlReady s i = true →
        ∃ t, exec i s = .next t ∧ Past s t f.parcels ∧ KeepsS s t [] ∧ KeepsMemory s t)

/-- `gnode` with every check passed, each predecessor in its turn, writes node i from its template, enters i in the
successor lists of the predecessors the template names, counting each mention (log entry 76: the model's choice where one is
named twice), and returns i + 1 (R191, R192); `grun` over a count in range and accessible nodes starts the walk of the
array, which stays locked while it goes on (R193). -/
def Obligations.GraphInstructions : Prop :=
  (∀ (f : Form) (s : State) (node : List Byte), ctlReady s (.gnode f) = true → scalarsDone s = true → s.dv.bad = [] →
     let base := (s.me.getS f.a.toNat).toNat
     let i := (s.me.getS f.d.toNat).toNat
     let preds := templatePreds node
     s.readNode { needLoad with peer := false } (s.me.getS f.b.toNat).toNat = .ok node →
     (∀ e ∈ preds.zipIdx, e.1 < i ∧ ∃ b, s.readNode needNode (base + 64 * e.1) = .ok b ∧
       ofBytesLE ((b.drop 1).take 1) + (preds.take e.2).count e.1 < 8) →
     (s.checkAccess s.cur false { needStore with peer := false } 8 (nodeWords (base + 64 * i))).toOption.isSome →
     ∃ t, exec (.gnode f) s = .next t ∧ OnlyRegs s t ∧ Past s t f.parcels ∧ KeepsS s t [f.d.toNat] ∧
       t.me.getS f.d.toNat = kept f.d (u64 (i + 1)) ∧
       ∀ pa, base + 64 * i + 64 ≤ 2 ^ 64 → deviceFixed s base (64 * i + 64) pa →
         let own := pa + 64 * i
         let succs (j : Nat) : Nat := s.mem.readNat (pa + 64 * j + 1) 1
         t.mem.get own = (node[0]?).getD 0 ∧ t.mem.readNat (own + 1) 1 = 0 ∧ t.mem.readNat (own + 2) 2 = preds.length ∧
         t.mem.readNat (own + 4) 3 = 0 ∧ t.mem.get (own + 7) = (node[7]?).getD 0 ∧
         (∀ k, k < 16 → t.mem.get (own + 8 + k) = 0xFF#8) ∧
         (∀ k, k < 40 → t.mem.get (own + 24 + k) = (node[24 + k]?).getD 0) ∧
         (∀ j ∈ preds, succs j + preds.count j = t.mem.readNat (pa + 64 * j + 1) 1 ∧
           ∀ k, k < preds.count j → t.mem.readNat (pa + 64 * j + 8 + 2 * (succs j + k)) 2 = i % 2 ^ 16) ∧
         ∀ a, a < own ∨ own + 64 ≤ a →
           (∀ j ∈ preds, a ≠ pa + 64 * j + 1 ∧ (a < pa + 64 * j + 8 + 2 * succs j ∨
             pa + 64 * j + 8 + 2 * (succs j + preds.count j) ≤ a)) →
           t.mem.get a = s.mem.get a) ∧
  (∀ (f : Form) (s : State) (els : List (Nat × Nat × Target)), ctlReady s (.grun f) = true → scalarsDone s = true →
     s.outstanding s.cur = false →
     let base := (s.me.getS f.a.toNat).toNat
     let count := (s.me.getS f.b.toNat).toNat
     let gi := s.uid + 1
     let lock := mkLock 8 false s.me.id.ctx base (64 * count) true gi
     0 < count → count ≤ 65535 →
     s.checkGlobals (s.ctxOf s.me) needNode 64 ((List.range count).map fun i => (0, (base + 64 * i) % 2 ^ 64)) = .ok els →
     s.checkLinks (els.map fun e => (e.1, e.2.2)) = .ok () →
     s.lockTurn (lockAsker s.cur false) s.me.id.ctx [lock] = true →
     ∃ t, exec (.grun f) s = .next t ∧ OnlyRegs s t ∧ Past s t f.parcels ∧ KeepsS s t [] ∧
       t = leave s (({ s with uid := gi }.leaveLockq (lockAsker s.cur false)).startGraph gi
         { (default : Graph) with
           ctx := s.me.id.ctx, base := u64 base, count := count, sem := s.me.getS f.c.toNat,
           prio := (s.kernOf s.me).prio, wave := s.cur }) (.grun f) ∧
       ((t.graphs.get gi).live = true → lock ∈ t.locks ∧ (t.graphs.get gi).ctx = s.me.id.ctx ∧
         (t.graphs.get gi).base = u64 base ∧ (t.graphs.get gi).count = count ∧
         (t.graphs.get gi).sem = s.me.getS f.c.toNat))

/-- `bar.wg`, `bar.gang` and `bar.m`: the last member to come releases the instance and goes on; an earlier one arrives and
waits; one whose generation is over departs (R305–R308). `bar.m` with a mask that lacks the wave or names no member takes
ALLOTMENT; with another mask than the first arrival's, MASK_MISMATCH (R309). `bar.dev` is one step on the object's words:
the last arrival clears `arrived`, steps `generation` and goes on with the old one in s[d]; an earlier one counts itself and
waits; one whose generation is over departs (R310, R311). `fbar` sends its arrival, with its time once it can leave, counts
it and waits; it departs with its generation in s[d] once the release of that generation has been delivered (R312, R313). -/
def Obligations.Barriers : Prop :=
  ((∀ (i : Instr) (s : State) (key : Nat) (mask : W64), barRow s i = some (key, mask) → ctlReady s i = true →
      quiet s = true →
      let b := (s.gangOf s.me).bars.get key
      (s.me.arrival = none → lastToCome s key mask = true →
        ∃ t, exec i s = .next t ∧ Past s t (parcelsOfInstr i) ∧ KeepsS s t [] ∧ t.me.arrival = none ∧
          ((t.gangOf t.me).bars.get key).gen = b.gen + 1 ∧ ((t.gangOf t.me).bars.get key).arrived = []) ∧
      (s.me.arrival = none → lastToCome s key mask = false →
        ∃ t, exec i s = .next t ∧ t.me.ctl.pc = s.me.ctl.pc ∧ t.me.wait = .barrier ∧
          (t.me.arrival.map (·.gen)) = some b.gen ∧
          (t.gangOf t.me).bars.get key = { b with arrived := b.arrived ++ [s.me.id.member], mask := mask }) ∧
      ∀ a, s.me.arrival = some a → a.gen < b.gen →
        ∃ t, exec i s = .next t ∧ Past s t (parcelsOfInstr i) ∧ KeepsS s t [] ∧ t.me.arrival = none ∧ t.gangs = s.gangs) ∧
   (∀ (f : Form) (s : State), ctlReady s (.barM f) = true → quiet s = true → s.me.arrival = none →
      let m := s.me.getS f.a.toNat
      let g := s.gangOf s.me
      let b := g.bars.get (32 + f.optBits 3 0)
      ((m.getLsbD s.me.id.member = false ∨ m &&& memberMask g.waves.length ≠ m) →
        exec (.barM f) s = .next (trapsAt s (rep allotment m 7))) ∧
      (m.getLsbD s.me.id.member = true → m &&& memberMask g.waves.length = m → b.arrived ≠ [] → b.mask ≠ m →
        exec (.barM f) s = .next (trapsAt s (rep maskMismatch b.mask m (u64 (f.optBits 3 0))))))) ∧
  (∀ (f : Form) (s : State), ctlReady s (.barDev f) = true → quiet s = true → s.dv.bad = [] →
     (∀ pa, s.me.arrival = none → objectAt s (s.me.getS f.a.toNat).toNat pa false →
       let arrived := s.mem.readNat pa 4
       let gen := s.mem.readNat (pa + 4) 4
       let expected := s.mem.readNat (pa + 8) 4
       0 < expected → expected ≤ 2 ^ 24 →
       ((arrived + 1) % 2 ^ 32 = expected →
         ∃ t, exec (.barDev f) s = .next t ∧ Past s t f.parcels ∧ KeepsS s t [f.d.toNat] ∧
           t.me.getS f.d.toNat = kept f.d (u64 gen) ∧ t.mem.readNat pa 4 = 0 ∧
           t.mem.readNat (pa + 4) 4 = (gen + 1) % 2 ^ 32 ∧ ∀ a, a < pa ∨ pa + 8 ≤ a → t.mem.get a = s.mem.get a) ∧
       ((arrived + 1) % 2 ^ 32 ≠ expected →
         ∃ t, exec (.barDev f) s = .next t ∧ t.me.ctl.pc = s.me.ctl.pc ∧ t.me.wait = .barrier ∧
           WordSet s.mem t.mem pa 4 (arrived + 1))) ∧
     ∀ va at_ pa gen start limit, s.me.arrival = some { kind := .dev va at_, gen, start, limit } →
       s.objectNow s.me va = some pa → s.mem.readNat (pa + 4) 4 ≠ gen →
       ∃ t, exec (.barDev f) s = .next t ∧ Past s t f.parcels ∧ t.me.getS f.d.toNat = kept f.d (u64 gen) ∧
         t.me.arrival = none ∧ t.mem = s.mem) ∧
  (∀ (f : Form) (s : State), ctlReady s (.fbar f) = true → quiet s = true →
     let c := s.ctxOf s.me
     let id := (s.me.getS f.a.toNat).toNat % 4096
     (∀ b m, s.me.arrival = none → s.fbarOf c id = some (b, m) →
       ∃ t, exec (.fbar f) s = .next t ∧ t.me.ctl.pc = s.me.ctl.pc ∧ t.me.wait = .barrier ∧
         (t.me.arrival.map (·.gen)) = some (c.allreds.get (4096 + id)) ∧
         (t.ctxOf t.me).allreds.get (4096 + id) = c.allreds.get (4096 + id) + 1 ∧
         t.fab.outbox = s.fab.outbox ++ [{ dest := 0xFFFF, tick := s.fab.tick,
                                           body := .fbarArrive b.job id m (if s.ported then some s.tickValue else none) }]) ∧
     ∀ a b, s.me.arrival = some a → c.jobst = 2 → s.fab.fbars.find? (fun b => b.job == c.job.num && b.id == id) = some b →
       a.gen < b.delivered →
       ∃ t, exec (.fbar f) s = .next t ∧ Past s t f.parcels ∧ KeepsS s t [f.d.toNat] ∧
         t.me.getS f.d.toNat = kept f.d (u64 a.gen) ∧ t.me.arrival = none)

/-- `chan.push` and `chan.pop` on a channel nobody waits at: the buffer gains or yields a value and the status is 0; a full
or an empty channel answers the try forms with 1 and 2 and makes the blocking forms wait (R317, R318). -/
def Obligations.Channels : Prop :=
  ∀ (i : Instr) (f : Form) (s : State) (pa : Nat), i = .chanPush f ∨ i = .chanPop f → ctlReady s i = true →
    quiet s = true → s.dv.bad = [] → s.me.arrival = none → objectAt s (s.me.getS f.a.toNat).toNat pa false →
    let cap := s.mem.readNat pa 4
    let c := s.chans.get pa
    0 < cap → cap ≤ 2 ^ 20 → s.checkPages (s.me.getS f.a.toNat).toNat (64 + 8 * cap) = .ok () → c.waiters = [] →
    (i = .chanPush f →
      (c.values.length < cap →
        ∃ t, exec i s = .next t ∧ Past s t f.parcels ∧ KeepsS s t [f.c.toNat] ∧ t.me.getS f.c.toNat = 0 ∧
          (t.chans.get pa).values = c.values ++ [s.me.getS f.b.toNat]) ∧
      (cap ≤ c.values.length → f.optBit 0 = true →
        ∃ t, exec i s = .next t ∧ MeetDone s t i [f.c.toNat] ∧ t.me.getS f.c.toNat = kept f.c 1) ∧
      (cap ≤ c.values.length → f.optBit 0 = false →
        ∃ t, exec i s = .next t ∧ t.me.ctl.pc = s.me.ctl.pc ∧ t.me.wait = .channel ∧
          (t.chans.get pa).values = c.values ∧ ((t.chans.get pa).waiters.map (·.wave)) = [s.cur])) ∧
    (i = .chanPop f →
      (∀ v vs, c.values = v :: vs →
        ∃ t, exec i s = .next t ∧ Past s t f.parcels ∧ KeepsS s t [f.d.toNat, f.c.toNat] ∧
          (f.d ≠ f.c → t.me.getS f.d.toNat = kept f.d v) ∧ t.me.getS f.c.toNat = 0 ∧ (t.chans.get pa).values = vs) ∧
      (c.values = [] → f.optBit 0 = true →
        ∃ t, exec i s = .next t ∧ MeetDone s t i [f.c.toNat] ∧ t.me.getS f.c.toNat = kept f.c 2) ∧
      (c.values = [] → f.optBit 0 = false →
        ∃ t, exec i s = .next t ∧ t.me.ctl.pc = s.me.ctl.pc ∧ t.me.wait = .channel ∧
          ((t.chans.get pa).waiters.map (·.wave)) = [s.cur]))

/-- The deque instructions on a deque of this package: one step of the deque, its result in s[d]; a thief's on another
package's: one request, and its answer in s[d] (R319–R323). On a deque in
consecutive bytes whose leases hold, each event of Table 13.5 leaves its slot in the state, with the thief and the expiry of
its row, counts what it counts, keeps every other slot, and answers OK with the slot and its tile; where its condition
fails, the status of R322 is the answer and nothing changes (R320–R322). An un-numbered package claims as thief 0: the
model's choice (log entry 40). -/
def Obligations.DequeInstructions : Prop :=
  (∀ (i : Instr) (f : Form) (steal : Bool) (op : DeqOp) (s : State) (pa : Nat), dequeRow s.me i = some (f, steal, op) →
     ctlReady s i = true → quiet s = true → s.dv.bad = [] → s.me.arrival = none →
     let va := (s.me.getS f.a.toNat).toNat
     let at_ := s.deqPages s.me.id.ctx va pa
     let r := s.deque at_ s.fab.pkg s.fab.set op
     objectAt s va pa steal → s.deqOk at_ = true → s.checkPages va (0x40 + 16 * s.deqField at_ 0 4) = .ok () →
     exec i s = .next (leave s ((r.2.putS s.cur f.d.toNat r.1).acquire s.cur) i)) ∧
  (∀ (i : Instr) (f : Form) (steal : Bool) (op : DeqOp) (s : State) (l va pkg pa : Nat),
     dequeRow s.me i = some (f, steal, op) → ctlReady s i = true → quiet s = true → s.me.arrival = none →
     s.checkObject (s.me.getS f.a.toNat).toNat steal = .ok (l, va, .peer pkg pa) →
     (s.routed pkg = true → notAsked s →
       ∃ t, exec i s = .next t ∧ t.me.ctl.pc = s.me.ctl.pc ∧ KeepsMemory s t ∧ Sends s t pkg pa (.deque op)) ∧
     ∀ v, answeredBy s (.value v) → v ≠ u64 (15 * 2 ^ 60) →
       ∃ t, exec i s = .next t ∧ Past s t f.parcels ∧ KeepsS s t [f.d.toNat] ∧ t.me.getS f.d.toNat = kept f.d v ∧
         KeepsMemory s t) ∧
  (∀ (s : State) (pa pkg : Nat) (set : Bool),
     let at_ : DeqAt := fun off => pa + off
     let cap := s.deqField at_ 0 4
     let bottom := s.deqField at_ 4 4
     let done := s.deqField at_ 8 4
     let us := s.deqField at_ 0x10 4
     let expiry := s.fab.tick + ceilDiv (2 * (if us = 0 then 20000 else us)) (max 1 s.fab.ticklen)
     let row (i : Nat) := slotRow s at_ i
     let tile (i : Nat) : Nat := (row i).1
     let state (i : Nat) : Nat := (row i).2.1
     let thief (i : Nat) : Nat := (row i).2.2.1
     let me := if set then pkg + 1 else 0
     let ok (i n : Nat) : W64 := u64 (i * 2 ^ 48 + n)
     let fails (op : DeqOp) (status : Nat) : Prop := s.deque at_ pkg set op = (u64 (status * 2 ^ 60), s)
     let acts (op : DeqOp) (r : W64) (i : Option Nat) (x : Nat × Nat × Nat × Nat) (b d : Nat) : Prop :=
       (s.deque at_ pkg set op).1 = r ∧ DeqDone s (s.deque at_ pkg set op).2 at_ i x b d
     cap ≤ 4096 → bottom ≤ cap → (∀ i, i < cap → s.leaseOver at_ i = false) → pkg < 1024 → expiry < 2 ^ 64 →
     (∀ n : W32, (bottom < cap → acts (.push n) (ok bottom n.toNat) (some bottom) (n.toNat, 1, 0, 0) (bottom + 1) done) ∧
       (bottom = cap → fails (.push n) 2)) ∧
     ((∃ i, i < cap ∧ (state i = 2 ∨ state i = 3)) → fails .reset 5) ∧
     ((∀ i, i < cap → state i ≠ 2 ∧ state i ≠ 3) →
       (s.deque at_ pkg set .reset).1 = 0 ∧
       let t := (s.deque at_ pkg set .reset).2
       (∀ i, i < cap → slotRow t at_ i = (0, 0, 0, 0)) ∧ t.deqField at_ 4 4 = 0 ∧ t.deqField at_ 8 4 = 0) ∧
     ((∀ i, i < cap → state i ≠ 1) → fails .pop 1) ∧
     (∀ i, i < cap → state i = 1 → (∀ j, i < j → j < cap → state j ≠ 1) →
       acts .pop (ok i (tile i)) (some i) (tile i, 5, (row i).2.2) bottom done) ∧
     ((s.deqField at_ 0x0C 1).testBit 0 = false → fails .claim 3) ∧
     ((s.deqField at_ 0x0C 1).testBit 0 = true →
       ((∀ i, i < cap → state i ≠ 1) → fails .claim 1) ∧
       ∀ i, i < cap → state i = 1 → (∀ j, j < i → state j ≠ 1) →
         acts .claim (ok i (tile i)) (some i) (tile i, 2, me, expiry) bottom done) ∧
     ∀ i, (i < cap → set = true → thief i = me →
         (state i = 2 ∨ state i = 3 → acts (.run i) (ok i (tile i)) (some i) (tile i, 3, thief i, expiry) bottom done) ∧
         (state i = 3 → acts (.done i) (ok i (tile i)) (some i) (tile i, 4, (row i).2.2) bottom ((done + 1) % 2 ^ 32))) ∧
       (cap ≤ i ∨ set = false ∨ thief i ≠ me ∨ (state i ≠ 2 ∧ state i ≠ 3) → fails (.run i) 4) ∧
       (cap ≤ i ∨ set = false ∨ thief i ≠ me ∨ state i ≠ 3 → fails (.done i) 4))

/-! ### Vector stream: arithmetic -/

/-- Integer and bit instructions of one result a lane: active lanes hold the result of their own sources; other lanes, other
registers, predicates and rounding states are unchanged (R202, R210, R211, R214, R215, R223). -/
def Obligations.VectorIntegerAndBitResults : Prop :=
  ∀ (i : Instr) (r : LaneRow) (s : State), (intLaneRow i = some r ∨ bitLaneRow i = some r) → i.wf = true →
    vecReady s i r.f = true → regsIn s (dstRegs r.dt r.f.d.toNat ++ r.srcs) = true →
    ∃ t, exec i s = .next t ∧ VecDone s t i ∧ t.me.vec.p = s.me.vec.p ∧ t.me.vec.sr = s.me.vec.sr ∧
      LanesHold s t r.dt r.f.d.toNat (active s r.f) (r.val s.me)

/-- Floating instructions of one result a lane: the exact result rounded once to the type; with NONFINITE on, where every
result is finite (R48, R207–R209). That log2, sinpi and cospi are rounded once from 128 bits and a sticky bit where they are
not rational is the model's choice (log entry 13). -/
def Obligations.VectorFloatResults : Prop :=
  ∀ (i : Instr) (r : LaneRow) (s : State), floatLaneRow i = some r → vecReady s i r.f = true →
    regsIn s (dstRegs r.dt r.f.d.toNat ++ r.srcs) = true → r.dt.isFloat = true →
    finiteOk s r.dt (active s r.f) (r.val s.me) = true →
    ∃ t, exec i s = .next t ∧ VecDone s t i ∧ t.me.vec.p = s.me.vec.p ∧ t.me.vec.sr = s.me.vec.sr ∧
      LanesHold s t r.dt r.f.d.toNat (active s r.f) (r.val s.me)

/-- Traps of the vector side with nothing written: NONFINITE at the lowest lane whose result is not finite (R48, R49);
ALLOTMENT with a register outside the allotment, the first in the order d, a, b, c, which is the model's choice (R115, R157,
R203; log entry 14); NON_UNIFORM at an operand of `bcast`, `slideup` or `slidedn` that is not lane-uniform (R222). -/
def Obligations.VectorSideTraps : Prop :=
  (∀ (i : Instr) (r : LaneRow) (s : State) (l : Nat), floatLaneRow i = some r → vecReady s i r.f = true →
     regsIn s (dstRegs r.dt r.f.d.toNat ++ r.srcs) = true → r.dt.isFloat = true → s.me.trap.trapen.getLsbD 0 = true →
     (lanesOf (active s r.f)).find? (fun l => (fmtOf r.dt).nonFinite (r.val s.me l)) = some l →
     exec i s = .next (vtrapsAt s (rep 0x08 (u64 l) (u64 (r.dt.code + 32 * r.dt.code))))) ∧
  (∀ (i : Instr) (r : LaneRow) (s : State) (n : Nat),
     (intLaneRow i = some r ∨ bitLaneRow i = some r ∨ floatLaneRow i = some r) → i.wf = true → vecReady s i r.f = true →
     (dstRegs r.dt r.f.d.toNat ++ r.srcs).find? (fun x => decide (s.vregs s.me ≤ x)) = some n →
     exec i s = .next (vtrapsAt s (rep 0x09 (u64 (2 ^ 56 + n)) 1))) ∧
  (∀ (i : Instr) (f : Form) (s : State), i = .bcast f ∨ i = .slideup f ∨ i = .slidedn f → vecReady s i f = true →
     regsIn s (dstRegs f.type f.d.toNat ++ formRegs1 f f.type ++ srcRegs .n32 (f.srcB true)) = true →
     let A := active s f
     let v0 := laneN f s.me (lowest A)
     let same := maskWhere A fun l => laneN f s.me l == v0
     same ≠ A → exec i s = .next (vtrapsAt s (rep 0x02 0 A same (u64 v0))))

/-- `pand`, `por`, `pxor` and `pnot` write the active lanes of their predicate (R213). `fcmp` and `icmp` write their
predicate pair by Table 3.9 in the lanes the block runs, g being the lane's guard and q its relation; no other lane or
predicate changes; p0 keeps all ones (R59, R66, R212). -/
def Obligations.PredicatesAndCompares : Prop :=
  (∀ (i : Instr) (f : Form) (op : W64 → W64 → W64) (s : State),
     (i = .pand f ∧ op = (· &&& ·) ∨ i = .por f ∧ op = (· ||| ·) ∨ i = .pxor f ∧ op = (· ^^^ ·) ∨
       i = .pnot f ∧ op = fun x _ => ~~~x) → vecReady s i f = true →
     ∃ t, exec i s = .next t ∧ VecDone s t i ∧ t.me.vec.v = s.me.vec.v ∧ t.me.vec.sr = s.me.vec.sr ∧
       ∀ n, t.me.getP n = if n = f.d.toNat ∧ n ≠ 0 then
           (s.me.getP n &&& ~~~(active s f)) ||| (op (s.me.getP f.a.toNat) (s.me.getP f.b.toNat) &&& active s f)
         else s.me.getP n) ∧
  (∀ (i : Instr) (f : Form) (rel : Nat → Nat → Bool) (s : State),
     (i = .icmp f ∧ rel = (fun x y => condHolds f.cond (valOf f.type x) (valOf f.type y)) ∨
       i = .fcmp f ∧ rel = (fun x y => fcondHolds f.cond ((fmtOf f.type).decode x) ((fmtOf f.type).decode y))) →
     vecReady s i f = true → regsIn s (srcRegs f.type (f.csrcA true) ++ srcRegs f.type (f.csrcB true)) = true →
     ∃ t, exec i s = .next t ∧ VecDone s t i ∧ t.me.vec.v = s.me.vec.v ∧ t.me.vec.sr = s.me.vec.sr ∧
       ∀ n l, n ≠ 0 → l < 64 → (t.me.getP n).getLsbD l =
         match (if s.me.blockMask.getLsbD l then
             combine f.ctype ((active s f).getLsbD l)
               (rel (s.me.vsrc f.type l (f.csrcA true)) (s.me.vsrc f.type l (f.csrcB true)))
               ((s.me.getP (f.d.toNat % 16)).getLsbD l) ((s.me.getP (f.d.toNat / 16)).getLsbD l)
           else none) with
         | none => (s.me.getP n).getLsbD l
         | some (p, q) =>
           if n = f.d.toNat / 16 then q else if n = f.d.toNat % 16 then p else (s.me.getP n).getLsbD l)

/-- `cvt` rounds each active lane's value once into the new type and advances its rounding state under `.sr` (R36, R216).
`unpack` and `dqnt` widen an element exactly to f32, i32 or n32; `pack` and `qnt`, smoothed or not, round into elements and
change only d and the rounding states of the active lanes (R217–R221). With NONFINITE on they complete where every result
is finite. -/
def Obligations.ConversionsAndPackedElements : Prop :=
  ∀ (f : Form) (s : State),
    let A := active s f
    let w := s.me
    let advanced (t : State) (n : Nat) : Prop := ∀ l, l < 64 → t.me.vec.sr.get l =
      if f.rounding = .sr ∧ A.getLsbD l then srAfter n (w.vec.sr.get l) else w.vec.sr.get l
    (let g (l : Nat) : Nat := convert f.stype f.type (w.srMode f.rounding l 0) f.sat (w.vsrc f.stype l (f.srcA true))
     vecReady s (.cvt f) f = true → regsIn s (dstRegs f.type f.d.toNat ++ srcRegs f.stype (f.srcA true)) = true →
     (f.type.isFloat = false ∨ finiteOk s f.type A g = true) →
     ∃ t, exec (.cvt f) s = .next t ∧ VecDone s t (.cvt f) ∧ t.me.vec.p = w.vec.p ∧
       LanesHold s t f.type f.d.toNat A g ∧ advanced t 1) ∧
    (let g (l : Nat) : Nat :=
       let x := w.vsrc .b32 l (f.srcA true) / 2 ^ (f.type.width * f.c.toNat) % 2 ^ f.type.width
       if f.type = .q4 then fmtF32.encode rne false (q4Value f.variant x)
       else if f.type.isFloat then fmtF32.encode rne false ((fmtOf f.type).decode x)
       else wrapNat 32 (valOf f.type x)
     vecReady s (.unpack f) f = true → regsIn s (f.d.toNat :: srcRegs .b32 (f.srcA true)) = true →
     (f.type.isFloat = false ∧ f.type ≠ .q4 ∨ finiteOk s .f32 A g = true) →
     ∃ t, exec (.unpack f) s = .next t ∧ VecDone s t (.unpack f) ∧ t.me.vec.p = w.vec.p ∧
       t.me.vec.sr = w.vec.sr ∧ LanesHold s t .b32 f.d.toNat A g) ∧
    (let sb (l : Nat) : Nat := w.vsrc .b32 l (f.srcC true) % 256
     let g (l : Nat) : Nat :=
       let x := w.vsrc .b32 l (f.srcA true)
       fmtF32.encode rne false ((if f.type = .q4 then q4Value (sb l / 64) x else (fmtOf f.type).decode (x % 256)).mul
         (.fin false 1 ((sb l % 64 : Nat) - 32)))
     vecReady s (.dqnt f) f = true →
     regsIn s (f.d.toNat :: (srcRegs .b32 (f.srcA true) ++ srcRegs .b32 (f.srcC true))) = true →
     (f.type = .q4 ∨ ∀ l ∈ lanesOf A, sb l < 64) → finiteOk s .f32 A g = true →
     ∃ t, exec (.dqnt f) s = .next t ∧ VecDone s t (.dqnt f) ∧ t.me.vec.p = w.vec.p ∧
       t.me.vec.sr = w.vec.sr ∧ LanesHold s t .b32 f.d.toNat A g) ∧
    (let n := f.type.width
     let st := packSrc f.type
     let ea (l : Nat) : Nat := convert st f.type (w.srMode f.rounding l 0) f.sat (w.vsrc st l (f.srcA true))
     let eb (l : Nat) : Nat := convert st f.type (w.srMode f.rounding l 1) f.sat (w.vsrc st l (f.srcB true))
     let at_ := 16 * f.variant
     vecReady s (.pack f) f = true →
     regsIn s (f.d.toNat :: (srcRegs .b32 (f.srcA true) ++ srcRegs .b32 (f.srcB true))) = true →
     (f.type.isFloat = false ∨ finiteOk s f.type A ea = true ∧ finiteOk s f.type A eb = true) →
     ∃ t, exec (.pack f) s = .next t ∧ VecDone s t (.pack f) ∧ t.me.vec.p = w.vec.p ∧ advanced t 2 ∧
       ∀ l, l < 64 →
         (∀ r, r ≠ f.d.toNat ∨ A.getLsbD l = false → t.me.getV r l = w.getV r l) ∧
         (A.getLsbD l = true → n ≠ 8 → t.me.getV f.d.toNat l = u32 (ea l + eb l * 2 ^ n)) ∧
         (A.getLsbD l = true → n = 8 → t.me.getV f.d.toNat l = u32
           ((w.getV f.d.toNat l).toNat - nbits (w.getV f.d.toNat l).toNat (at_ + 15) at_ * 2 ^ at_ +
             (ea l + eb l * 2 ^ 8) * 2 ^ at_))) ∧
    (let smooth := decide (f.variant % 2 = 1)
     let offs := (lanesOf A).map fun l => (l, (w.getV f.b.toNat l).toNat)
     let sb (l : Nat) : Nat := w.vsrc .b32 l (f.srcC true) % 256
     let sm (l : Nat) : Nat := if smooth then s.readLocal s.cur (w.getV f.b.toNat l).toNat 4 else 0x3F800000
     let g (l : Nat) : Nat :=
       let q := (fmtF32.decode (w.vsrc .f32 l (f.srcA true))).div
         ((fmtF32.decode (sm l)).mul (.fin false 1 ((sb l % 64 : Nat) - 32)))
       let m := w.srMode f.rounding l 0
       if f.type = .q4 then q4Round m (sb l / 64) q else (fmtOf f.type).encode m f.sat q
     vecReady s (.qnt f) f = true →
     regsIn s (f.d.toNat :: (srcRegs .b32 (f.srcA true) ++ (if smooth then [f.b.toNat] else []) ++
       srcRegs .b32 (f.srcC true))) = true →
     (smooth = true → w.stq = [] ∧ arrived s = true ∧ s.checkLocals s.cur { needLoad with kind := .smooth } 4 offs = .ok () ∧
       s.checkLocks true s.cur 4 false offs = .ok ()) →
     (f.type = .q4 ∨ ∀ l ∈ lanesOf A, sb l < 64) → (∀ l ∈ lanesOf A, badScale (sm l) = false) →
     (f.type = .q4 ∨ f.type.isFloat = false ∨ finiteOk s f.type A g = true) →
     ∃ t, exec (.qnt f) s = .next t ∧ VecDone s t (.qnt f) ∧ t.me.vec.p = w.vec.p ∧ advanced t 1 ∧
       LanesHold s t .b32 f.d.toNat A g)

/-- What the lane-moving instructions leave in each lane; `compress` packs the chosen lanes into the low ones, and a lane no
value reaches is unchanged (R222–R226). -/
def Obligations.LaneMoves : Prop :=
  ∀ (i : Instr) (f : Form) (s : State) (dt : ElemType) (regs : List Nat) (A : W64) (g : Nat → Nat),
    laneMove s i = some (f, dt, regs, A, g) → vecReady s i f = true → regsIn s (dstRegs dt f.d.toNat ++ regs) = true →
    ∃ t, exec i s = .next t ∧ VecDone s t i ∧ t.me.vec.p = s.me.vec.p ∧ t.me.vec.sr = s.me.vec.sr ∧
      LanesHold s t dt f.d.toNat A g

/-- `red` combines the lanes in the tree of R42, inactive ones as the identity of R44, and `scan` in the network of R43
(R227, R228); a NaN result is the canonical one (R23). The tree and the scan network of integer sums give the sum and the
running sums (R42, R43). -/
def Obligations.ReductionsAndScans : Prop :=
  (∀ (i : Instr) (f : Form) (s : State) (g : Nat → Nat),
     let x := s.me.redSources f (active s f)
     let n := Nat.log2 s.me.id.width
     (i = .redLanes f ∧ g = (fun _ => canonNan f.type (((treeRed (redOp f) n x).head?).getD 0)) ∨
       i = .scanLanes f ∧ g = fun l => canonNan f.type (((scanAll (redOp f) n 1 x)[l]?).getD 0)) →
     vecReady s i f = true → regsIn s (dstRegs f.type f.d.toNat ++ formRegs1 f f.type) = true →
     (s.me.trap.trapen.getLsbD 0 = false ∨ f.type.isFloat = false ∨ finiteOk s f.type (active s f) g = true) →
     ∃ t, exec i s = .next t ∧ VecDone s t i ∧ t.me.vec.p = s.me.vec.p ∧ t.me.vec.sr = s.me.vec.sr ∧
       LanesHold s t f.type f.d.toNat (active s f) g) ∧
  (∀ (n : Nat) (x : List Nat), x.length = 2 ^ n →
     treeRed (· + ·) n x = [x.sum] ∧
     ∀ l, l < 2 ^ n → (scanAll (· + ·) n 1 x)[l]? = some ((x.take (l + 1)).sum))

/-- `adamw` writes the new moments to b and c and the new weight to d, each lane by the operation sequence of R229; with
NONFINITE on, where all of them are finite (R48). -/
def Obligations.AdamwStep : Prop :=
  ∀ (f : Form) (s : State), vecReady s (.adamw f) f = true →
    regsIn s (f.d.toNat :: (srcRegs .f32 (f.srcA true) ++ [f.b.toNat, f.c.toNat])) = true →
    f.d ≠ f.b → f.d ≠ f.c → f.b ≠ f.c →
    let k (n : Nat) : W64 := s.me.vec.k.get n
    let r (l : Nat) : W32 × W32 × W32 := adamwLane (k 0) (k 1) (k 2) (k 3) (s.me.getV f.d.toNat l)
      (u32 (s.me.vsrc .f32 l (f.srcA true))) (s.me.getV f.b.toNat l) (s.me.getV f.c.toNat l)
    (s.nfOn = true → ∀ l ∈ lanesOf (active s f), (f32 (r l).1).isFin = true ∧ (f32 (r l).2.1).isFin = true ∧
      (f32 (r l).2.2).isFin = true) →
    ∃ t, exec (.adamw f) s = .next t ∧ VecDone s t (.adamw f) ∧ t.me.vec.p = s.me.vec.p ∧
      ∀ l, l < 64 →
        ((active s f).getLsbD l = true → t.me.getV f.b.toNat l = (r l).1 ∧ t.me.getV f.c.toNat l = (r l).2.1 ∧
          t.me.getV f.d.toNat l = (r l).2.2) ∧
        ∀ n, (active s f).getLsbD l = false ∨ n ∉ [f.b.toNat, f.c.toNat, f.d.toNat] → t.me.getV n l = s.me.getV n l

/-! ### Memory instructions -/

/-- Every long-latency instruction that takes a flag from its clause, with the flag clear and no fault held by it: it is
checked, locks its ranges, records its operation with the values captured now, sets the flag and goes on (R69, R70, R245,
R281). OPERATION_COMPLETE of an operation that holds a flag: its effect, its record and locks gone and the flag clear; a
trap of it is held by the flag until a raising point (R69, R70). What three of these effects leave: `ldw` loads the shadow
plane from the rows, the smoothing vector and the scale bytes of local memory (R282, R292); `scac` adds a scaled tile,
each entry rounded (R40, R296); `zdrain` stores or adds the tile, every other byte kept, or issues one ordered add of it, and
clears it where told to (R32, R298, R299). -/
def Obligations.LongLatencyOperations : Prop :=
  (∀ (i : Instr) (op : LongOp) (f : Form) (s s1 : State) (c : OpCtx), longOpOf i = some (op, f) → ctlReady s i = true →
     s.me.setFlagOf < 12 → s.me.firstFault (fun x => x == s.me.setFlagOf) = none → s.me.flag s.me.setFlagOf = false →
     mayIssueOp s i = true → started s op i f = .ok (c, s1) → unlocked s op c = true →
     ∃ t o, exec i s = .next t ∧ PastLong s t f.parcels ∧ t.me.ctl.s = s.me.ctl.s ∧ t.me.ctl.c = s.me.ctl.c ∧
       t.locks = s.locks ++ op.locks c s ∧ t.me.ctl.ops = s.me.ctl.ops ++ [o] ∧
       o = { uid := s.uid + 1, site := s.me.ctl.pc, instr := i, flag := s.me.setFlagOf, caps := o.caps,
             mark := s.me.issued, stamp := s.epoch, since := s.own, desc := c.desc } ∧
       ((∀ g, i ≠ .zdrain g) → o.caps = s.me.caps i f) ∧
       (∀ x, x < 12 → t.me.flag x = (x == s.me.setFlagOf || s.me.flag x)) ∧
       t.mem = s.mem ∧ t.hostMem = s.hostMem ∧ ∀ w, w ≠ s.cur → t.waves.get w = s.waves.get w) ∧
  (∀ (id wi : Nat) (o : PendingOp) (op : LongOp) (f : Form) (s : State), s.opOf id = some (wi, o) →
     longOpOf o.instr = some (op, f) → o.flag < 12 →
     let c := o.ctx wi f
     (∀ s', op.act c s = .ok s' →
       ∃ t, exec (.operationComplete id) s = .next t ∧ (t.waves.get wi).flag o.flag = false ∧
         (t.waves.get wi).ctl.ops = (s'.waves.get wi).ctl.ops.filter (fun x => x.uid != o.uid) ∧
         t.locks = s'.locks.filter (fun l => l.uid != o.uid) ∧ t.mem = s'.mem ∧
         (t.waves.get wi).ctl.s = (s'.waves.get wi).ctl.s ∧ (t.waves.get wi).ctl.pc = (s'.waves.get wi).ctl.pc) ∧
     ∀ r, op.act c s = .error (.trap r) →
       ∃ t, exec (.operationComplete id) s = .next t ∧ (t.waves.get wi).flag o.flag = false ∧
         (t.waves.get wi).ctl.faults = (s.waves.get wi).ctl.faults ++
           [{ uid := o.uid, flag := o.flag, report := { r with pc := o.site } }] ∧
         t.locks = s.locks.filter (fun l => l.uid != o.uid) ∧ t.mem = s.mem ∧
         (t.waves.get wi).ctl.s = (s.waves.get wi).ctl.s) ∧
  (∀ (c : OpCtx) (s t : State), opLdw.finish c s = .ok t →
     let core := coreOf c.wi
     let ty := c.f.type
     let lay := c.f.optBits 2 1
     let off := c.caps.a.toNat % 2 ^ 32
     let stride := c.caps.a.toNat / 2 ^ 32
     let row (r : Nat) : Nat := s.readLocal c.wi (off + r * stride) (4 * elemBits ty)
     let elem (k j : Nat) : Nat :=
       if c.f.optBit 0 then row k / 2 ^ (elemBits ty * j) % 2 ^ elemBits ty else row j / 2 ^ (elemBits ty * k) % 2 ^ elemBits ty
     let factor (k : Nat) : FV := fmtF32.decode (s.readLocal c.wi (c.caps.c.toNat % 2 ^ 32 + 4 * k) 4)
     let sb (j : Nat) : Nat := s.readLocal c.wi
       (if lay = 1 then c.caps.a1.toNat % 2 ^ 32 else c.caps.a1.toNat % 2 ^ 32 + j * (c.caps.a1.toNat / 2 ^ 32)) 1
     let p := (t.cores.get core).shadow
     p.loaded = true ∧ p.type = ty ∧ p.blocked = decide (lay ≠ 0) ∧
     (∀ k j, k < 32 → j < 32 → p.at_ k j =
       if c.f.optBit 3 then (fmtOf ty).encode rne true (((fmtOf ty).decode (elem k j)).mul (factor k)) else elem k j) ∧
     (lay = 1 ∨ lay = 2 → ∀ j, j < 32 → p.colType j = sb j / 64) ∧
     (t.cores.get core).session = some (s.sessionOwner c) ∧ (t.cores.get core).entries = (s.cores.get core).entries ∧
     (t.cores.get core).front = { (s.cores.get core).front with loaded := (t.cores.get core).front.loaded } ∧
     (∀ x, x ≠ core → t.cores.get x = s.cores.get x) ∧ t.waves = s.waves ∧ t.mem = s.mem) ∧
  (∀ (c : OpCtx) (s t : State) (tz tp : Nat), opScac.finish c s = .ok t →
     s.tileOf (s.destWave c.wi c.caps.crew) (c.f.optBit 6) c.f.d.toNat = .ok tz →
       s.tileOf c.wi (c.f.optBit 7) c.f.a.toNat = .ok tp →
     let core := coreOf c.wi
     let scale (x : W64) (i : Nat) : ℤ := ((s.readLocal c.wi (x.toNat % 2 ^ 32 + i * (x.toNat / 2 ^ 32)) 1 % 64 : Nat) : ℤ) - 32
     KeepsTiles s t core tz ∧ t.waves = s.waves ∧ t.mem = s.mem ∧
     ∀ i j, i < 32 → j < 32 →
       let part := (entryOf s core tp (32 * i + j)).toNat
       ∃ x, (∀ y, ratOf (ax part) = some y → RoundsAx48 (y * 2 ^ (scale c.caps.b i + scale c.caps.c j)) false x) ∧
         (ratOf (ax part) = none → ax x = ax part) ∧
         AddsAx48 (entryOf s core tz (32 * i + j)).toNat x (entryOf t core tz (32 * i + j)).toNat) ∧
  ∀ (c : OpCtx) (s t : State) (tile : Nat) (ts : List Target), opZdrain.finish c s = .ok t →
    s.checkDrain c = .ok (tile, ts) →
    let core := coreOf c.wi
    let local_ := c.f.optBit 1
    let add := c.f.optBit 0
    let size := if c.f.type = .ax48 then 6 else c.f.type.bytes
    let base := if local_ then c.caps.b.toNat % 2 ^ 32 else c.caps.b.toNat
    let rs := if c.f.c = 0 then 32 * size else c.caps.c.toNat % 2 ^ 32
    let z (q : Nat) : Nat := (entryOf s core tile q).toNat
    let at_ (q : Nat) : Nat := base + q / 32 * rs + q % 32 * size
    let stored (q : Nat) : Nat :=
      if c.f.type = .ax48 then z q
      else (fmtOf c.f.type).encode { mode := (Rounding.ofCode (c.f.optBits 4 3)).getD .rne } false (fmtAx48.decode (z q))
    let summed (m q : Nat) : Nat :=
      fmtF32.encode rne false ((fmtF32.decode m).add false (fmtAx48.decode (z q)))
    (∀ q, q < 1024 → entryOf t core tile q = if c.f.optBit 2 then 0 else entryOf s core tile q) ∧
    KeepsTiles s t core tile ∧
    (local_ = true → s.cur = c.wi → membersDistinct s → Stored s t true size ((List.range 1024).map fun q =>
      ((0, at_ q, .dev 0), if add then summed (s.readLocal c.wi (at_ q) 4) q else stored q))) ∧
    (local_ = false → add = false → ts.length = 1024 * (if size = 6 then 3 else 1) ∧
      Stored s t false (if size = 6 then 2 else size) (ts.zipIdx.map fun e => ((0, 0, e.1),
        if size = 6 then stored (e.2 / 3) / 2 ^ (16 * (e.2 % 3)) % 2 ^ 16 else stored e.2))) ∧
    (local_ = false → add = true → s.levelOf (s.waves.get c.wi) = 0 → (ts.map Target.key).Nodup →
      Stored s t false 4 (ts.zipIdx.map fun e => ((0, 0, e.1), summed (heldAt false 4 (byteIn s) (0, 0, e.1)) e.2))) ∧
    (local_ = false → add = true → 0 < s.levelOf (s.waves.get c.wi) → KeepsMemory s t ∧ ∃ a, t.adds = s.adds ++ [a] ∧
      a.kern = (s.waves.get c.wi).id.kern ∧ a.key = (s.waves.get c.wi).addKey 0 c.caps.d.toNat ∧ a.home = false ∧
      a.tile = (List.range 1024).map (entryOf s core tile) ∧ ∀ pa, ts.head? = some (.dev pa) → a.pa = pa)

/-- `sld`, `sst` and `satom` without a flag and with no earlier scalar access pending: the word read, stored, or stepped
once, each at the address the instruction captures; every other byte and register is unchanged (R63, R197, R198). A relaxed
store leaves the wave's queue when the schedule has it do so, and reaches its home when the schedule has it arrive: that
either may be at once is the model's choice (R238; log entry 6). On a word of another package `sst` puts its bytes in the
write-combining buffer, or sends them; `sld` and `satom` send one request and wait, and the answer supplies the value (R248,
R402). -/
def Obligations.ScalarLoadsStoresAtomics : Prop :=
  (∀ (i : Instr) (f : Form) (s : State) (e : Element), ctlReady s i = true → unflagged s = true → s.dv.bad = [] →
    scalarsDone s = true → membersDistinct s →
    let c := s.me.caps i f
    let loc := localBit f
    let n := f.type.bytes
    let a := if loc then c.a.toNat % 2 ^ 32 else c.a.toNat
    let x := c.c.toNat % 2 ^ f.type.width
    let y := c.c1.toNat % 2 ^ f.type.width
    (i = .sld f → s.checkAccess s.cur loc needLoad n [(0, a)] = .ok [e] → (loc || !e.isPeer) = true →
      inTurn s loc f.pastL1 f = true →
      ∃ t v, exec i s = .next t ∧ PastLong s t f.parcels ∧ KeepsS s t [f.d.toNat] ∧
        t.me.getS f.d.toNat = kept f.d (extend64 f.type v) ∧ KeepsMemory s t ∧
        (readsHome s = true → v = heldAt loc n (byteIn s) e)) ∧
    (i = .sst f → s.checkAccess s.cur loc needStore n [(0, a)] = .ok [e] → orderReady s loc f [e] = true →
      inTurn s loc false f = true →
      let v := c.d.toNat % 2 ^ f.type.width
      let es := [(e, v)]
      ∃ t, exec i s = .next t ∧ PastLong s t f.parcels ∧ KeepsS s t [] ∧
        (storesNow s f loc = true → Stored s t loc n es) ∧
        (storesLater s f loc = true → e.isPeer = false → KeepsMemory s t ∧
          (t.cores.get (coreOf s.cur)).out = (s.cores.get (coreOf s.cur)).out ++ (queued s loc n 0 es).map fun q => (s.cur, q)) ∧
        (keepsStores s f = true → KeepsMemory s t ∧ t.me.stq = s.me.stq ++ queued s loc n 0 es) ∧
        (keepsStores s f = false → ∀ pkg pa, loc = false → e.2.2 = .peer pkg pa → pa % n = 0 →
          KeepsMemory s t ∧ PeerBytes s t pkg pa n v)) ∧
    (∀ op, satomRow i = some (f, op) → s.me.stq = [] → s.checkAccess s.cur loc needAtomic n [(0, a)] = .ok [e] →
      (loc || !e.isPeer) = true → orderReady s loc f [e] = true → inTurn s loc true f = true →
      let old := heldAt loc n (byteIn s) e
      ∃ t, exec i s = .next t ∧ PastLong s t f.parcels ∧ KeepsS s t [f.d.toNat] ∧
        t.me.getS f.d.toNat = kept f.d (extend64 f.type old) ∧ Stored s t loc n [(e, atomNew op f.type old x y)]) ∧
    ∀ pkg pa, loc = false → e.2.2 = .peer pkg pa → s.routed pkg = true → s.me.stq = [] → arrived s = true →
      let asks (op : PeerOp) : Prop := ∃ t o, exec i s = .next t ∧ t.me.ctl.pc = s.me.ctl.pc ∧ KeepsMemory s t ∧
        Sends s t pkg pa op ∧ t.me.ctl.ops = s.me.ctl.ops ++ [o] ∧ o.instr = i ∧ o.flag = 15 ∧ o.site = s.me.ctl.pc
      (i = .sld f → s.checkAccess s.cur false needLoad n [(0, a)] = .ok [e] → readsHome s = true → asks (.load n)) ∧
      ∀ op, satomRow i = some (f, op) → s.checkAccess s.cur false needAtomic n [(0, a)] = .ok [e] →
        settled s = true → (f.releases = true → s.outstanding s.cur = false) →
        asks (.atomic op f.type (u64 x) (u64 y))) ∧
  ∀ (i : Instr) (f : Form) (s : State) (o : PendingOp) (pkg pa : Nat) (v : W64), ctlReady s i = true →
    12 ≤ s.me.setFlagOf → localBit f = false → readsHome s = true → ScalarAnswered s o i pkg pa v →
    (i = .sld f → ∃ t, exec i s = .next t ∧ PastLong s t f.parcels ∧ KeepsS s t [f.d.toNat] ∧ KeepsMemory s t ∧
      t.me.getS f.d.toNat = kept f.d (extend64 f.type (s.wcbMerge s.cur o.uid 0 pkg pa f.type.bytes v.toNat))) ∧
    ∀ op, satomRow i = some (f, op) → ∃ t, exec i s = .next t ∧ PastLong s t f.parcels ∧ KeepsS s t [f.d.toNat] ∧
      KeepsMemory s t ∧ t.me.getS f.d.toNat = kept f.d (extend64 f.type v.toNat)

/-- Vector loads and stores, every lane checked first (R254–R259). A load fills the active lanes with the values read,
whether here, in the L1 or answered by a peer; one with lanes at a peer first sends their requests and waits. A store
changes the bytes of its lanes' elements alone, the highest lane supplying a shared byte; those in a peer window go to the
write-combining buffer, or leave (R248). That a relaxed store may be performed at once, may wait in the wave's queue, or may
reach its home later, when the schedule has it do so, and which L1 lines a load fills, are the model's choice (R20, R233,
R237, R238; log entry 6). `pref` and `fence` change nothing but what an acquire reads afresh (R233, R272, R273). -/
def Obligations.VectorLoadsAndStores : Prop :=
  (∀ (s : State) (q : QStore) (rest : List QStore), s.me.stq = q :: rest → q.loc = false →
    (∃ pa, q.t = .dev pa ∨ q.t = .host pa) → arrived s = true →
    let t := s.choose (.perform s.cur 0)
    t.me.stq = rest ∧
    ((s.cores.get (coreOf s.cur)).slow = false → Stored s t false q.n [((0, q.off, q.t), q.v)]) ∧
    ((s.cores.get (coreOf s.cur)).slow = true → KeepsMemory s t ∧ (t.cores.get (coreOf s.cur)).out = [(s.cur, q)])) ∧
  (∀ (s : State) (core w : Nat) (q : QStore) (rest : List (Nat × QStore)), (s.cores.get core).out = (w, q) :: rest →
    (∃ pa, q.t = .dev pa ∨ q.t = .host pa) →
    let t := s.choose (.arrive core 0)
    (t.cores.get core).out = rest ∧ Stored s t false q.n [((0, q.off, q.t), q.v)]) ∧
  ∀ (i : Instr) (f : Form) (loc : Bool) (s : State) (els : List Element), vecReady s i f = true →
    let n := f.type.bytes
    let A := active s f
    ((i = .ldG f ∧ loc = false ∨ i = .ldL f ∧ loc = true) →
      regsIn s (dstRegs f.type f.d.toNat ++ addrRegs f loc) = true →
      s.vecElements loc needLoad n (s.me.vecEls f loc true A) = .ok els → els.map (fun e => e.1) = lanesOf A →
      let far := if loc then [] else els.filter Element.isPeer
      (∀ (val : Nat → Nat) (as : List (Element × PeerAnswer)), els = [] ∨ s.me.vec.access.isSome = true ∨ far = [] ∧
        s.me.split = false →
        (∀ e ∈ els, s.laneValue loc f.pastL1 n e = .ok (val e.1)) → s.peerAnswers far = some as → laneTrap .load as = none →
        (loc || !f.pastL1 || arrived s) = true →
        (∃ t, exec i s = .next t ∧ LoadDone s t i ∧ t.me.vec.p = s.me.vec.p ∧ t.me.vec.sr = s.me.vec.sr ∧
          LanesHold s t f.type f.d.toNat A val ∧ KeepsMemory s t) ∧
        (readsHome s = true → s.me.vec.access = none →
          ∀ e ∈ els, (loc || !e.isPeer) = true → val e.1 = heldAt loc n (byteIn s) e)) ∧
      (s.me.vec.access = none → far ≠ [] → ∃ t, exec i s = .next t ∧ KeepsMemory s t ∧ t.me.ctl = s.me.ctl ∧
        t.me.vec = { s.me.vec with access := t.me.vec.access } ∧ (∃ a, t.me.vec.access = some a ∧ a.els = els) ∧
        ∀ e ∈ far, ∀ pkg pa, e.2.2 = .peer pkg pa → s.routed pkg = true → (∀ r ∈ s.me.remote, r.owner ≠ 0) →
          ∃ m ∈ t.fab.outbox.drop s.fab.outbox.length, ∃ r, m.dest = pkg ∧ m.body = .req r ∧ r.pa = pa ∧ r.op = .load n)) ∧
    ((i = .stG f ∧ loc = false ∨ i = .stg f ∧ loc = false ∨ i = .stL f ∧ loc = true) →
      regsIn s (dstRegs f.type f.d.toNat ++ addrRegs f loc) = true → membersDistinct s →
      s.checkAccess s.cur loc { needStore with kind := if i = .stg f then .scatter else .store } n
        (s.me.vecEls f loc true A) = .ok els →
      orderReady s loc f els = true →
      let v (e : Element) : Nat := s.me.vsrc f.type e.1 (.reg f.d.toNat)
      let es := els.map fun e => (e, v e)
      ∃ t, exec i s = .next t ∧ VecKeeps s t i ∧ (storesNow s f loc = true → Stored s t loc n es) ∧
        (storesLater s f loc = true → (∀ e ∈ els, e.isPeer = false) → KeepsMemory s t ∧
          (t.cores.get (coreOf s.cur)).out =
            (s.cores.get (coreOf s.cur)).out ++ (queued s loc n (s.uid + 1) es).map fun q => (s.cur, q)) ∧
        (keepsStores s f = true → KeepsMemory s t ∧ t.me.stq = s.me.stq ++ queued s loc n (s.uid + 1) es) ∧
        (keepsStores s f = false → ∀ e ∈ els, ∀ pkg pa, loc = false → e.2.2 = .peer pkg pa → pa % n = 0 →
          (∀ e' ∈ els, e' ≠ e → e'.2.2.key + n ≤ e.2.2.key ∨ e.2.2.key + n ≤ e'.2.2.key) → PeerBytes s t pkg pa n (v e))) ∧
    (i = .pref f → regsIn s (addrRegs f false) = true → ∃ t, exec i s = .next t ∧ OnlyMe s t ∧ VecKeeps s t i) ∧
    (i = .fenceVec f → settled s = true → s.outstanding s.cur = false →
      ∃ t, exec i s = .next t ∧ OnlyMeAcq s t ∧ VecKeeps s t i ∧ Acquired s t f)

/-- `ldg` hands its checked lanes to the pug mill, sends one request for the lanes that name the same bytes of a peer, and
waits; LDG_ELEMENT_ARRIVAL brings an element, read here, in the host or by the peer, to every lane that names its bytes, and
the core's L1 keeps no older copy of it (R239); with none out the values reach their lanes together (R260, R261). What a
core's L1 holds, and when its stores reach their homes, are the model's choice (log entry 6). -/
def Obligations.Gathers : Prop :=
  (∀ (f : Form) (s : State) (els : List Element), vecReady s (.ldg f) f = true → s.me.vec.gather = none →
     regsIn s (dstRegs f.type f.d.toNat ++ addrRegs f false) = true →
     s.checkAccess s.cur false { needLoad with kind := .gather } f.type.bytes
       (s.me.vecEls f false true (active s f)) = .ok els →
     (els.any fun e => s.buffered s.cur e) = false →
     (els = [] → ∃ t, exec (.ldg f) s = .next t ∧ OnlyMe s t ∧ VecKeeps s t (.ldg f)) ∧
     (els ≠ [] → ∃ t, exec (.ldg f) s = .next t ∧ t.me.ctl = s.me.ctl ∧ t.mem = s.mem ∧
       t.me.vec = { s.me.vec with gather := some { site := s.me.vecSite, size := f.type.bytes, arrived := [],
                                                    awaited := els.map fun e => (e.1, e.2.2), stamp := s.epoch } } ∧
       ((∀ e ∈ els, e.isPeer = false) → OnlyMe s t) ∧
       ∀ e ∈ els, ∀ pkg pa, e.2.2 = .peer pkg pa → s.routed pkg = true → (∀ r ∈ s.me.remote, r.owner ≠ 0) →
         ∃ m ∈ t.fab.outbox.drop s.fab.outbox.length, ∃ r, m.dest = pkg ∧ m.body = .req r ∧ r.pa = pa ∧
           r.op = .load f.type.bytes)) ∧
  (∀ (s : State) (id lane v : Nat) (g : Gather) (x : Target), (s.waves.get id).vec.gather = some g →
     g.awaited.find? (fun e => e.1 == lane) = some (lane, x) → (s.waves.get id).stq = [] →
     (s.cores.get (coreOf id)).out = [] → s.dv.bad = [] →
     let ls := (g.awaited.filter fun e => e.2 == x).map Prod.fst
     let asker := (ls.head?).getD lane
     ((∃ pa, x = .dev pa ∧ v = s.mem.readNat pa g.size) ∨ (∃ pa, x = .host pa ∧ v = s.hostMem.readNat pa g.size) ∨
       ∃ pkg pa y, x = .peer pkg pa ∧ s.laneAnswer id asker pkg = some (.value y) ∧
         v = s.wcbMerge id 0 (asker + 1) pkg pa g.size y.toNat) →
     ∃ t, exec (.ldgElementArrival id lane) s = .next t ∧ t = { s with waves := t.waves, cores := t.cores } ∧
       t.waves.get id = (s.waves.get id).setGather (some { g with
         arrived := g.arrived ++ ls.map fun l => (l, v)
         awaited := g.awaited.filter fun e => e.2 != x }) ∧
       (∀ w, w ≠ id → t.waves.get w = s.waves.get w) ∧
       (∀ c, { t.cores.get c with l1 := [] } = { s.cores.get c with l1 := [] }) ∧
       (x.isPeer = false → ∀ l ∈ (t.cores.get (coreOf id)).l1, l.key ≠ x.key / 256 * 256)) ∧
  ∀ (f : Form) (s : State) (g : Gather), vecReady s (.ldg f) f = true → s.me.vec.gather = some g → g.awaited = [] →
    (g.arrived.map Prod.fst).Nodup → (∀ e ∈ g.arrived, e.1 < 64) →
    ∃ t, exec (.ldg f) s = .next t ∧ OnlyMeAcq s t ∧ Acquired s t f ∧
      VecPast (s.modMe fun w => { w.setGather none with since := t.me.since }) t (.ldg f) ∧
      t.me.vec.p = s.me.vec.p ∧ t.me.vec.sr = s.me.vec.sr ∧
      LanesHold s t f.type f.d.toNat (maskOf (g.arrived.map Prod.fst)) fun l =>
        ((g.arrived.find? fun e => e.1 == l).map Prod.snd).getD 0

/-- `atom`: the lanes on local, device or host memory step their words one after another in lane order; a lane at a peer
sends its request when those of the lower lanes have been answered, and the access waits, checked once, with no word of this
package stepped before the last answer. Each lane holds the value its word had before (R265, R266). That the lanes at a
peer come before those here is the model's choice (log entry 6). -/
def Obligations.VectorAtomics : Prop :=
  ∀ (i : Instr) (f : Form) (op : AtomOp) (s : State) (els : List Element), atomRow i = some (f, op) →
    vecReady s i f = true → membersDistinct s →
    let ty := f.type
    let loc := localBit f
    let width := if ty.is64 then 2 else 1
    let A := active s f
    let xy (l : Nat) : Nat × Nat := (s.me.vsrc ty l (.reg f.c.toNat), s.me.vsrc ty l (.reg (f.c.toNat + width)))
    let far := if loc then [] else els.filter Element.isPeer
    let near := if loc then els else els.filter fun e => !e.isPeer
    let slot (e : Element) : Option Remote := s.me.remote.find? fun r => r.owner == 0 && r.lane == e.1 + 1 && r.site == 0
    regsIn s (dstRegs ty f.d.toNat ++ addrRegs f loc ++ dstRegs ty f.c.toNat ++
      (if op = .cas then dstRegs ty (f.c.toNat + width) else [])) = true →
    s.vecElements loc needAtomic ty.bytes (s.me.vecEls f loc false A) = .ok els → els.map (fun e => e.1) = lanesOf A →
    (s.me.vec.access = none → orderReady s loc f [] = true ∧ (loc || !els.any fun e => s.buffered s.cur e) = true) →
    (loc || arrived s) = true →
    (∀ val : Nat → Nat, (∀ e ∈ far, ∃ r v, slot e = some r ∧ r.answer = some (.value v) ∧ val e.1 = v.toNat) →
      let r := atomRun op ty loc xy near (byteIn s)
      ∃ t, exec i s = .next t ∧
        LanesHold s t ty f.d.toNat A (fun l => if far.any (fun e => e.1 == l) then val l else r.1 l) ∧
        (∀ sp a, byteIn t sp a = r.2 sp a) ∧ t.me.vec.p = s.me.vec.p ∧ t.me.ctl = s.me.ctl ∧ Acquired s t f) ∧
    (∀ (done rest : List Element) (e : Element) (pkg pa : Nat), far = done ++ e :: rest → e.2.2 = .peer pkg pa →
      (∀ x ∈ done, ∃ r v, slot x = some r ∧ r.answer = some (.value v)) → slot e = none → s.routed pkg = true →
      ∃ t, exec i s = .next t ∧ KeepsMemory s t ∧ t.me.ctl = s.me.ctl ∧
        Sends s t pkg pa (.atomic op ty (u64 (xy e.1).1) (u64 (xy e.1).2)) ∧
        ∃ a, t.me.vec = { s.me.vec with access := some a } ∧ (s.me.vec.access = none → a.els = els) ∧
          ∀ b, s.me.vec.access = some b → a = b)

/-- `red.o` issues one ordered add a lane under the key of R147 and steps the lane's counter; at its home an add of
level 0 is rounded into its word, or its 1,024 words, and one of level 1 or 2 waits for the commit (R246, R267, R298,
R359). `mcast.st` with a link to the switch hands it one line with its lanes' bytes, one with `.rel` only when the wave's
earlier accesses are performed; the answer is owed to the pair (R257, R269, R270). Without an active lane it does nothing. -/
def Obligations.OrderedAddsAndMulticastStores : Prop :=
  ((∀ (f : Form) (s : State) (els : List Element), vecReady s (.redO f) f = true → arrived s = true →
     regsIn s (f.d.toNat :: addrRegs f false) = true →
     let A := active s f
     s.checkAccess s.cur false needAdd 4 (s.me.vecEls f false true A) (s.checkAdds s.cur 16 (lanesOf A)) = .ok els →
     ∃ t, exec (.redO f) s = .next t ∧
       (t.adds.drop s.adds.length).map (fun a => (a.kern, a.pa, a.key, a.value, a.home)) =
         (els.filterMap fun e => match e.2.2 with
           | .dev pa => some (s.me.id.kern, pa, s.me.addKey e.1 (s.me.vec.seq.get e.1), s.me.getV f.d.toNat e.1, false)
           | _ => none) ∧
       t.adds.take s.adds.length = s.adds ∧
       (∀ l, l < 64 → t.me.vec.seq.get l = s.me.vec.seq.get l + (if A.getLsbD l then 1 else 0)) ∧
       t.me.tape.log = s.me.tape.log + (if s.levelOf s.me = 0 then 0 else 16 * (lanesOf A).length) ∧
       t.me.vec.v = s.me.vec.v ∧ t.me.vec.p = s.me.vec.p ∧ KeepsMemory s t) ∧
   ∀ (id : Nat) (a : HeldAdd) (s : State), s.adds.find? (fun a => a.uid == id && !a.home) = some a →
     (s.adds.any fun b => !b.home && b.ahead a) = false →
     (0 < (s.kernels.get a.kern).desc.level → ∃ t, exec (.orderedAddArrival id) s = .next t ∧ t.mem = s.mem ∧
       t.adds = s.adds.map fun b => if b.uid = id then { b with home := true } else b) ∧
     ((s.kernels.get a.kern).desc.level = 0 → ∃ t, exec (.orderedAddArrival id) s = .next t ∧
       t.adds = s.adds.filter (fun b => b.uid != id) ∧
       let n := if a.tile = [] then 1 else a.tile.length
       (∀ q, q < n → t.mem.readNat (a.pa + 4 * q) 4 = addWord (s.mem.readNat (a.pa + 4 * q) 4)
         (if a.tile = [] then fmtF32.decode a.value.toNat else fmtAx48.decode ((a.tile[q]?).getD 0).toNat)) ∧
       ∀ b, b < a.pa ∨ a.pa + 4 * n ≤ b → t.mem.get b = s.mem.get b)) ∧
  (∀ (f : Form) (s : State) (id l0 a0 : Nat) (r : List (Nat × Nat)), vecReady s (.mcastSt f) f = true →
     let A := active s f
     let els := s.me.vecEls f false false A
     let c := s.ctxOf s.me
     regsIn s (dstRegs f.type f.d.toNat ++ addrRegs f false ++ [f.b.toNat, f.b.toNat + 1] ++ [f.c.toNat]) = true →
     s.uniform A (.reg f.c.toNat) = .ok id → els = (l0, a0) :: r →
     (∀ e ∈ els, e.2 % f.type.bytes = 0 ∧ e.2 / 256 = a0 / 256) → (s.groupFor c id).isSome = true → s.ported = true →
     settled s = true → (f.order = .rel → s.outstanding s.cur = false) →
     ∃ t, exec (.mcastSt f) s = .next t ∧ VecKeeps s t (.mcastSt f) ∧ KeepsMemory s t ∧
       t.fab.lines.get (s.uid + 1) = some
         { wave := s.cur, site := s.me.vecSite, ctx := s.me.id.ctx, job := c.job.num, group := id, off := a0,
           cells := els.flatMap fun e => cellsOf (e.2 % 256) f.type.bytes (s.me.vsrc f.type e.1 (.reg f.d.toNat)),
           tick := s.fab.tick, sent := false, answers := [], remote := [], dest := f.b.toNat, lanes := A,
           stamp := s.epoch, pos := s.me.vec.block, taken := s.me.taken } ∧
       t.fab.outbox = s.fab.outbox ++ [{ dest := 0xFFFF, tick := s.fab.tick, body := .mcast (s.uid + 1) }]) ∧
  ∀ (f : Form) (s : State), vecReady s (.mcastSt f) f = true → active s f = 0 →
    ∃ t, exec (.mcastSt f) s = .next t ∧ OnlyMe s t ∧ VecKeeps s t (.mcastSt f)

/-! ### Matrix engine, page units, tape, render units -/

/-- `zclr` clears a tile, pins one or returns a pinned one to the pool; `zcopy` moves whole rows of lanes between registers
and entries; `pgq` reads the page epoch or the least counter (R278, R297, R300, R345). -/
def Obligations.TilesAndPageCounters : Prop :=
  ∀ (f : Form) (s : State) (tile : Nat),
    let core := coreOf s.cur
    (ctlReady s (.zclr f) = true → s.tileReady (f.optBit 6) f.d.toNat = .ok tile →
      ∃ t, exec (.zclr f) s = .next t ∧ Past s t f.parcels ∧ KeepsS s t [] ∧ KeepsTiles s t core tile ∧
        (t.cores.get core).owner = (s.cores.get core).owner ∧ ∀ q, q < 1024 → entryOf t core tile q = 0) ∧
    (ctlReady s (.zclrPin f) = true → s.tileReady false f.d.toNat = .ok tile →
      s.tileBusy s.cur s.me.issued [256 + f.c.toNat] = false →
      (s.cores.get core).owner.any (fun e => e.2 == .pinned f.c.toNat) = false →
      ∃ t, exec (.zclrPin f) s = .next t ∧ Past s t f.parcels ∧ KeepsS s t [] ∧ KeepsTiles s t core tile ∧
        (∀ q, q < 1024 → entryOf t core tile q = 0) ∧ t.me.tiles.get f.d.toNat = 0 ∧
        ∀ k, (t.cores.get core).owner.get k = if k = tile then .pinned f.c.toNat else (s.cores.get core).owner.get k) ∧
    (ctlReady s (.zclrUnpin f) = true → s.tileReady true f.d.toNat = .ok tile →
      ∃ t, exec (.zclrUnpin f) s = .next t ∧ Past s t f.parcels ∧ KeepsS s t [] ∧
        (t.cores.get core).entries = (s.cores.get core).entries ∧
        ∀ k, (t.cores.get core).owner.get k = if k = tile then .free else (s.cores.get core).owner.get k) ∧
    (ctlReady s (.pgq f) = true →
      ∃ t, exec (.pgq f) s = .next t ∧ CtlDone s t (.pgq f) [f.d.toNat] ∧
        t.me.getS f.d.toNat = kept f.d (u64 (if f.optBit 0 then s.epoch else s.quiet (s.ctxOf s.me)))) ∧
    (let W := s.me.id.width
     let A := active s f
     let step := if f.type = .ax48 then 2 else 1
     let q (j l : Nat) : Nat := (f.b.toNat + j) * W + l
     vecReady s (.zcopy f) f = true → (f.b.toNat + f.c.toNat) * W ≤ 1024 → (∀ l, A.getLsbD l = true → l < W) →
     regsIn s ((List.range (step * f.c.toNat)).map (· + f.d.toNat)) = true →
     s.tileOf s.cur (f.optBit 6) f.a.toNat = .ok tile →
     s.tileBusy s.cur s.me.taken (s.tileKeys s.cur (f.optBit 6) f.a.toNat) = false →
     (f.optBit 0 = true → ∃ t, exec (.zcopy f) s = .next t ∧ VecKeeps s t (.zcopy f) ∧ KeepsTiles s t core tile ∧
       (∀ j l, j < f.c.toNat → A.getLsbD l = true → (entryOf t core tile (q j l)).toNat =
         if f.type = .ax48 then (s.me.getV64 (f.d.toNat + 2 * j) l).toNat % 2 ^ 48
         else fmtAx48.encode rne false (fmtF32.decode (s.me.getV (f.d.toNat + j) l).toNat) % 2 ^ 48) ∧
       ∀ e, (∀ j l, j < f.c.toNat → A.getLsbD l = true → e ≠ q j l) → entryOf t core tile e = entryOf s core tile e) ∧
     (f.optBit 0 = false → ∃ t, exec (.zcopy f) s = .next t ∧ VecDone s t (.zcopy f) ∧ t.me.vec.p = s.me.vec.p ∧
       (∀ j l, j < f.c.toNat → A.getLsbD l = true →
         if f.type = .ax48 then t.me.getV64 (f.d.toNat + 2 * j) l = u64 (entryOf s core tile (q j l)).toNat
         else t.me.getV (f.d.toNat + j) l = u32 ((fmtOf f.type).encode
           { mode := (Rounding.ofCode (f.optBits 4 3)).getD .rne } false
           (fmtAx48.decode (entryOf s core tile (q j l)).toNat))) ∧
       ∀ r l, A.getLsbD l = false ∨ r < f.d.toNat ∨ f.d.toNat + step * f.c.toNat ≤ r → l < 64 →
         t.me.getV r l = s.me.getV r l))

/-- A product that completes leaves in entry i, j of its tile the result on row i of the activations, column j of the plane
and the old entry, changes no other tile, and exchanges the planes unless told to hold them (R279, R293–R295). That result,
for finite operands: the block sum of the 32 exact products, cut and rounded once, in an integer form the exact sum, added
to the entry or, under a scale layout, alone; and the steps of a semiring one after another (R33, R37–R39, R41). That the
block sum of R37 starts from +0 before it is added, and that a semiring takes its products in ascending K, are the model's
choice (log entries 43 and 44). -/
def Obligations.ProductEntries : Prop :=
  ∀ (k : MKind) (c : OpCtx) (ms : List (Nat × Nat)) (s t : State) (tile : Nat) (acts : Acts) (cols : List (List FV)),
    let core := coreOf c.wi
    let p := if c.f.optBit 4 then (s.cores.get core).front else (s.cores.get core).shadow
    s.product k c ms = .ok t → s.tileOf (s.destWave c.wi c.caps.crew) (c.f.optBit 6) c.f.d.toNat = .ok tile →
    s.activations k c ms = .ok acts → planeColumns k (c.f.optBits 8 7) p acts.meta_ = .ok cols →
    p.loaded = true ∧ p.type = c.f.type ∧
    (∀ i j, i < 32 → j < 32 → entryOf t core tile (32 * i + j) = BitVec.ofNat 48
      (mmaEntry k c.f (entryOf s core tile (32 * i + j)).toNat
        (((acts.x[i]?).getD []).map (elemValue c.f.type ((acts.qa[i]?).getD 0))) ((cols[j]?).getD []))) ∧
    (∀ x, x < 1024 * tile ∨ 1024 * tile + 1024 ≤ x →
      (t.cores.get core).entries.get x = (s.cores.get core).entries.get x) ∧
    (∀ x, x ≠ core → t.cores.get x = s.cores.get x) ∧
    (t.cores.get core).front = (if c.f.optBit 4 then (s.cores.get core).front else (s.cores.get core).shadow) ∧
    (t.cores.get core).session = (if c.f.optBit 5 then none else (s.cores.get core).session) ∧ t.mem = s.mem ∧
    t.waves = s.waves ∧
    ∀ (f : Form) (z : Nat) (xs ws : List FV) (a b : List ℚ), xs.map ratOf = a.map some → ws.map ratOf = b.map some →
      let products := List.zipWith (· * ·) a b
      let old := if f.optBits 2 1 = 0 then z else 0
      ((f.type.isFloat = true ∨ f.type = .q4) → k ≠ .semi →
        ∃ blk, BlockSums products blk ∧ AddsAx48 old blk (mmaEntry k f z xs ws)) ∧
      (f.type.isFloat = false → f.type ≠ .q4 → k ≠ .semi → (∀ x ∈ xs ++ ws, ∃ n m, x = .fin n m 0) →
        ∀ y, ratOf (ax z) = some y → RoundsAx48 (y + products.sum) false (mmaEntry k f z xs ws)) ∧
      ∃ cells : Nat → Nat, cells 0 = z ∧ (k = .semi → mmaEntry k f z xs ws = cells (min xs.length ws.length)) ∧
        ∀ n p q, a[n]? = some p → b[n]? = some q → (k = .semi → SemiStep (f.optBits 8 7) (cells n) (cells (n + 1)) p q)

/-- The tape (R346–R349, R361–R365): `tspan` and `tspend` set and clear the open flag at once; `trec` and `tckpt` append one
record whatever the active set; `tpop` takes the newest record, or clears its predicate at a dropped span; `tckpt.get` reads
a checkpoint and consumes nothing; `tstat` reads and changes nothing, its span exact. Where chunks or stubs move to or from
the tape spill, their turn at the range-lock table comes first and no byte outside the places they take is written (R245,
R355). The model's choices (log entry 31, DEDUCED): that these places are as stated, that a spill leaves free bytes in them,
and that a record whose place has since been changed reads as free words; it is stated here for a tape spill left unchanged.
-/
def Obligations.TapeInstructions : Prop :=
  ∀ (f : Form) (s : State),
    let w := s.me
    (∀ i attr refill, (i = .tspan f ∧ attr = f.optBit 0 ∧ refill = false ∨
        i = .tspanRefill f ∧ attr = false ∧ refill = true) → ctlReady s i = true → s.hasShare w = true →
      w.tape.open_ = none →
      ∃ t, exec i s = .next t ∧ OnlyMe s t ∧ Past s t f.parcels ∧ KeepsS s t [f.d.toNat] ∧
        t.me.getS f.d.toNat = kept f.d (u64 (w.tape.count % 2 ^ 32)) ∧
        t.me.tape = { w.tape with
          open_ := some (w.tape.count % 2 ^ 32)
          count := w.tape.count + 1
          pending := w.tape.pending ++ [(w.issued, .begin (w.tape.count % 2 ^ 32) attr refill)] }) ∧
    (ctlReady s (.tspend f) = true → s.hasShare w = true → w.tape.open_.isSome = true →
      ∃ t, exec (.tspend f) s = .next t ∧ OnlyMe s t ∧ Past s t f.parcels ∧ KeepsS s t [] ∧
        t.me.tape = { w.tape with open_ := none, pending := w.tape.pending ++ [(w.issued, .finish)] }) ∧
    (ctlReady s (.tstat f) = true →
      ∃ t, exec (.tstat f) s = .next t ∧ OnlyMe s t ∧ Past s t f.parcels ∧ KeepsS s t [f.d.toNat] ∧
        t.me.getS f.d.toNat = kept f.d
          (u64 ((if f.optBits 2 0 = 3 then w.tape.foresee w.taken w.tape.pending none else w.seen).stat (f.optBits 2 0))) ∧
        t.me.tape = w.tape) ∧
    (∀ i kind t' s', (i = .trec f ∧ kind = (if f.type.is64 then 1 else 0) ∨
        i = .tckpt f ∧ kind = (if f.type.is64 then 3 else 2) ∧ ∀ x, w.seen.top = some x → x.ckpts.length < 16) →
      vecReady s i f = true → s.changed w = [] → regsIn s (dstRegs f.type f.a.toNat) = true → s.hasShare w = true →
      (w.vec.block.bind fun b => b.span).isSome = true →
      let words := (List.range w.id.width).map fun l =>
        if (active s f).getLsbD l then u64 (w.vsrc f.type l (.reg f.a.toNat)) else 0
      w.seen.append (s.shareChunks w) w.spillRoom kind w.id.width f.type.bytes words = .ok t' → s.moveTape t' = .ok s' →
      ∃ t, exec i s = .next t ∧ VecDone s' t i ∧ t.me.tape = { t' with notes := s'.me.tape.notes } ∧ t.me.vec.v = w.vec.v ∧
        t.me.vec.p = w.vec.p ∧ Recorded t.me.tape kind w.id.width f.type.bytes words) ∧
    (∀ x, vecReady s (.tpop f) f = true → s.changed w = [] → regsIn s (dstRegs f.type f.d.toNat) = true →
      s.hasShare w = true → w.seen.top = some x → x.st ≠ .open_ →
      (x.st = .dropped → ∃ t, exec (.tpop f) s = .next t ∧ VecDone s t (.tpop f) ∧ t.me.vec.v = w.vec.v ∧
        PredHolds s t f.b.toNat (active s f) 0) ∧
      ∀ r x' s', x.st ≠ .dropped → x.data.getLast? = some r → w.seen.fill (s.shareChunks w) x r = .ok x' →
        r.kind = (if f.type.is64 then 1 else 0) → s.moveTape (w.seen.pop x' r) = .ok s' →
        ∃ t, exec (.tpop f) s = .next t ∧ VecDone s' t (.tpop f) ∧
          t.me.tape = { w.seen.pop x' r with notes := s'.me.tape.notes } ∧
          PredHolds s t f.b.toNat (active s f) (active s f) ∧
          LanesHold s t f.type f.d.toNat (active s f) fun l => ((r.words[l]?).getD 0).toNat) ∧
    (∀ t', let k := commonFoot w.tape.places t'.places
      let n := t'.places.length - k
      let va := w.placeAt k
      let moved := 256 * (max w.tape.places.length t'.places.length - k)
      let who := lockAsker s.cur true
      let turn := s.lockTurn who w.id.ctx [mkLock 2 false w.id.ctx va moved (decide (k < t'.places.length)) 0]
      (t'.places = w.tape.places → s.moveTape t' = .ok (s.setTape t')) ∧
      (t'.places ≠ w.tape.places → turn = false →
        s.moveTape t' = .error (.wait .other (some (s.joinLockq who w.id.ctx)))) ∧
      ∀ pa, t'.places ≠ w.tape.places → turn = true → s.feHeld (s.ctxOf w) va moved = false → va + 256 * n ≤ 2 ^ 64 →
        deviceFixed s va (256 * n) pa → k ≤ t'.notes.length →
        ∃ s', s.moveTape t' = .ok s' ∧
          s'.me.tape = { t' with notes := t'.notes.take k ++ (List.range n).map fun i => some (s.free + 256 * i) } ∧
          ∀ b, s'.mem.get b =
            if pa ≤ b ∧ b < pa + 256 * n then (Config.freeValue (s.free + (b - pa))).setWidth 8 else s.mem.get b) ∧
    ∀ x r, vecReady s (.tckptGet f) f = true → s.changed w = [] → regsIn s (dstRegs f.type f.d.toNat) = true →
      s.hasShare w = true →
      w.seen.top = some x → x.ckpts[f.c.toNat]? = some r → r.kind = (if f.type.is64 then 3 else 2) →
      ∃ t, exec (.tckptGet f) s = .next t ∧ VecDone (s.setTape w.seen) t (.tckptGet f) ∧ t.me.vec.p = w.vec.p ∧
        LanesHold s t f.type f.d.toNat (active s f) fun l => ((r.words[l]?).getD 0).toNat

/-- `attn.step` folds the included slots of its page into m, l and the accumulator, and changes nothing where no slot is
included or the new m is −infinity; `attn.mass` issues one ordered add a slot; either does nothing with no lane active
(R340–R342). -/
def Obligations.AttentionSteps : Prop :=
  ∀ (f : Form) (s : State) (x : Attn),
    let A := active s f
    let w := s.me
    (A = 0 → ∀ i ∈ [Instr.attnStep f, Instr.attnMass f], vecReady s i f = true →
      ∃ t, exec i s = .next t ∧ OnlyMe s t ∧ VecKeeps s t i) ∧
    (regsIn s (attnRegs f) = true → A ≠ 0 → s.attnReads f A = .ok x →
    (vecReady s (.attnStep f) f = true →
      let mn := x.slots.foldl (fun m e => f32Max m (w.score f x e.k)) x.m
      (x.slots = [] ∨ mn = 0xFF800000 →
        ∃ t, exec (.attnStep f) s = .next t ∧ OnlyMe s t ∧ VecKeeps s t (.attnStep f)) ∧
      (x.slots ≠ [] → mn ≠ 0xFF800000 →
        let scale := f32Exp2 (f32Sub x.m mn)
        let p (e : Slot) : W32 := f32Exp2 (f32Sub (w.score f x e.k) mn)
        let ln := x.slots.foldl (fun a e => f32Add a (p e)) (f32Mul x.l scale)
        let acc (l : Nat) : W32 :=
          x.slots.foldl (fun a e => f32Fma (p e) ((e.v[l]?).getD 0) a) (f32Mul (w.getV f.d.toNat l) scale)
        (s.nfOn = true → fmtF32.nonFinite ln.toNat = false ∧
          ∀ l ∈ lanesOf A, l < x.hdr.dim → fmtF32.nonFinite (acc l).toNat = false) →
        ∃ t, exec (.attnStep f) s = .next t ∧ VecDone s t (.attnStep f) ∧ t.me.vec.p = w.vec.p ∧
          ∀ l, l < 64 →
            (A.getLsbD l = true →
              t.me.getV (f.d.toNat + 1) l = mn ∧
              t.me.getV (f.d.toNat + 2) l = ln ∧
              t.me.getV f.d.toNat l = if l < x.hdr.dim then acc l else w.getV f.d.toNat l) ∧
            ∀ r, A.getLsbD l = false ∨ r < f.d.toNat ∨ f.d.toNat + 2 < r → t.me.getV r l = w.getV r l)) ∧
    (vecReady s (.attnMass f) f = true →
      (x.m = 0xFF800000 ∨ x.l = 0 → ∃ t, exec (.attnMass f) s = .next t ∧ OnlyMe s t ∧ VecKeeps s t (.attnMass f)) ∧
      ∀ els, x.m ≠ 0xFF800000 → x.l ≠ 0 →
        s.checkAccess s.cur false needAdd 4 (x.slots.map fun e => (e.t, x.info + 4 * e.t))
          (s.checkAdds s.cur 16 (x.slots.map Slot.t)) = .ok els → arrived s = true →
        ∃ t, exec (.attnMass f) s = .next t ∧ KeepsMemory s t ∧ t.me.vec.v = w.vec.v ∧
          (t.adds.drop s.adds.length).map (fun a => (a.pa, a.value)) =
            ((els.zip x.slots).filterMap fun e => match e.1.2.2 with
              | .dev pa => some (pa, f32Div (f32Exp2 (f32Sub (w.score f x e.2.k) x.m)) x.l)
              | _ => none)))

/-- The render units, each lane by its own record of the spec: `tex`, `isect`, `trav`, `bary` and the probe of `esmp` leave
their words in consecutive registers; `trav` and `isect` note the lanes that hit, and a missing lane keeps tmax with +0, +0
(R366, R374, R381–R385, R389). -/
def Obligations.RenderResults : Prop :=
  ∀ (f : Form) (s : State),
    let A := active s f
    let w := s.me
    let misses (l : Nat) : List Nat := [(w.getV (f.a.toNat + 7) l).toNat, 0, 0]
    (∀ (val : Nat → Nat × List Nat) (regs : List Nat), vecReady s (.tex f) f = true →
      regsIn s (f.d.toNat :: texRegs f) = true → s.checkChannels f false A = .ok regs → w.fragHeld regs = false →
      (∀ l ∈ lanesOf A, s.texLane f l = .ok (val l)) →
      wordsFinite s A (fun l => (val l).2) = true →
      ∃ t, exec (.tex f) s = .next t ∧ VecDone s t (.tex f) ∧ t.me.vec.p = w.vec.p ∧
        RegsHold s t f.d.toNat A fun l => (val l).2) ∧
    (∀ val : Nat → List Nat, vecReady s (.bary f) f = true →
      regsIn s (regRange f.d.toNat (if f.optBit 5 then f.optBits 8 6 + 1 else 3) ++
        [f.a.toNat, f.b.toNat, f.b.toNat + 1, f.c.toNat]) = true →
      (∀ l ∈ lanesOf A, s.baryLane f l = .ok (val l)) → wordsFinite s A val = true →
      ∃ t, exec (.bary f) s = .next t ∧ VecDone s t (.bary f) ∧ t.me.vec.p = w.vec.p ∧ RegsHold s t f.d.toNat A val) ∧
    (∀ val : Nat → EdgeSample, vecReady s (.esmp f) f = true → f.optBit 0 = false →
      regsIn s (regRange f.d.toNat 4 ++ [f.a.toNat, f.b.toNat, f.b.toNat + 1, f.c.toNat]) = true →
      (∀ l ∈ lanesOf A, s.esmpLane f l = .ok (val l)) → wordsFinite s A (fun l => (val l).probe) = true →
      ∃ t, exec (.esmp f) s = .next t ∧ VecDone s t (.esmp f) ∧ t.me.vec.p = w.vec.p ∧
        RegsHold s t f.d.toNat A fun l => (val l).probe) ∧
    (∀ (sc : Nat → Scene) (hit : Nat → Option (Rational × Rational × Rational)), vecReady s (.isect f) f = true →
      regsIn s (regRange f.d.toNat 3 ++ regRange f.a.toNat 8 ++ [f.b.toNat, f.b.toNat + 1, f.c.toNat]) = true →
      (∀ l ∈ lanesOf A, s.scene f l = .ok (sc l) ∧ (w.getV f.c.toNat l).toNat < (sc l).ntris ∧
        match w.ray f l with
        | none => hit l = none
        | some r => ∃ v, s.triVerts l (sc l) (w.getV f.c.toNat l).toNat = .ok v ∧ hit l = triHit r v) →
      wordsFinite s A (fun l => ((hit l).map hitWords).getD []) = true →
      ∃ t, exec (.isect f) s = .next t ∧ VecDone s t (.isect f) ∧
        PredHolds s t (f.optBits 3 0) A (maskWhere A fun l => (hit l).isSome) ∧
        RegsHold s t f.d.toNat A fun l => ((hit l).map hitWords).getD (misses l)) ∧
    ∀ (hit : Nat → Option Hit) (s1 : State), vecReady s (.trav f) f = true →
      regsIn s (regRange f.d.toNat 4 ++ regRange f.a.toNat 8 ++ [f.b.toNat, f.b.toNat + 1]) = true →
      (∀ l ∈ lanesOf A, s.travLane f l = .ok (hit l)) →
      wordsFinite s A (fun l => ((hit l).map fun h => hitWords h.2).getD []) = true →
      let words (l : Nat) : List Nat := ((hit l).map fun h => h.1 :: hitWords h.2).getD (0xFFFFFFFF :: misses l)
      (f.optBit 4 = false ∧ s1 = s ∨ f.optBit 4 = true ∧ s.changed w = [] ∧
        s.travRecords ((lanesOf A).map fun l => (l, words l)) = .ok s1) →
      ∃ t, exec (.trav f) s = .next t ∧ VecDone s1 t (.trav f) ∧
        PredHolds s t (f.optBits 3 0) A (maskWhere A fun l => (hit l).isSome) ∧ RegsHold s t f.d.toNat A words

/-- The adjoints issue their ordered adds lane by lane, every check of every lane first: `texadj` and `isectadj` leave
their own results too, `baryadj` and the term of `esmp` nothing; `isectadj` takes four records of the tape, or clears its
predicate at a dropped span (R367, R386–R389). -/
def Obligations.RenderAdjoints : Prop :=
  ∀ (f : Form) (s : State) (go : State → State),
    let A := active s f
    (∀ (val : Nat → Nat × List (Nat × Nat) × List Nat) (regs : List Nat), vecReady s (.texadj f) f = true →
      regsIn s (f.d.toNat :: (f.d.toNat + 1) :: texRegs f) = true →
      s.checkChannels f true A = .ok regs → s.ackPending regs = false →
      (∀ l ∈ lanesOf A, s.texadjLane f l = .ok (val l)) →
      s.renderAdds ((lanesOf A).flatMap fun l => (val l).2.1.map fun a => (l, a.1, a.2)) = .ok go →
      wordsFinite s A (fun l => (val l).2.2) = true → arrived s = true →
      ∃ t, exec (.texadj f) s = .next t ∧ t.adds = (go s).adds ∧ KeepsMemory s t ∧ t.me.vec.p = s.me.vec.p ∧
        RegsHold s t f.d.toNat A fun l => (val l).2.2) ∧
    (∀ val : Nat → List (Nat × Nat), vecReady s (.baryadj f) f = true →
      regsIn s (regRange f.d.toNat (f.optBits 8 6 + 1) ++ [f.a.toNat, f.b.toNat, f.b.toNat + 1, f.c.toNat]) = true →
      (∀ l ∈ lanesOf A, s.baryadjLane f l = .ok (val l)) →
      s.renderAdds ((lanesOf A).flatMap fun l => (val l).map fun a => (l, a.1, a.2)) = .ok go →
      exec (.baryadj f) s = .next (vleave s (go s) (.baryadj f))) ∧
    (∀ val : Nat → EdgeSample, vecReady s (.esmp f) f = true → f.optBit 0 = true →
      regsIn s [f.d.toNat, f.a.toNat, f.b.toNat, f.b.toNat + 1, f.c.toNat] = true →
      (∀ l ∈ lanesOf A, s.esmpLane f l = .ok (val l) ∧ renderAligned l (val l).t.grad 64 = .ok ()) →
      s.renderAdds ((lanesOf A).flatMap fun l =>
        ((val l).term (f32X (s.me.getV f.d.toNat l).toNat)).map fun a => (l, a.1, a.2)) = .ok go →
      exec (.esmp f) s = .next (vleave s (go s) (.esmp f))) ∧
    (let regs := regRange f.d.toNat 6 ++ regRange f.a.toNat 8 ++ [f.b.toNat, f.b.toNat + 1] ++ regRange f.c.toNat 3
     vecReady s (.isectadj f) f = true → s.changed s.me = [] → regsIn s regs = true →
     (s.popFour = .ok none → ∃ t, exec (.isectadj f) s = .next t ∧ VecDone s t (.isectadj f) ∧
       t.me.vec.v = s.me.vec.v ∧ PredHolds s t (f.optBits 3 0) A 0) ∧
     ∀ (recs : List Record) (tape : Tape) (s' : State) (val : Nat → List Nat × List (Nat × Nat)),
       s.popFour = .ok (some (recs, tape)) → s.moveTape tape = .ok s' →
       (∀ l ∈ lanesOf A, s.isectadjLane f recs l = .ok (val l)) →
       s.renderAdds ((lanesOf A).flatMap fun l => (val l).2.map fun a => (l, a.1, a.2)) = .ok go →
       wordsFinite s A (fun l => (val l).1) = true → arrived s = true →
       ∃ t, exec (.isectadj f) s = .next t ∧ t.adds = (go s').adds ∧ KeepsMemory s' t ∧
         t.me.tape = { tape with notes := s'.me.tape.notes, log := (go s').me.tape.log } ∧
           PredHolds s t (f.optBits 3 0) A A ∧
         RegsHold s t f.d.toNat A fun l => (val l).1)

/-! ### Contexts -/

/-- The commands of `ctx.cmd`: ignored before the partition is ready; refused with cmderr while the context is busy or in a
state that does not accept them; else each does what Table 4.2 has it do (R89–R94, R98, R117, R422). The model's choices: a
descriptor or placement list that cannot be read is refused (log entry 66); so is a placement list of more than 8 pairs for
a light context (log entry 72); what DESTROY leaves of the queues, their packets and the other operations of its context
(log entry 70). -/
def Obligations.ContextCommands : Prop :=
  (∀ (i : Instr) (s : State) (ci : Nat) (sts : List CtxSt), commandRow i = some (ci, sts) →
    (s.dv.pg = false → exec i s = .next s) ∧
    (s.dv.pg = true → (s.ctxs.get ci).busy = true ∨ (s.ctxs.get ci).st ∉ sts →
      ∃ t, exec i s = .next t ∧ OnlyCtx s t ci ∧
        t.ctxs.get ci = { s.ctxs.get ci with cmderr := true, cmd := (t.ctxs.get ci).cmd })) ∧
  ∀ (s : State) (ci : Nat) (arg : BitVec 52), s.dv.pg = true → (s.ctxs.get ci).busy = false →
    let c := s.ctxs.get ci
    let d := s.sysRead (4096 * arg.toNat) 256
    let described (b : List Byte) : Prop := (s.describe b).2 = true ∧
      ∀ e ∈ s.ctxs, e.1 ≠ ci → e.2.st ≠ .empty → (s.describe b).1.overlaps e.2 = false
    (∀ b, c.st = .empty → d = some b → described b →
      ∃ t, exec (.create ci arg) s = .next t ∧ OnlyCtx s t ci ∧ (t.ctxs.get ci).st = .ready ∧
        (t.ctxs.get ci).busy = false ∧ (t.ctxs.get ci).cmderr = c.cmderr ∧ (t.ctxs.get ci).level = fieldOf b 1 1 ∧
        (t.ctxs.get ci).light = (fieldOf b 2 1).testBit 0 ∧ (t.ctxs.get ci).page = { c.page with doing := .none } ∧
        (t.ctxs.get ci).pgroot = fieldOf b 8 8 ∧ (t.ctxs.get ci).savebase = u64 (fieldOf b 0x10 8) ∧
        (t.ctxs.get ci).evrec = u64 (fieldOf b 0x18 8) ∧ (t.ctxs.get ci).pairs = bitmapOf ((b.drop 0x20).take 96) ∧
        (t.ctxs.get ci).ways = bitmapOf ((b.drop 0x80).take 48) ∧
        (t.ctxs.get ci).pcgroups = bitmapOf ((b.drop 0xB0).take 32)) ∧
    (c.st = .empty → (∀ b, d = some b → ¬ described b) →
      ∃ t, exec (.create ci arg) s = .next t ∧ OnlyCtx s t ci ∧ (t.ctxs.get ci).st = .empty ∧
        (t.ctxs.get ci).cmderr = true) ∧
    (c.st ∈ [CtxSt.ready, .running] → ∀ release : Bool,
      ∃ t, exec (if release then .suspendRelease ci else .suspend ci) s = .next t ∧
        t = { s with ctxs := t.ctxs, queues := t.queues } ∧ (∀ x, x ≠ ci → t.ctxs.get x = s.ctxs.get x) ∧
        t.ctxs.get ci = { c with st := .suspending, busy := true, release, cmd := u64 (if release then 0x102 else 2) } ∧
        QueuesOf s t ci heldQueue) ∧
    (c.st = .suspended →
      (c.pairs ≠ [] → ∃ t, exec (.resume ci arg) s = .next t ∧ OnlyCtx s t ci ∧
        t.ctxs.get ci = { c with st := .restoring, busy := true, place := [], cmd := u64 (4096 * arg.toNat + 3) }) ∧
      (c.pairs = [] → (∀ b, s.sysRead (4096 * arg.toNat) 96 = some b → (c.light = true → (bitmapOf b).length ≤ 8) →
        ∃ t, exec (.resume ci arg) s = .next t ∧ OnlyCtx s t ci ∧ t.ctxs.get ci =
          { c with st := .restoring, busy := true, place := bitmapOf b, cmd := u64 (4096 * arg.toNat + 3) }) ∧
        ((∀ b, s.sysRead (4096 * arg.toNat) 96 = some b → c.light = true ∧ 8 < (bitmapOf b).length) →
          ∃ t, exec (.resume ci arg) s = .next t ∧ OnlyCtx s t ci ∧ (t.ctxs.get ci).st = .suspended ∧
            (t.ctxs.get ci).cmderr = true))) ∧
    (c.st = .halted → c.levelQ = none →
      ∃ t, exec (.releaseCtx ci) s = .next t ∧ (t.ctxs.get ci).pairs = c.pairs ∧ t.mem = s.mem ∧
        if c.pairs = [] then (t.ctxs.get ci).st = .suspended ∧ (t.ctxs.get ci).save = none ∧ t.queues = s.queues
        else (t.ctxs.get ci).st = .ready ∧ QueuesOf s t ci freedQueue) ∧
    (c.st ∈ [CtxSt.ready, .suspended, .halted] →
      ∃ t, exec (.destroy ci) s = .next t ∧ (t.ctxs.get ci).st = .destroying ∧ (t.ctxs.get ci).busy = true ∧
        (t.ctxs.get ci).save = none ∧ (t.ctxs.get ci).jobst = 0 ∧ (t.ctxs.get ci).dieAt = s.epoch ∧ KernelsEnd t ci ∧
        ∀ j, j < 16 → (t.queues.get (16 * ci + j)).st = .disabled ∧ (t.queues.get (16 * ci + j)).enable = false ∧
          (t.queues.get (16 * ci + j)).packets = [])

/-- Freeze, save, restore, the end of a destroyed context, an overrun, the hang detector, an engine's reset and a level
change each take place where their condition holds (R89, R97–R104, R110, R131, R302, R316). The model's choices: store
queues drained at a freeze and the core's stores on their way (log entry 6); what goes on for a pending operation at level 0
before it (log entry 77); the places a save keeps and restores by number (log entry 56) and the cores a context then has
(log entry 3); a failing check word before a misfit (log entry 72); when the idle rule's span runs and what a wave waits for
(log entry 58); what an engine's reset leaves, and from when its time counts (log entry 59). -/
def Obligations.ContextEvents : Prop :=
  ∀ (s : State) (ci : Nat),
    let c := s.ctxs.get ci
    let cores := coresOf c.pairs
    let mine (e : Nat × Gang) : Prop := e.2.ctx = ci
    (c.st = .suspending → (∀ e ∈ s.gangs, mine e → s.frozenGang e.2 = true) →
      ((∃ w ∈ s.wavesIn ci, (s.waves.get w).stq ≠ []) →
        ∃ t, exec (.frozenOrSaved ci) s = .next t ∧ (t.ctxs.get ci).st = .suspending ∧
          ∀ w ∈ s.wavesIn ci, (t.waves.get w).stq = []) ∧
      ((∀ w ∈ s.wavesIn ci, (s.waves.get w).stq = []) → (∃ k ∈ cores, (s.cores.get k).wcb ≠ []) →
        ∃ t, exec (.frozenOrSaved ci) s = .next t ∧ (t.ctxs.get ci).st = .suspending ∧
          ∀ k ∈ cores, (t.cores.get k).wcb = []) ∧
      ((∀ w ∈ s.wavesIn ci, (s.waves.get w).stq = [] ∧ (s.cores.get (coreOf w)).out = []) →
        (∀ k ∈ cores, (s.cores.get k).wcb = [] ∧ s.drainsOut k = false) →
        ∃ t, exec (.frozenOrSaved ci) s = .next t ∧ (t.ctxs.get ci).st = .suspended ∧ (t.ctxs.get ci).busy = false ∧
          t.mem = s.mem ∧ t.kernels = s.kernels ∧
          (c.release = false → t.gangs = s.gangs ∧ t.cores = s.cores ∧ (t.ctxs.get ci).pairs = c.pairs ∧
            ∀ w, (t.waves.get w).ctl = (s.waves.get w).ctl ∧ (t.waves.get w).vec = (s.waves.get w).vec) ∧
          (c.release = true → (t.ctxs.get ci).pairs = [] ∧ (∀ k ∈ cores, t.cores.get k = default) ∧
            ∀ w ∈ s.wavesIn ci, (t.waves.get w).st = .free ∧ ∃ x e, (t.ctxs.get ci).save = some x ∧ e ∈ x.waves ∧
              RestoredWave (s.waves.get w) e.2))) ∧
    (c.st = .restoring → c.levelQ = none →
      (c.pairs ≠ [] → ∀ bad, ∃ t, exec (.restoreComplete ci bad) s = .next t ∧ (t.ctxs.get ci).busy = false ∧
        (t.ctxs.get ci).st = (if t.gangs.any (fun e => e.2.ctx == ci) then .running else .ready) ∧
        QueuesOf s t ci freedQueue) ∧
      (c.pairs = [] → (∀ a, ∃ t, exec (.restoreComplete ci (some a)) s = .next t ∧ Halts t ci 0x44) ∧
        (∀ info pair, s.misfit ci = some (info, pair) →
          ∃ t, exec (.restoreComplete ci none) s = .next t ∧ (t.ctxs.get ci).st = .suspended ∧
            (t.ctxs.get ci).busy = false ∧ (t.ctxs.get ci).save = c.save ∧ (t.ctxs.get ci).evpend = true ∧
            (t.ctxs.get ci).evcode = 0x42 ∧ EventRecorded s t ci 0x42 pair info) ∧
        (s.misfit ci = none →
          ∃ t, exec (.restoreComplete ci none) s = .next t ∧ (t.ctxs.get ci).busy = false ∧
            (t.ctxs.get ci).pairs = sortNat c.place ∧ (t.ctxs.get ci).save = none ∧ QueuesOf s t ci freedQueue ∧
            ∀ x, c.save = some x → c.place.Nodup → (x.waves.map Prod.fst).Nodup →
              (∀ e ∈ x.waves, e.1 / 64 < c.place.length) → ∀ e ∈ x.waves, ∀ p, (sortNat c.place)[e.1 / 64]? = some p →
              RestoredWave e.2 (t.waves.get (64 * p + e.1 % 64))))) ∧
    (c.st = .destroying → (∀ e ∈ s.gangs, ¬ mine e) → (∀ r ∈ s.late, r.ctx ≠ ci) → c.dieAt < s.quiet c →
      ∃ t, exec (.quiesced ci) s = .next t ∧ (∀ x, x ≠ ci → t.ctxs.get x = s.ctxs.get x) ∧ t.mem = s.mem ∧
        t.ctxs.get ci = { (default : Ctx) with
          cmd := c.cmd, cmderr := c.cmderr, evpend := c.evpend, evcode := c.evcode, overrun := c.overrun,
          page := { c.page with doing := .none } }) ∧
    (∀ gi wg, let g := s.gangs.get gi
      let d := (s.kernels.get g.kern).desc
      g.ctx = ci → g.st ∈ [GangSt.resident, .granted] → d.level ≠ 0 → c.st = .suspending → wg < d.gangwg →
      0 < g.starts.get wg → wg ∉ g.stops → g.starts.get wg + d.maxgc ≤ s.own + 1 →
      let ms := g.wgMembers d.wgwaves wg
      (∃ m ∈ ms, m ∉ g.exited) →
      ∃ t, exec (.overrunStop gi wg) s = .next t ∧ t.gangs.get gi = { g with stops := g.stops ++ [wg] } ∧
        (t.ctxs.get ci).overrun = true ∧ (t.ctxs.get ci).st = .suspending ∧ t.kernels = s.kernels ∧
        (∀ w, (t.waves.get w).ctl = (s.waves.get w).ctl ∧ (t.waves.get w).vec = (s.waves.get w).vec) ∧
        ((∀ m ∈ ms, ∀ w, g.waves[m]? = some w → (s.waves.get w).stq = [] ∧ (s.cores.get (coreOf w)).out = []) →
          t.ctxs.get ci = { c with overrun := true } ∧ t.mem = s.mem ∧ t.cores = s.cores)) ∧
    (∀ w, (s.waves.get w).st = .running → (s.waves.get w).id.ctx = ci → s.goesOn (s.waves.get w) = true →
      (s.waitOf w).code ≠ 0 →
      s.reaches w (s.waves.length + 1) [w] = true ∨ s.idle ci = true →
      ∃ t, exec (.hang ci w) s = .next t ∧ Halts t ci 0x40) ∧
    (∀ core pc, s.ctxs.find (fun _ x => x.pairs.contains (pairOfCore core)) = some (ci, c) →
      (∃ k, k < 32 ∧ ∃ o ∈ (s.waves.get (32 * core + k)).ctl.ops, o.site = pc ∧
        s.atEngine (32 * core + k) o = true ∧ max o.since (s.cores.get core).opened + 2 ^ 24 ≤ s.own) →
      ∃ t, exec (.matrixReset core pc) s = .next t ∧ (t.ctxs.get ci).evcode = 0x41 ∧ (t.ctxs.get ci).evpend = true ∧
        (∀ q, (t.cores.get core).entries.get q = 0) ∧ (t.cores.get core).session = none ∧
        (t.cores.get core).front.loaded = false ∧ (t.cores.get core).shadow.loaded = false ∧
        (c.mrAbort = true → c.st.haltable = true → (t.ctxs.get ci).st = .halted)) ∧
    (∀ q n, c.levelQ = some (q, n) → c.st ∈ [CtxSt.ready, .running] → (∀ e ∈ s.gangs, ¬ mine e) →
      (∀ e ∈ s.kernels, e.2.ctx = ci → e.2.live = false) → (∀ e ∈ s.graphs, e.2.ctx = ci → e.2.live = false) →
      ∃ t, exec (.levelComplete ci) s = .next t ∧ (t.ctxs.get ci).level = n ∧ (t.ctxs.get ci).levelQ = none ∧
        ∀ j, j < 16 → j ≠ q → t.queues.get (16 * ci + j) = freedQueue (s.queues.get (16 * ci + j)))

/-! ### Queues -/

/-- A queue's control and status writes do what Table 5.2 has them do, and a published line is fetched, checked and becomes
the head packet, or the queue goes to Error with its code (R120–R125, R127, R422). The model's choices: enable := 0 with
nothing outstanding goes to Disabled without showing Stopping and keeps errcode until the next enable (log entry 70); an
error that an enclosing hold keeps back (log entry 75); the error of a word or line that cannot be read (log entry 25). -/
def Obligations.QueueControls : Prop :=
  ∀ (s : State) (ctx q : Nat) (prio : BitVec 3),
    let qi := 16 * ctx + q
    let x := s.queues.get qi
    let fails (t : State) (e : Nat) : Prop := t.queues.get qi = { x with st := .error, errcode := e, errpend := true }
    (∃ t, exec (.queueEnable ctx q prio) s = .next t ∧ OnlyQueue s t qi ∧
      (s.dv.fe = false → t.queues.get qi = { x with cmderr := true }) ∧
      (s.dv.fe = true → (t.queues.get qi).prio = prio.toNat ∧ (t.queues.get qi).enable = true ∧
        (x.st = .disabled → (t.queues.get qi).st = .idle ∧ (t.queues.get qi).headseq = 0 ∧ (t.queues.get qi).errcode = 0) ∧
        (x.st ≠ .disabled → t.queues.get qi = { x with prio := prio.toNat, enable := true }))) ∧
    (∃ t, exec (.queueDisable ctx q prio) s = .next t ∧ OnlyQueue s t qi ∧ (t.queues.get qi).prio = prio.toNat ∧
      (t.queues.get qi).enable = false ∧ (t.queues.get qi).packets = x.packets ∧
      (x.st ∈ [QueueSt.idle, .error, .disabled] → (t.queues.get qi).st = .disabled) ∧
      (x.st ∈ [QueueSt.active, .waiting, .held] → (t.queues.get qi).st =
        if x.packets.all fun p => p.done then .disabled else .stopping) ∧
      (x.st = .stopping → (t.queues.get qi).st = .stopping)) ∧
    (x.errpend = false → ∃ t, exec (.errpendClear ctx q) s = .next t ∧ OnlyQueue s t qi ∧ t.queues.get qi = x) ∧
    (x.errpend = true → ∃ t, exec (.errpendClear ctx q) s = .next t ∧ OnlyQueue s t qi ∧ (t.queues.get qi).errpend = false ∧
      (t.queues.get qi).failed = false ∧ (∀ p ∈ (t.queues.get qi).packets, p.counted = false) ∧
      (x.st = .error → (t.queues.get qi).st = .idle ∧ (t.queues.get qi).errcode = 0 ∧
        (t.queues.get qi).seen = x.headseq ∧ (t.queues.get qi).headseq = x.headseq) ∧
      (x.st ≠ .error → (t.queues.get qi).st = x.st ∧ (x.st = .held → x.prior = .error → (t.queues.get qi).prior = .idle))) ∧
    (x.st ∈ [QueueSt.idle, .active] → x.line = none → (s.ctxs.get ctx).admits = true → x.seen ≤ x.headseq →
      s.feHeld (s.ctxs.get ctx) x.tail.toNat 8 = true → exec (.tailAdvance ctx q) s = .next s) ∧
    (x.st ∈ [QueueSt.idle, .active] → x.line = none → (s.ctxs.get ctx).admits = true →
      x.headseq < x.seen ∨ s.feHeld (s.ctxs.get ctx) x.tail.toNat 8 = false →
      ∀ tail, tail = (if x.headseq < x.seen then some x.seen else (s.feRead (s.ctxs.get ctx) x.tail.toNat 8).map ofBytesLE) →
        (tail = none → ∃ t, exec (.tailAdvance ctx q) s = .next t ∧ OnlyQueue s t qi ∧ fails t 4) ∧
        ∀ n, tail = some n →
          (n < x.headseq ∨ 2 ^ 32 < n - x.headseq →
            ∃ t, exec (.tailAdvance ctx q) s = .next t ∧ OnlyQueue s t qi ∧ fails t 5) ∧
          (n = x.headseq → exec (.tailAdvance ctx q) s = .next s) ∧
          (x.headseq < n → n - x.headseq ≤ 2 ^ 32 → s.feHeld (s.ctxs.get ctx) x.head.toNat 256 = false →
            (∀ b, s.feRead (s.ctxs.get ctx) x.head.toNat 256 = some b → fieldOf b 0 1 = 1 →
              s.feHeld (s.ctxs.get ctx) (fieldOf b 0x18 8) 64 = false) →
            ∃ t, exec (.tailAdvance ctx q) s = .next t ∧ OnlyQueue s t qi ∧
              match s.feRead (s.ctxs.get ctx) x.head.toNat 256 with
              | none => fails t 4
              | some b =>
                match s.checkLine (s.ctxs.get ctx) ((x.headseq + 1) % 2 ^ 32) b with
                | .error e => fails t e
                | .ok l => t.queues.get qi = { x with st := .active, seen := n, line := some l, since := 0 }))

/-- The head packet of a queue starts when its dependences hold, from Active or from Waiting, and does what its type says;
else the queue waits. A WAIT may time out, and a FENCE, whose earlier packets had completed when it started, completes when
the posts their graphs sent into peer windows are performed (R122, R126–R131). The model's choices: the time-out is counted
in the queue's own cycles (R428; log entry 62); what a SIGNAL to a peer, or with a fault, gives (log entry 53); the error of
a word that cannot be read (log entry 25). -/
def Obligations.PacketsStart : Prop :=
  (∀ (s : State) (ctx q : Nat) (p : Packet), let x := s.queues.get (16 * ctx + q)
    x.packets.find? (fun p => decide (p.type = 5) && !p.done) = some p → p.cmpl = 0 →
    ((∀ y ∈ (s.ctxs.get ctx).posts, p.seq / 2 ^ 32 ≤ y.1) → ∃ t, exec (.fenceComplete ctx q) s = .next t ∧
      OnlyQueue s t (16 * ctx + q) ∧ (t.queues.get (16 * ctx + q)).packets =
        x.packets.map fun y => if y.seq = p.seq then { y with done := true } else y) ∧
    ((∃ y ∈ (s.ctxs.get ctx).posts, y.1 < p.seq / 2 ^ 32) → exec (.fenceComplete ctx q) s = .next s)) ∧
  ∀ (s : State) (ctx q : Nat) (l : Line) (i : Instr),
    let qi := 16 * ctx + q
    let x := s.queues.get qi
    let c := s.ctxs.get ctx
    let n := (s.uid + 1) * 2 ^ 32 + l.seq
    let g := fieldOf l.body
    x.line = some l → c.admits = true → q < 16 →
    (x.st = .active ∧ PacketStep ctx q l.type i → s.headHeld ctx l = true → exec i s = .next s) ∧
    (s.headHeld ctx l = false →
      x.st = .active ∧ PacketStep ctx q l.type i ∨ x.st = .waiting ∧ i = .conditionHolds ctx q ∧ 1 ≤ l.type ∧ l.type ≤ 6 →
      (x.st = .active → (x.free l = false ∨ c.levelQ.isSome = true) →
        ∃ t, exec i s = .next t ∧ OnlyQueue s t qi ∧
          t.queues.get qi = { x with st := .waiting }) ∧
      (x.free l = true → c.levelQ = none →
        ((l.abortst && x.failed) = true → ∃ t, exec i s = .next t ∧ OnlyQueue s t qi ∧
          t.queues.get qi = { x with st := .error, errcode := 7, errpend := true }) ∧
        ((l.abortst && x.failed) = false →
          (l.type = 1 → ∃ t, exec i s = .next t ∧ (t.ctxs.get ctx).starts = c.starts + 1 ∧
            (l.desc.level = c.level → t.queues.get qi = begunQueue x l n ∧ t.kernels.get (s.uid + 2) =
              admittedKernel ctx (.packet ctx q n) l.desc (launchOf l.body) x.prio (c.starts + 1)) ∧
            (l.desc.level ≠ c.level → (∀ e ∈ s.gangs, e.2.kern ≠ s.uid + 2) → (launchOf l.body).cmpl = 0 →
              PacketDone s t qi n ∧ (t.kernels.get (s.uid + 2)).st = .aborted)) ∧
          (l.type = 2 → x.st = .active → s.lockTurn (graphAsker qi) ctx (graphLocks ctx (s.uid + 1) l) = false →
            ∃ t, exec i s = .next t ∧ (t.queues.get qi).st = .waiting ∧ (∃ e ∈ t.lockq, e.1 = graphAsker qi) ∧
              t.graphs = s.graphs ∧ t.mem = s.mem) ∧
          (l.type = 2 → s.lockTurn (graphAsker qi) ctx (graphLocks ctx (s.uid + 1) l) = true →
            let n' := (s.uid + 2) * 2 ^ 32 + l.seq
            ∃ t, exec i s = .next t ∧ (t.ctxs.get ctx).starts = c.starts + 1 ∧
              ((t.queues.get qi = begunQueue x l n' ∧ (t.graphs.get (s.uid + 1)).live = true ∧
                (t.graphs.get (s.uid + 1)).base = u64 (g 0x18 8) ∧ (t.graphs.get (s.uid + 1)).count = g 0x20 4 ∧
                (t.graphs.get (s.uid + 1)).source = .packet ctx q n' ∧ (t.graphs.get (s.uid + 1)).sem = l.cmpl) ∨
               ((t.graphs.get (s.uid + 1)).live = false ∧ (l.cmpl = 0 → PacketDone s t qi n')))) ∧
          (l.type = 3 → l.cmpl = 0 → s.dv.bad = [] →
            (∀ pa, s.signalTarget ctx (g 0x18 8) = some (.dev pa) →
              ∃ t, exec i s = .next t ∧ PacketDone s t qi n ∧ t.hostMem = s.hostMem ∧ WordSet s.mem t.mem pa 8
                (if g 0x28 1 = 1 then s.mem.readNat pa 8 + g 0x20 8 else g 0x20 8)) ∧
            (∀ pa, s.signalTarget ctx (g 0x18 8) = some (.host pa) →
              ∃ t, exec i s = .next t ∧ PacketDone s t qi n ∧ t.mem = s.mem ∧ WordSet s.hostMem t.hostMem pa 8
                (if g 0x28 1 = 1 then s.hostMem.readNat pa 8 + g 0x20 8 else g 0x20 8)) ∧
            (∀ pkg pa, s.signalTarget ctx (g 0x18 8) = some (.peer pkg pa) →
              ∃ t r, exec i s = .next t ∧ t.mem = s.mem ∧ t.fab.outbox = s.fab.outbox ++
                [{ dest := pkg, tick := s.fab.tick, body := .req r }] ∧ r.id = s.uid + 2 ∧ r.pa = pa ∧
                r.op = (if g 0x28 1 = 1 then .sems (u64 (g 0x20 8)) else .store (cellsOf pa 8 (g 0x20 8))) ∧
                t.queues.get qi = { begunQueue x l n with
                  signal := some { id := s.uid + 2, n, cmpl := 0, addr := g 0x18 8, stamp := s.epoch } }) ∧
            (s.signalTarget ctx (g 0x18 8) = none →
              ∃ t, exec i s = .next t ∧ PacketDone s t qi n ∧ t.mem = s.mem ∧ (t.queues.get qi).st = .error ∧
                (t.queues.get qi).errcode = 4)) ∧
          (l.type = 4 → l.cmpl = 0 →
            (s.waitHolds ctx l = some true → ∃ t, exec i s = .next t ∧ PacketDone s t qi n ∧ t.mem = s.mem ∧
              (t.queues.get qi).st = (begunQueue x l n).st) ∧
            (s.waitHolds ctx l = some false → x.st = .active ∨ x.since = 0 → ∃ t, exec i s = .next t ∧ OnlyQueue s t qi ∧
              t.queues.get qi = { x with st := .waiting, since := if x.since = 0 then s.own + 1 else x.since }) ∧
            (s.waitHolds ctx l = none → ∃ t, exec i s = .next t ∧ PacketDone s t qi n ∧ t.mem = s.mem ∧
              (t.queues.get qi).st = .error ∧ (t.queues.get qi).errcode = 4)) ∧
          (l.type = 5 → ∃ t, exec i s = .next t ∧ t.queues.get qi = begunQueue x l n ∧ t.mem = s.mem) ∧
          (l.type = 6 → ∃ t, exec i s = .next t ∧ t.queues.get qi = begunQueue x l n ∧ t.mem = s.mem ∧
            (t.ctxs.get ctx).levelQ = some (q, g 0x18 1) ∧ (t.ctxs.get ctx).level = c.level ∧
            ∀ j, j < 16 → j ≠ q → t.queues.get (16 * ctx + j) = heldQueue (s.queues.get (16 * ctx + j)))))) ∧
    (x.st = .waiting → l.type = 4 → l.cmpl = 0 → g 0x34 4 ≠ 0 → x.since ≠ 0 →
      x.since + g 0x34 4 * tickCycles s.fab.ticklen ≤ s.own + 1 →
      ∃ t, exec (.waitTimeout ctx q) s = .next t ∧ PacketDone s t qi n ∧ t.mem = s.mem ∧
        (t.queues.get qi).st = .error ∧ (t.queues.get qi).errcode = 6)

/-! ### Gangs, phases, graph nodes -/

/-- PLACE puts the next gang whole on free slots, every wave at its entry; GRANT gives each member its tiles, every entry
+0; DRAINED frees all a finished gang held (R36, R142–R144, R153–R155, R159, R167, R277). -/
def Obligations.GangsPlacedGrantedDrained : Prop :=
  ∀ (s : State),
    (∀ (kid core split : Nat) (slots : List Nat), let k := s.kernels.get kid
      k.unplaced = true → (s.ctxs.get k.ctx).admits = true → s.placesNext kid = true →
      (s.ctxs.get k.ctx).pairs.contains (pairOfCore core) = true → (k.desc.level = 2 → s.fab.sync = true) →
      s.slotsFor k.desc core split = some slots →
      ∃ t, exec (.placeGang kid core split) s = .next t ∧ t.mem = s.mem ∧ slots.length = k.desc.gangwg * k.desc.wgwaves ∧
        t.gangs.get (s.uid + 1) =
          { (default : Gang) with st := .resident, ctx := k.ctx, kern := kid, index := k.placed, waves := slots } ∧
        t.kernels.get kid = { k with st := .running, placed := k.placed + 1 } ∧ (t.ctxs.get k.ctx).st = .running ∧
        (∀ m w, slots[m]? = some w → (s.waves.get w).st = .free ∧ StartsAs (t.waves.get w) kid (s.uid + 1) k m ∧
          (t.waves.get w).id.lcore = coreOf w) ∧
        ∀ w, w ∉ slots → t.waves.get w = s.waves.get w) ∧
    (∀ gi, let g := s.gangs.get gi
      let n := (s.kernels.get g.kern).desc.tiles
      g.st = .resident → g.request = true → s.requestAhead g = false → s.fits g = true → g.waves.Nodup →
      ∃ t, exec (.grantGang gi) s = .next t ∧ t.mem = s.mem ∧
        t.gangs.get gi = { g with st := .granted, granted := true, request := false } ∧
        (∀ w ∈ g.waves, ∀ j, j < n → ∃ p, p < 256 ∧ (t.waves.get w).tiles.get j = p + 1 ∧
          (s.cores.get (coreOf w)).owner.get p = .free ∧ (t.cores.get (coreOf w)).owner.get p = .wave w ∧
          ∀ q, q < 1024 → entryOf t (coreOf w) p q = 0) ∧
        ∀ w, (t.waves.get w).ctl = (s.waves.get w).ctl ∧ (t.waves.get w).vec = (s.waves.get w).vec) ∧
    ∀ gi, let g := s.gangs.get gi
      g.st = .draining → s.gangQuiet g = true →
      ∃ t, exec (.drainedGang gi) s = .next t ∧ t.gangs.get gi = default ∧ (∀ w ∈ g.waves, t.waves.get w = default) ∧
        (∀ w, w ∉ g.waves → t.waves.get w = s.waves.get w) ∧
        ((s.kernels.get g.kern).st ≠ .aborting → t.kernels = s.kernels ∧
          ((∀ w ∈ g.waves, (s.cores.get (coreOf w)).out = []) → t.mem = s.mem)) ∧
        ((s.kernels.get g.kern).st = .aborting → (∀ e ∈ s.gangs, e.2.kern = g.kern → e.1 = gi) →
          (t.kernels.get g.kern).st = .aborted)

/-- A phase commits once every gang has retired and every add is home: the adds are applied in key order, and the kernel goes
to its next phase or completes (R45, R136). A context with a mirror first sends the lines written since the last commit,
then the header, and waits for the answers to each; the lines written meanwhile are for the next commit (R416). -/
def Obligations.PhaseCommits : Prop :=
  ∀ (s : State) (kid : Nat),
    let k := s.kernels.get kid
    let c := s.ctxs.get k.ctx
    let mine := s.adds.filter (ofKernel kid)
    k.st = .committing → (∀ a ∈ mine, a.home = true) → (∀ e ∈ s.gangs, e.2.kern ≠ kid) →
    (c.job.mirrors = false →
      ∃ t, exec (.commitComplete kid) s = .next t ∧ t.adds = s.adds.filter (fun a => !ofKernel kid a) ∧
        (k.phase + 1 < k.desc.nphases →
          t.kernels.get kid = { k with st := .admitted, phase := k.phase + 1, placed := 0, retired := 0 }) ∧
        (k.desc.nphases ≤ k.phase + 1 → t.kernels.get kid = { k with st := .complete } ∧
          ∀ ctx q n, k.source = .packet ctx q n → k.launch.cmpl = 0 →
            ∀ p ∈ (t.queues.get (16 * ctx + q)).packets, p.seq = n → p.done = true) ∧
        (k.phase + 1 < k.desc.nphases ∨ k.launch.cmpl = 0 → (∀ a ∈ mine, a.tile = [] ∧ a.note = none) →
          ∀ order : List HeldAdd, order.Perm mine → order.Pairwise (fun a b => a.key < b.key) →
          ∀ b, t.mem.get b = (order.foldl addStep s.mem.get) b)) ∧
    (c.job.mirrors = true → mine = [] → s.mirrorHeld c = false →
      (c.mirStep = 0 → ∃ t, exec (.commitComplete kid) s = .next t ∧ (t.ctxs.get k.ctx).mirStep = 1 ∧
        (t.ctxs.get k.ctx).mirKern = kid ∧ t.mem = s.mem ∧ t.kernels = s.kernels ∧
        (t.ctxs.get k.ctx).mirSent = c.mirrored ∧ (t.ctxs.get k.ctx).mirrored = [] ∧
        ∀ l ∈ c.mirrored, ∀ off, c.job.mirrorOff (256 * l) = some off → ∀ pkg pa p e,
          s.walk c (c.job.mirbase.toNat + 4096 + 256 * (off / 256)) = .leaf (.peer pkg pa) p e →
          ∃ m ∈ t.fab.outbox.drop s.fab.outbox.length, ∃ r, m.dest = pkg ∧ m.body = .req r ∧
            r.op = .store ((List.range 256).map fun n => (pa + n, s.mem.get (256 * l + n)))) ∧
      (c.mirStep = 1 → c.mirKern = kid → c.mirOut = [] →
        ∃ t, exec (.commitComplete kid) s = .next t ∧ (t.ctxs.get k.ctx).mirStep = 2 ∧ t.mem = s.mem ∧
          t.kernels = s.kernels ∧
          ∀ pkg pa p e ctx q n, s.walk c c.job.mirbase.toNat = .leaf (.peer pkg pa) p e → k.source = .packet ctx q n →
            ∃ r, t.fab.outbox = s.fab.outbox ++ [{ dest := pkg, tick := s.fab.tick, body := .req r }] ∧
              r.op = .store (cellsOf pa 4 (n % 2 ^ 32) ++ cellsOf (pa + 4) 4 (k.phase + 1) ++ cellsOf (pa + 8) 8 s.fab.tick)) ∧
      (2 ≤ c.mirStep → c.mirKern = kid → c.mirOut = [] →
        ∃ t, exec (.commitComplete kid) s = .next t ∧ (t.ctxs.get k.ctx).mirStep = 0 ∧
          (t.ctxs.get k.ctx).mirSent = [] ∧ (t.ctxs.get k.ctx).mirrored = c.mirrored ∧
          (t.kernels.get kid).st = if k.phase + 1 < k.desc.nphases then .admitted else .complete) ∧
      (c.mirStep = 1 ∨ 2 ≤ c.mirStep → c.mirKern = kid → c.mirOut ≠ [] → exec (.commitComplete kid) s = .next s))

/-- A launchable node of a graph is launched by its kind and later completes; a COPY locks its ranges and moves its bytes at
its completion, a LAUNCH admits a kernel, a SIGNAL changes its word, a NOP is done at once (R191–R195). A node that is done
counts its successors down and makes launchable those that wait for nothing more; a failed one has them skipped; the walk
ends when no node is launched or launchable. That a LAUNCH node whose line is of another type or misaligned, or a SIGNAL
node with another operation, fails is the model's choice (log entry 54). -/
def Obligations.GraphNodes : Prop :=
  ∀ (s : State) (gi i : Nat),
    let g := s.graphs.get gi
    let s' := launchedNode s gi i
    let g' := s'.graphs.get gi
    let body := s'.nodeBody g' i
    (∀ (u : State) (pa : Nat), let h := u.graphs.get gi
      let node (j : Nat) : Nat := pa + 64 * j
      let succs := u.nodeSuccs h i
      let t (ok : Bool) : State := u.finishNode gi i ok
      let more := succs.filter fun j => decide (u.mem.readNat (node j + 4) 2 = 1) && u.mem.get (node j + 6) == 0
      h.live = true → arrayAt u h pa → u.dv.bad = [] → i < h.count → u.mem.readNat (node i + 0x18) 8 = 0 →
      (∀ j ∈ succs, j < h.count ∧ j ≠ i) → succs.Nodup →
      WalkGoesOn (t true) gi i h more ∧ WalkGoesOn (t false) gi i h [] ∧
      (h.sem = 0 →
        (t true).mem.get (node i + 6) = 2 ∧
        (∀ j ∈ succs, (t true).mem.readNat (node j + 4) 2 = (u.mem.readNat (node j + 4) 2 + 65535) % 2 ^ 16) ∧
        (∀ b, b ≠ node i + 6 → (∀ j ∈ succs, b ≠ node j + 4 ∧ b ≠ node j + 5) → (t true).mem.get b = u.mem.get b) ∧
        ((∀ j ∈ succs, u.nodeSuccs h j = []) →
          (t false).mem.get (node i + 6) = 3 ∧ (∀ j ∈ succs, (t false).mem.get (node j + 6) = 4) ∧
          ∀ b, b ≠ node i + 6 → (∀ j ∈ succs, b ≠ node j + 6) → (t false).mem.get b = u.mem.get b))) ∧
    (nodeReady s gi i 1 = true →
      (body 0 < body 8 + body 16 ∧ body 8 < body 0 + body 16 →
        exec (.copyNode gi i) s = .next (s'.finishNode gi i false)) ∧
      (body 8 + body 16 ≤ body 0 ∨ body 0 + body 16 ≤ body 8 →
        let ls := if body 16 = 0 then [] else
          [mkLock 1 false g.ctx (body 0) (body 16) false (nodeLock gi i), mkLock 1 false g.ctx (body 8) (body 16) true (nodeLock gi i)]
        (s'.lockTurn (nodeLock gi i) g.ctx ls = true →
          ∃ t, exec (.copyNode gi i) s = .next t ∧ t.locks = s'.locks ++ ls ∧ t.mem = s'.mem ∧
            i ∈ (t.graphs.get gi).launched ∧
            (t.graphs.get gi).copies = g'.copies ++ [(i, s.epoch, s.uid)] ∧ ∀ e ∈ t.lockq, e.1 ≠ nodeLock gi i) ∧
        (s'.lockTurn (nodeLock gi i) g.ctx ls = false →
          ∃ t, exec (.copyNode gi i) s = .next t ∧ t = { s with lockq := t.lockq } ∧ ∃ e ∈ t.lockq, e.1 = nodeLock gi i))) ∧
    (nodeReady s gi i 2 = true →
      let c := s'.ctxs.get g.ctx
      s'.feHeld c (body 0) 256 = false → (∀ b, s'.feRead c (body 0) 256 = some b →
        s'.feHeld c (fieldOf b 0x18 8) 64 = false) →
      (∀ b d, s'.feRead c (body 0) 256 = some b → fieldOf b 0 1 = 1 → fieldOf b 0x10 8 % 64 = 0 →
        s'.checkLaunch c b = .ok d → (∀ e ∈ s.gangs, e.2.kern ≠ s.uid + 1) →
        ∃ t, exec (.launchNode gi i) s = .next t ∧ t.graphs = s'.graphs ∧
          (d.level = c.level → t.kernels.get (s.uid + 1) =
            admittedKernel g.ctx (.node gi i) d (launchOf b) g.prio (c.starts + 1)) ∧
          (d.level ≠ c.level → (t.kernels.get (s.uid + 1)).st = .aborted)) ∧
      ((∀ b d, s'.feRead c (body 0) 256 = some b → fieldOf b 0 1 = 1 → fieldOf b 0x10 8 % 64 = 0 →
          s'.checkLaunch c b ≠ .ok d) →
        exec (.launchNode gi i) s = .next (s'.finishNode gi i false))) ∧
    (nodeReady s gi i 3 = true →
      let op := s'.nodeField g'.ctx g'.base.toNat i 0x30 1
      (body 0 % 8 ≠ 0 ∨ 1 < op → exec (.signalNode gi i) s = .next (s'.finishNode gi i false)) ∧
      (body 0 % 8 = 0 → op ≤ 1 → s'.feHeld (s'.ctxs.get g.ctx) (body 0) 8 = false →
        (s'.signalTarget g.ctx (body 0) = none → exec (.signalNode gi i) s = .next (s'.finishNode gi i false)) ∧
        (∀ pa, s'.signalTarget g.ctx (body 0) = some (.dev pa) → s'.dv.bad = [] →
          ∃ t, exec (.signalNode gi i) s = .next t ∧ t.graphs = s'.graphs ∧
            WordSet s'.mem t.mem pa 8 (if op = 1 then s'.mem.readNat pa 8 + body 8 else body 8)) ∧
        (∀ pa, s'.signalTarget g.ctx (body 0) = some (.host pa) →
          ∃ t, exec (.signalNode gi i) s = .next t ∧ t.graphs = s'.graphs ∧ t.mem = s'.mem ∧
            WordSet s'.hostMem t.hostMem pa 8 (if op = 1 then s'.hostMem.readNat pa 8 + body 8 else body 8)) ∧
        ∀ pkg pa, s'.signalTarget g.ctx (body 0) = some (.peer pkg pa) →
          ∃ t r, exec (.signalNode gi i) s = .next t ∧ t.mem = s'.mem ∧
            (t.graphs.get gi).asked = g'.asked ++ [(i, s.uid + 1, none)] ∧
            (t.graphs.get gi).copies = g'.copies ++ [(i, s.epoch, s.uid + 1)] ∧ r.id = s.uid + 1 ∧ r.pa = pa ∧
            r.op = (if op = 1 then .sems (u64 (body 8)) else .store (cellsOf pa 8 (body 8))) ∧
            t.fab.outbox = s'.fab.outbox ++ [{ dest := pkg, tick := s.fab.tick, body := .req r }])) ∧
    (nodeReady s gi i 4 = true → exec (.nopNode gi i) s = .next (s'.finishNode gi i true)) ∧
    (g.live = true → i ∈ g.launched → s.graphHeld g i = false →
      let c := s.ctxs.get g.ctx
      (s.nodeKind g i = 1 → (∃ a ∈ g.copies, a.1 = i) ∨ (∀ a ∈ g.asked, a.1 ≠ i) → c.migrates = false → c.lifted = none →
        s.copyHeld g i = false →
        (∀ bs u, s.feRead c (s.nodeBody g i 0) (s.nodeBody g i 16) = some bs → s.feWrite c (s.nodeBody g i 8) bs = some u →
          u.graphHeld g i = false → exec (.graphNodeComplete gi i) s = .next (u.finishNode gi i true)) ∧
        (s.copyBytes g i = none → exec (.graphNodeComplete gi i) s = .next (s.finishNode gi i false))) ∧
      (s.copying g i = false →
      (s.nodeKind g i = 2 → ∀ kid k, s.kernels.find (fun _ k => k.source == .node gi i && !k.live) = some (kid, k) →
        exec (.graphNodeComplete gi i) s = .next (s.finishNode gi i (k.st == .complete))) ∧
      (s.nodeKind g i = 3 ∨ s.nodeKind g i = 1 →
        ((∀ a ∈ g.asked, a.1 ≠ i) → exec (.graphNodeComplete gi i) s = .next (s.finishNode gi i true)) ∧
        (∀ id, g.asked.find? (fun a => a.1 == i) = some (i, id, none) → exec (.graphNodeComplete gi i) s = .next s) ∧
        ∀ id good, g.asked.find? (fun a => a.1 == i) = some (i, id, some good) →
          exec (.graphNodeComplete gi i) s = .next (s.finishNode gi i good))))

/-! ### Timers and the fabric -/

/-- A wait whose bound has passed ends in BARRIER_TIMEOUT with its arrival withdrawn; an outlived lease returns a slot to
Queued; an ingress lease ends; an entry of the write-combining buffer that is 1 µs old leaves (R248, R249, R315, R321). That
a time-out at an object that is mapped no more, or at a barrier of a job the context has left, comes with a free count of the
missing, and one at a page in migration waits, is the model's choice (log entry 58); so is what an expiry does to the thief's
number (log entry 40). -/
def Obligations.TimersRunOut : Prop :=
  (∀ (s : State) (wave : Nat) (a : Arrival),
    let w := s.waves.get wave
    w.arrival = some a → a.limit ≠ 0 → a.start + a.limit ≤ s.own → s.mayIssue wave = true →
    w.trap.handler ≠ 0 → w.nest = false → w.stq = [] →
    (∀ key id, instanceKey s w a.kind = some (key, id) → ((s.gangOf w).bars.get key).gen ≤ a.gen →
      ∃ t, exec (.barrierTimeout wave) s = .next t ∧ TimedOut s t wave id (absentees s w key).length 0xC00 ∧
        t.mem = s.mem ∧ (((t.gangs.get w.id.gang).bars.get key).arrived =
          ((s.gangOf w).bars.get key).arrived.filter fun m => m ≠ w.id.member) ∧
        ∀ j m, j < 48 → (absentees s w key)[j]? = some m → m < 2 ^ 16 →
          (t.waves.get wave).prol.readNat (0xC00 + 8 * j) 8 = m * 2 ^ 48 +
            (((s.gangOf w).waves[m]?).map fun x => (s.waves.get x).ctl.pc.toNat).getD 0 % 2 ^ 48) ∧
    (∀ va at_, a.kind = .dev va at_ →
      (∀ pa p e, s.walk (s.ctxOf w) va = .leaf (.dev pa) p e →
        (s.mem.readNat (pa + 4) 4 = a.gen → ∃ t, exec (.barrierTimeout wave) s = .next t ∧
          TimedOut s t wave va (s.mem.readNat (pa + 8) 4 - s.mem.readNat pa 4) 0 ∧
          WordSet s.mem t.mem pa 4 (s.mem.readNat pa 4 + 2 ^ 32 - 1)) ∧
        (s.mem.readNat (pa + 4) 4 ≠ a.gen → exec (.barrierTimeout wave) s = .next s)) ∧
      (s.walk (s.ctxOf w) va = .hold → exec (.barrierTimeout wave) s = .next s) ∧
      (s.walk (s.ctxOf w) va ≠ .hold → (∀ pa p e, s.walk (s.ctxOf w) va ≠ .leaf (.dev pa) p e) →
        ∃ t, exec (.barrierTimeout wave) s = .next t ∧ TimedOut s t wave va s.unstated 0 ∧ t.mem = s.mem)) ∧
    (∀ id, a.kind = .fabric id → s.fbarOf (s.ctxs.get w.id.ctx) id = none →
      ∃ t, exec (.barrierTimeout wave) s = .next t ∧ TimedOut s t wave (0x1000 + id) s.unstated 0xC00 ∧ t.mem = s.mem) ∧
    (∀ id b m, a.kind = .fabric id → s.fbarOf (s.ctxs.get w.id.ctx) id = some (b, m) → b.gen ≤ a.gen →
      ∃ t, exec (.barrierTimeout wave) s = .next t ∧ TimedOut s t wave (0x1000 + id)
        ((List.range b.members.length).countP fun i => decide (b.counts.get i ≤ a.gen) && i != m) 0xC00 ∧ t.mem = s.mem) ∧
    ∀ va pa, a.kind = .chan va pa → ∃ t, exec (.barrierTimeout wave) s = .next t ∧ TimedOut s t wave va 0 0 ∧
      t.mem = s.mem ∧ (t.chans.get pa).values = (s.chans.get pa).values ∧
      ∀ x ∈ (t.chans.get pa).waiters, x.wave = wave → x.peer.isSome = true) ∧
  (∀ (s : State) (header slot pa : Nat), let at_ := s.deqFrames header
    s.deqOk at_ = true → slot < s.deqField at_ 0 4 → (∀ k, k < 16 → at_ (0x40 + 16 * slot + k) = pa + k) →
    s.mem.readNat (pa + 4) 1 ∈ [2, 3] →
    (s.mem.readNat (pa + 8) 8 ≤ s.fab.tick → ∃ t, exec (.leaseExpiry header slot) s = .next t ∧
      t.mem.readNat (pa + 4) 1 = 1 ∧ t.mem.readNat (pa + 6) 2 = 0 ∧
      ∀ b, b ≠ pa + 4 → b ≠ pa + 6 → b ≠ pa + 7 → t.mem.get b = s.mem.get b) ∧
    (s.fab.tick < s.mem.readNat (pa + 8) 8 → exec (.leaseExpiry header slot) s = .next s)) ∧
  (∀ (s : State) (line c : Nat), (line, c) ∈ s.leases → c ≤ s.cycle →
    ∃ t, exec (.ingressLeaseExpiry line) s = .next t ∧ t = { s with leases := s.leases.filter fun l => l.1 ≠ line }) ∧
  ∀ (s : State) (core j : Nat) (e : WcbEntry), (s.cores.get core).wcb[j]? = some e → e.since + 2400 ≤ s.cycle →
    ∃ t, exec (.wcbEntryDrain core j) s = .next t ∧ (t.cores.get core).wcb = (s.cores.get core).wcb.eraseIdx j ∧
      t.mem = s.mem ∧
      (s.routed e.peer = true →
        ∃ r, t.fab.outbox = s.fab.outbox ++ [{ dest := e.peer, tick := s.fab.tick, body := .req r }] ∧
        r.op = .store (e.cells.map fun c => (e.line + c.1, c.2))) ∧
      (s.routed e.peer = false → t.fab = s.fab ∧ ∀ w ∈ e.waves,
        { peer := e.peer, line := u64 e.line, refused := false } ∈ (t.waves.get w).losses)

/-- A request of another package that reaches this one is performed and answered here, or refused; an answer reaches the
access that waits for it; at level 2 both wait for their boundary (R249, R394, R395, R402, R405). That a response at level 2
is held until a tick after that of its request, and a message until its sender's first tick not closed, is the model's
choice (log entry 49). -/
def Obligations.RequestsAndResponses : Prop :=
  (∀ (s : State) (r : PeerReq), s.onFabric = false ∨ s.isSelf r.sender = true → exec (.peerRequest r) s = .next s) ∧
  (∀ (s : State) (r : PeerReq), s.onFabric = true → s.isSelf r.sender = false →
    let at2 := r.job.any s.tickwise
    let run (P : State → Prop) : Prop := ∃ t, exec (.peerRequest r) s = .next t ∧ P t
    (at2 = true → run fun t => t.mem = s.mem ∧ t.waves = s.waves ∧ t.fab.outbox = s.fab.outbox ∧
      t.fab.held.map (fun h => (h.sender, h.msg)) =
        s.fab.held.map (fun h => (h.sender, h.msg)) ++ [(r.sender, .peerReq r)]) ∧
    (at2 = false → s.accepts r = false →
      (∃ n, r.op = .load n) ∨ (∃ c, r.op = .store c) ∨ (∃ o t x y, r.op = .atomic o t x y) ∨
        (∃ n, r.op = .sems n) ∨ (∃ n, r.op = .semw n) ∨ (∃ o, r.op = .deque o) →
      run fun t => t.mem = s.mem ∧ t.waves = s.waves ∧ Answered s t r .refused) ∧
    (at2 = false → ∀ n, r.op = .foreign n → run fun t => t.mem = s.mem ∧ t.waves = s.waves ∧ Answered s t r .error) ∧
    (at2 = false → s.accepts r = true → s.dv.bad = [] →
      (∀ n, r.op = .load n → run fun t => t.mem = s.mem ∧ Answered s t r (.value (u64 (s.mem.readNat r.pa n)))) ∧
      (∀ cells, r.op = .store cells → run fun t => t.mem = s.mem.putAll cells ∧ Answered s t r .done) ∧
      (∀ op ty x y, r.op = .atomic op ty x y → run fun t =>
        Answered s t r (.value (u64 (s.mem.readNat r.pa ty.bytes))) ∧
        WordSet s.mem t.mem r.pa ty.bytes (atomNew op ty (s.mem.readNat r.pa ty.bytes) x.toNat y.toNat) ∧
        (r.pa / 256, s.cycle + 4800) ∈ t.leases) ∧
      (∀ n, r.op = .sems n → run fun t => Answered s t r .done ∧ (r.pa / 256, s.cycle + 4800) ∈ t.leases ∧
        WordSet s.mem t.mem r.pa 8 (s.mem.readNat r.pa 8 + n.toNat)) ∧
      (r.op = .semw 0 → run fun t => Answered s t r .done ∧ WordSet s.mem t.mem r.pa 8 (s.mem.readNat r.pa 8)) ∧
      (∀ n, r.op = .semw n → s.sems.get r.pa = [] → r.pa < 2 ^ 60 →
        (n.toNat ≤ s.mem.readNat r.pa 8 → run fun t => Answered s t r .done ∧ t.sems.get r.pa = [] ∧
          WordSet s.mem t.mem r.pa 8 (s.mem.readNat r.pa 8 - n.toNat)) ∧
        (s.mem.readNat r.pa 8 < n.toNat → run fun t => t.mem = s.mem ∧ t.fab.outbox = s.fab.outbox ∧
          t.sems.get r.pa = [{ wave := 0, peer := some (r.sender, r.id), value := n, push := false, stamp := s.epoch }])))) ∧
  ∀ (s : State) (r : PeerResp) (tick : Nat) (q : PeerReq), s.requestOf r.id = some (r.sender, tick, q) →
    (s.ported = false → r.answer ≠ .lost → exec (.peerResponse r) s = .next s) ∧
    (s.ported = true ∧ q.job.any s.tickwise = false ∨ r.answer = .lost →
      ∃ t, exec (.peerResponse r) s = .next t ∧ t.requestOf r.id = none ∧
        ∀ w, (t.waves.get w).ctl = (s.waves.get w).ctl ∧ (t.waves.get w).vec = (s.waves.get w).vec ∧
          ∀ a ∈ (t.waves.get w).remote, a.id = r.id → a.answer = some r.answer) ∧
    (s.ported = true → q.job.any s.tickwise = true → r.answer ≠ .lost →
      ∃ t, exec (.peerResponse r) s = .next t ∧ t.mem = s.mem ∧ t.waves = s.waves ∧ ∃ k, tick + 1 ≤ k ∧
        t.fab.held = s.fab.held ++ [{ sender := r.sender, tick := k, msg := .peerResp r }])

/-- The switch counts fabric barrier arrivals, of other packages and this package's own once they have left, and releases a
generation when every member has come; before a release is delivered, the lags of its generation and who is stealable are
decided, the flag of the member's deque follows, and the cone record is copied. A multicast line is replicated to the
members and its summary returns; contributions join a collective, whose result is written (R270, R271, R312–R314, R394,
R395, R401, R411–R413). The model's choices: a result is written at one instant (log entry 48); the reasons the switch
itself answers with (log entry 46); where the vector side stands when a line's store traps (log entry 71). -/
def Obligations.SwitchMessages : Prop :=
  (∀ (s : State) (job id m p : Nat) (time : W64) (b : FBar), s.fbar? job id = some b → b.members[m]? = some p →
    s.tickwise job = false → (s.isSelf p = false ∧ s.onFabric = true ∨
      s.isSelf p = true ∧ s.ported = true ∧ ∃ x ∈ s.fab.outbox, x.body = .fbarArrive job id m (some time)) →
    ∃ t b', exec (.fbarArrival job id m time) s = .next t ∧ t.mem = s.mem ∧ t.waves = s.waves ∧ t.fbar? job id = some b' ∧
      b'.members = b.members ∧ b'.delivered = b.delivered ∧
      (∀ i, b'.counts.get i = b.counts.get i + (if i = m then 1 else 0)) ∧
      b'.gen = if (List.range b.members.length).all (fun i => decide (b.gen < b'.counts.get i)) then b.gen + 1 else b.gen) ∧
  (∀ (s : State) (job id m : Nat) (b : FBar), s.fbar? job id = some b → s.tickwise job = false → s.onFabric = true →
    b.delivered < b.gen → b.members.findIdx? (fun p => s.isSelf p) = some m →
    let g := b.delivered
    let n := b.members.length
    let places := b.cone.flatMap fun p => (List.range p.2).map (p.1 + ·)
    let T (i : Nat) : Nat := ((b.timeAt i g).map Prod.fst).getD 0
    let R (k : Nat) : Nat := (b.releaseAt k).getD 0
    let raw (i k : Nat) : Nat := if g + k < 15 then 0 else ((b.timeAt i (g + k - 15)).map fun x => x.2.toNat).getD 0
    ∃ t b', exec (.fbarRelease job id) s = .next t ∧ t.fbar? job id = some b' ∧
      b'.delivered = g + 1 ∧ b'.gen = b.gen ∧ b'.counts = b.counts ∧ b'.members = b.members ∧
      (g = 0 → b'.lags = b.lags ∧ b'.stealable = b.stealable) ∧
      (∀ first, 1 ≤ g → (∃ i, i < n ∧ first = T i) → (∀ i, i < n → first ≤ T i) → ∀ i, i < n →
        let new := (b.lags[i]?).getD [] ++
          [decide ((b.frac : Int) * ((R g : Int) - R (g - 1)) < (((T i - first) * 1000 : Nat) : Int))]
        let held := new.drop (new.length - 16)
        b'.lags[i]? = some held ∧ b'.stealable[i]? = some (decide (b.need ≤ held.count true))) ∧
      (places.Nodup → ∀ i k j a, i < n → k < 16 → j < 8 → places[128 * i + 8 * k + j]? = some a →
        t.mem.get a = BitVec.ofNat 8 (raw i k / 256 ^ j)) ∧
      (∀ pa, b.deque = some pa → pa + 12 ∉ places →
        let new := (b'.stealable[m]?).getD false
        t.mem.get (pa + 12) = if (b.stealable[m]?).getD false = new then s.mem.get (pa + 12)
          else BitVec.ofNat 8 ((s.mem.get (pa + 12)).toNat / 2 * 2 + (if new then 1 else 0))) ∧
      ∀ a, a ∉ places → (∀ pa, b.deque = some pa → a ≠ pa + 12) → t.mem.get a = s.mem.get a) ∧
  (∀ (s : State) (id : Nat) (l : McLine) (g : McGroup), s.lineOf id = some l → l.sent = false →
    s.tickwise l.job = false → s.ported = true →
    s.groupOf l.job l.group = some g → (g.members.map McMember.pkg).Nodup →
    ∃ t l', exec (.mcastReplicate id) s = .next t ∧ t.lineOf id = some l' ∧ l'.sent = true ∧
      l' = { l with sent := true, answers := l'.answers, remote := l'.remote } ∧ l'.answers.length = g.members.length ∧
      ∀ (i : Nat) (m : McMember), g.members[i]? = some m → l'.answers[i]? = some (i,
        if m.bound = false then some 1 else if g.lines ≤ l.off / 256 then some 0
        else if s.isSelf m.pkg then (if s.lineLocked g m l.off l.cells then some 4 else some 0xFF)
        else if s.routed m.pkg then none else some 3) ∧
        (m.bound = true → l.off / 256 < g.lines → s.isSelf m.pkg = true → s.lineLocked g m l.off l.cells = false →
          t.mem = s.mem.putAll (l.cells.map fun c => (m.at_ (l.off / 256 * 256 + c.1), c.2)))) ∧
  (∀ (s : State) (id : Nat) (l : McLine), s.lineOf id = some l →
    (s.ported = false → l.lanes = 0 ∨ (s.waves.get l.wave).st ≠ .running →
      ∃ t, exec (.mcastAck id) s = .next t ∧ t.lineOf id = none ∧ t.waves = s.waves) ∧
    (s.ported = false → l.lanes ≠ 0 → (s.waves.get l.wave).st = .running → (s.waves.get l.wave).midVec = true →
      exec (.mcastAck id) s = .next s) ∧
    (∀ p, s.ported = false → l.lanes ≠ 0 → (s.waves.get l.wave).st = .running → (s.waves.get l.wave).midVec = false →
      (s.waves.get l.wave).vec.pend = some p →
      ∃ t r, exec (.mcastAck id) s = .next t ∧ t.lineOf id = none ∧ r.code = 6 ∧ r.pc = l.site ∧
        (t.waves.get l.wave).vec = { (s.waves.get l.wave).vec with more := (s.waves.get l.wave).vec.more ++ [r] }) ∧
    (s.ported = false → l.lanes ≠ 0 → (s.waves.get l.wave).st = .running → (s.waves.get l.wave).midVec = false →
      (s.waves.get l.wave).vec.pend = none →
      (s.mayTrap l.wave = true → (s.waves.get l.wave).trap.handler ≠ 0 → (s.waves.get l.wave).nest = false →
        ∃ t, exec (.mcastAck id) s = .next t ∧ t.lineOf id = none ∧ (t.waves.get l.wave).trap.cause = 0x506 ∧
          (t.waves.get l.wave).trap.pc = l.site ∧ (t.waves.get l.wave).ctl.pc = (s.waves.get l.wave).trap.handler) ∧
      (s.mayTrap l.wave = false →
        ∃ t r, exec (.mcastAck id) s = .next t ∧ t.lineOf id = none ∧ (t.waves.get l.wave).vec.pend = some r ∧
          r.code = 6 ∧ r.pc = l.site ∧ (t.waves.get l.wave).ctl = (s.waves.get l.wave).ctl)) ∧
    (s.ported = true → s.tickwise l.job = false → s.lineDone id l = true →
      ∃ t, exec (.mcastAck id) s = .next t ∧ t.lineOf id = none ∧
        (∀ x, x < 64 → l.lanes.getLsbD x = true → (t.waves.get l.wave).getV64 l.dest x = l.summary) ∧
        (∀ r x, x < 64 → l.lanes.getLsbD x = false ∨ r ≠ l.dest ∧ r ≠ l.dest + 1 →
          (t.waves.get l.wave).getV r x = (s.waves.get l.wave).getV r x) ∧
        (∀ (g : McGroup) (m : McMember), s.groupOf l.job l.group = some g →
          g.members.find? (fun m => s.isSelf m.pkg) = some m →
          WordSet s.mem t.mem m.ack 128 l.bitmap) ∧
        ((∀ a ∈ l.answers, a.2 = some 0xFF) → l.summary = u64 (l.answers.length * 2 ^ 32 + 0xFFFF * 2 ^ 16)))) ∧
  (∀ (s : State) (c : Contribution) (g : McGroup) (m : McMember), s.groupOf c.job c.group = some g →
    g.members[c.member]? = some m → s.isSelf m.pkg = false → s.onFabric = true → s.tickwise c.job = false →
    ((∀ x ∈ s.fab.colls, x.job = c.job → x.group = c.group → ∃ p ∈ x.parts, p.1 = c.member) →
      ∃ t x, exec (.allredContribution c) s = .next t ∧ t.mem = s.mem ∧ t.fab.colls = s.fab.colls ++ [x] ∧
        x.job = c.job ∧ x.group = c.group ∧ x.k = g.next ∧ x.op = c.op ∧ x.t = c.t ∧ x.count = c.elems.length ∧
        x.size = g.members.length ∧ x.parts = [(c.member, c.elems)]) ∧
    ∀ x, s.fab.colls = [x] → x.job = c.job → x.group = c.group → (∀ p ∈ x.parts, p.1 ≠ c.member) → x.op = c.op → x.t = c.t →
      x.count = c.elems.length →
      ∃ t y, exec (.allredContribution c) s = .next t ∧ t.mem = s.mem ∧ t.fab.colls = [y] ∧
        y.parts = x.parts ++ [(c.member, c.elems)] ∧
        (y.parts.length < x.size → y.result = x.result) ∧
        (x.size ≤ y.parts.length → ∃ ys, y.result = some ys ∧ ys.length = x.count ∧ ∀ e, e < x.count → ys[e]? =
          some (u64 (combineElement x.op x.t ((List.range x.size).map fun i =>
            (((((y.parts.find? fun p => p.1 == i).map Prod.snd).getD [])[e]?).getD 0).toNat))))) ∧
  (∀ (s : State) (job group k : Nat) (c : Coll) (r : OwnRed) (ys : List W64), s.tickwise job = false → s.onFabric = true →
    s.fab.colls.find? (fun x => x.names job group k) = some c → c.result = some ys →
    s.fab.reds.find? (fun r => r.job == job && r.group == group && r.k == k && r.st == 2) = some r →
    ∃ t, exec (.allredResult job group k) s = .next t ∧
      t.mem = s.mem.putAll ((pieceBytes r.dst).zip (ys.flatMap fun y => bytesLE c.t.bytes y.toNat)) ∧
      (∀ x ∈ t.fab.reds, x.uid = r.uid → x.st = 3) ∧ t.fab.colls = s.fab.colls.filter fun x => !x.names job group k) ∧
  (∀ (s : State), s.fab.tick ≤ s.fab.bound ∨ s.tickOpen = true ∨ s.switchCut = true → exec .tickBoundary s = .next s) ∧
  (∀ (s : State), s.fab.bound < s.fab.tick → s.tickOpen = false → s.switchCut = false →
    ∃ t, exec .tickBoundary s = .next t ∧ (∀ h ∈ t.fab.held, s.fab.bound < h.tick) ∧ t.fab.tick = s.fab.tick ∧
      t.fab.bound = if s.ctxs.any (fun e => decide (e.2.jobst = 2) && e.2.level == 2) then s.fab.bound + 1 else s.fab.tick) ∧
  (∀ (s : State) (pkg tick : Nat), s.isSelf pkg = true ∨ s.onFabric = false → exec (.tickClose pkg tick) s = .next s) ∧
  (∀ (s : State) (pkg tick : Nat), s.isSelf pkg = false → s.onFabric = true →
    ∃ t, exec (.tickClose pkg tick) s = .next t ∧ OnlyFab s t ∧ (∀ l ∈ t.fab.lost, l.1 ≠ pkg) ∧
      t.closedOf pkg = some (max tick ((s.closedOf pkg).getD 0)) ∧ ∀ p, p ≠ pkg → t.closedOf p = s.closedOf p) ∧
  ∀ (s : State) (aligned : Bool), exec (.timingMessage aligned) s =
    .next (if s.onFabric = true ∨ aligned = false then { s with fab := { s.fab with sync := aligned } } else s)

/-! ### Links, pages, the device -/

/-- The ports, the host link and the package number follow Table 17.2, once the firmware runs; a package to which no route
is left for a job's grace period, or this one when it has lost all its own ports, halts the contexts of that job; a binding
is made, refused with its error, or undone; a full mirror is sent, and the lines written since the last commit are read back
(R394, R396, R399, R400, R415, R417, R424). The model's choices: a binding waits during a migration, and a job to which
another context of the package is bound is a bad descriptor (log entry 24); a reload names its bytes by their places in the
mirror (log entry 55); the grace period is counted in core cycles from the loss, and this package's number stands for the
loss of its own ports (log entry 79). -/
def Obligations.LinksAndJobs : Prop :=
  ∀ (s : State) (p : Nat),
    let x := s.port p
    let goes (i : Instr) (y : Port) : Prop := ∃ t, exec i s = .next t ∧ t.port p = y ∧
      ∀ q, q ≠ p → t.port q = s.port q
    (s.dv.fw = true → s.fab.set = true → x.st = .disabled →
      goes (.portEnable p) { x with st := .training, enable := true }) ∧
    (s.dv.fw = false ∨ s.fab.set = false ∨ x.st ≠ .disabled → exec (.portEnable p) s = .next s) ∧
    (x.st = .disabled → exec (.portDisable p) s = .next s) ∧
    (x.st ≠ .disabled → goes (.portDisable p) {}) ∧
    (x.st = .training → (∀ width peer, s.dv.fw = true → width ≠ 3 → goes (.trainingSucceeds p width peer)
        { x with st := if width = 0 then .up else .degraded, width := width.toNat, peer := peer.toNat, fails := 0 }) ∧
      goes (.trainingFails p) { x with st := .lost }) ∧
    (x.st = .up → ∀ width, width = 1 ∨ width = 2 →
      goes (.laneFails p width) { x with st := .degraded, width := width.toNat }) ∧
    (x.st = .degraded → goes (.laneRecovery p) { x with st := .up, width := 0 }) ∧
    (x.st = .lost → goes (.retrain p) { x with st := .training }) ∧
    (∀ width peer, s.dv.fw = false ∨ x.st ≠ .training ∨ width = 3 → exec (.trainingSucceeds p width peer) s = .next s) ∧
    (x.st ≠ .training → exec (.trainingFails p) s = .next s) ∧
    (∀ width, x.st ≠ .up ∨ width ≠ 1 ∧ width ≠ 2 → exec (.laneFails p width) s = .next s) ∧
    (x.st ≠ .degraded → exec (.laneRecovery p) s = .next s) ∧ (x.st ≠ .lost → exec (.retrain p) s = .next s) ∧
    (x.st ≠ .up → x.st ≠ .degraded → exec (.loss p) s = .next s ∧ ∀ ok, exec (.linkLevelReplay p ok) s = .next s) ∧
    (x.st = .up ∨ x.st = .degraded →
      goes (.loss p) { x with st := .lost, width := 0, peer := 0, fails := 0 } ∧
      goes (.linkLevelReplay p true) { x with fails := 0 } ∧
      goes (.linkLevelReplay p false) (if x.fails < 7 then { x with fails := x.fails + 1 } else
        { x with st := .lost, width := 0, peer := 0, fails := 0 })) ∧
    (∀ st, exec (.hostLinkStateChange st) s =
      .next (if s.dv.fw = true ∨ st = .down then { s with fab := { s.fab with host := st } } else s)) ∧
    (∀ v : BitVec 64, (s.dv.fw = true → (∀ e ∈ s.fab.ports, e.2.enable = false) → exec (.lkPkgidWrite v) s =
        .next { s with fab := { s.fab with pkg := v.toNat % 1024, mode := v.getLsbD 15, set := true } }) ∧
      (s.dv.fw = false ∨ (∃ e ∈ s.fab.ports, e.2.enable = true) → exec (.lkPkgidWrite v) s = .next s)) ∧
    (∀ pkg tick,
      let lost (ci at_ : Nat) : Prop := (s.ctxs.get ci).jobst = 2 ∧ s.jobMember (s.ctxs.get ci).job.num pkg = true ∧
        (ci, pkg) ∉ s.fab.downs ∧ s.lostAt pkg = some (tick, at_)
      (∀ ci at_, lost ci at_ → at_ + 2400000 * (s.ctxs.get ci).job.grace ≤ s.cycle →
        ∃ t, exec (.linkDown pkg tick) s = .next t ∧ (ci, pkg) ∈ t.fab.downs ∧
          ((s.ctxs.get ci).st.haltable = true → Halts t ci 0x43)) ∧
      ((∀ ci at_, lost ci at_ → s.cycle < at_ + 2400000 * (s.ctxs.get ci).job.grace) →
        exec (.linkDown pkg tick) s = .next s)) ∧
    ∀ ci, let c := s.ctxs.get ci
      (c.jobst = 2 → c.job.mirrors = true → c.mirFull = true → c.mirStep = 0 → s.routed c.job.buddy = true →
        let t := s.choose (.fullMirror ci)
        t.mem = s.mem ∧ (t.ctxs.get ci).mirFull = false ∧
        ∀ off pa, c.job.mirrorAt (256 * off) = some pa → c.job.mirrorOff pa = some (256 * off) → pa % 256 = 0 →
          ∀ pkg x p e, s.walk c (c.job.mirbase.toNat + 4096 + 256 * off) = .leaf (.peer pkg x) p e →
            ∃ m ∈ t.fab.outbox.drop s.fab.outbox.length, ∃ r, m.dest = pkg ∧ m.body = .req r ∧
              r.op = .store ((List.range 256).map fun n => (x + n, s.mem.get (pa + n)))) ∧
      (∀ (ls : List Nat) (cells : List (Nat × BitVec 8)) at_,
        cells.map (fun e => e.1) = ls.flatMap (fun l => (List.range 256).map (256 * l + ·)) →
        (cells.mapM fun e => (c.job.mirrorAt e.1).map fun pa => (pa, e.2)) = some at_ →
        (∀ i l, ls[i]? = some l → ∀ m ∈ c.mirCopy, m.1 = l → m.2 = ((cells.drop (256 * i)).take 256).map fun e => e.2) →
        c.jobst = 2 → c.st ∈ [CtxSt.halted, .ready, .suspended] →
        let lines := c.mirrored.filterMap fun l => (c.job.mirrorOff (256 * l)).map (· / 256)
        let fresh := c.mirCopy = [] ∧ c.mirrored = [] ∧ c.mirHead = []
        let all := List.range ((c.job.mirror.foldl (fun n p => n + p.2) 0) / 256)
        (s.routed c.job.buddy = true → ls = lines ∨ fresh ∧ ls = all →
          ∃ t, exec (.mirrorReload ci cells) s = .next t ∧ t.mem = s.mem.putAll at_ ∧ (t.ctxs.get ci).mirrored = []) ∧
        (s.routed c.job.buddy = false ∨ ls ≠ lines ∧ (fresh → ls ≠ all) → exec (.mirrorReload ci cells) s = .next s)) ∧
      (∀ v : BitVec 64, c.st ≠ .ready → c.st ≠ .suspended → exec (.bind ci v) s = .next s ∧ exec (.unbind ci) s = .next s) ∧
      (c.st ∈ [CtxSt.ready, .suspended] →
        (∃ t, exec (.unbind ci) s = .next t ∧ (t.ctxs.get ci).jobst = 0 ∧ (t.ctxs.get ci).lkjob = 0 ∧ t.mem = s.mem ∧
          ∀ y, y ≠ ci → t.ctxs.get y = s.ctxs.get y) ∧
        (∀ v : BitVec 64, v ≠ 0 → c.migrates = true →
          ∃ t, exec (.bind ci v) s = .next t ∧ t.mem = s.mem ∧ (t.ctxs.get ci).lkjob = v ∧ (t.ctxs.get ci).jobst = 1) ∧
        ∀ v : BitVec 64, v ≠ 0 → c.migrates = false →
          let u := s.unbindCtx ci
          let d := u.jobDesc (u.ctxs.get ci) (v.toNat % 4096) (v.toNat / 4096 * 4096)
          let e := u.bindError (u.ctxs.get ci) (v.toNat % 4096) d
          ∃ t, exec (.bind ci v) s = .next t ∧ t.mem = s.mem ∧ (t.ctxs.get ci).lkjob = v ∧ (t.ctxs.get ci).st = c.st ∧
            (e ≠ 0 → (t.ctxs.get ci).jobst = 3 ∧ (t.ctxs.get ci).joberr = e) ∧
            (∀ y, e = 0 → d = some y → (t.ctxs.get ci).jobst = 2 ∧ (t.ctxs.get ci).joberr = 0 ∧ (t.ctxs.get ci).job = y.job))

/-- The page commands and the frames' life: the epoch counts, an unmapped page, or what is left of one, cools until
quiescence has passed it, a migrated page is held, copied and mapped again; a bad command leaves its error (R330–R335,
R422). The model's choices: the pages noted as mapped, which of them cool when INV completes (log entry 22), and that a step
whose condition does not hold changes nothing (log entry 64). -/
def Obligations.PagesCoolAndMigrate : Prop :=
  ∀ (s : State) (ci : Nat),
    let c := s.ctxs.get ci
    let b := c.page
    let first := b.arg0.toNat
    (s.epoch < s.cycle / 1024 → exec .epochAdvance s = .next { s with epoch := s.epoch + 1 }) ∧
    (∀ frame n f, c.frames.get frame = .cooling n f none → f < s.quiet c →
      ∃ t, exec (.coolingEnd ci frame) s = .next t ∧ OnlyCtx s t ci ∧
        t.ctxs.get ci = { c with frames := c.frames.put frame .plain }) ∧
    (∀ frame n f e, c.frames.get frame = .cooling n f (some e) → f < s.quiet c → s.listHeld c e = false →
      (∀ y ∈ c.frames, ∀ n' f' e', y.2 = .cooling n' f' (some e') → e'.uid = e.uid → e.index ≤ e'.index) →
      ∃ t, exec (.coolingEnd ci frame) s = .next t ∧ (t.ctxs.get ci).frames.get frame = .pooled e ∧
        ∀ y, y ≠ frame → (t.ctxs.get ci).frames.get y = c.frames.get y) ∧
    (s.dv.pg = false → exec (.inv ci) s = .next s ∧ exec (.invall ci) s = .next s ∧ exec (.migrate ci) s = .next s) ∧
    (s.dv.pg = true → b.doing ≠ .none → ∀ i, i = .inv ci ∨ i = .invall ci ∨ i = .migrate ci →
      ∃ t, exec i s = .next t ∧ OnlyCtx s t ci ∧ t.ctxs.get ci = { c with page := { b with err := true } }) ∧
    (s.dv.pg = true → b.doing = .none →
      (first % 4096 = 0 → b.arg1 ≠ 0 → b.arg1.toNat % 4096 = 0 →
        ∃ t, exec (.inv ci) s = .next t ∧ OnlyCtx s t ci ∧ (t.ctxs.get ci).page =
          { b with cmd := 1, doing := .inv s.epoch first (first + b.arg1.toNat) }) ∧
      (first % 4096 ≠ 0 ∨ b.arg1 = 0 ∨ b.arg1.toNat % 4096 ≠ 0 →
        ∃ t, exec (.inv ci) s = .next t ∧ OnlyCtx s t ci ∧
          t.ctxs.get ci = { c with page := { b with cmd := 1, err := true, errcode := 2 } }) ∧
      (∃ t, exec (.invall ci) s = .next t ∧ OnlyCtx s t ci ∧ (t.ctxs.get ci).page =
        { b with cmd := 3, doing := .inv s.epoch 0 (2 ^ 64) }) ∧
      (first % 4096 ≠ 0 ∨ b.arg1.toNat % 4096 ≠ 0 ∨ c.holds b.arg1.toNat = false →
        ∃ t, exec (.migrate ci) s = .next t ∧ OnlyCtx s t ci ∧
          t.ctxs.get ci = { c with page := { b with cmd := 2, err := true, errcode := 2 } }) ∧
      (first % 4096 = 0 → b.arg1.toNat % 4096 = 0 → c.holds b.arg1.toNat = true →
        (s.migratable c first = none → ∃ t, exec (.migrate ci) s = .next t ∧ OnlyCtx s t ci ∧
          t.ctxs.get ci = { c with page := { b with cmd := 2, err := true, errcode := 3 } }) ∧
        ∀ entry old, s.migratable c first = some (entry, old) →
          ∃ t, exec (.migrate ci) s = .next t ∧ WordSet s.mem t.mem entry 8 (s.mem.readNat entry 8 + 128) ∧
            (t.ctxs.get ci).page = { b with cmd := 2, doing := .migrate s.epoch entry old b.arg1.toNat (s.uid + 1) } ∧
            (t.ctxs.get ci).frames.get (old / 4096) = (if c.frames.get (old / 4096) = .plain then .held (b.arg1.toNat / 4096)
              else c.frames.get (old / 4096)) ∧ ∀ l ∈ (t.ctxs.get ci).tlb, l.entry ≠ entry)) ∧
    (∀ e lo hi, b.doing = .inv e lo hi → (∃ l ∈ c.tlb, l.covers lo hi = true) →
      ∃ t, exec (.invComplete ci) s = .next t ∧ OnlyCtx s t ci ∧
        (t.ctxs.get ci).page = { b with doing := .inv s.epoch lo hi } ∧
        ∀ l, l ∈ (t.ctxs.get ci).tlb ↔ l ∈ c.tlb ∧ l.covers lo hi = false) ∧
    (∀ e lo hi, b.doing = .inv e lo hi → (∀ l ∈ c.tlb, l.covers lo hi = false) →
      (s.quiet c ≤ e → exec (.invComplete ci) s = .next s) ∧
      (e < s.quiet c →
        let inside (m : Nat × Nat × Nat) : Prop := m.1 < hi ∧ lo < m.1 + 4096 * m.2.2
        let has (m : Nat × Nat × Nat) (f : Nat) : Prop := m.2.1 ≤ f ∧ f < m.2.1 + m.2.2
        ∃ t, exec (.invComplete ci) s = .next t ∧ t = { s with ctxs := t.ctxs, cores := t.cores } ∧
          (∀ x, x ≠ ci → t.ctxs.get x = s.ctxs.get x) ∧ (t.ctxs.get ci).page = { b with doing := .none } ∧
          (∀ p ∈ c.pairs, ∀ j, j < 2 → (t.cores.get (2 * p + j)).l1 = []) ∧
          (∀ m, m ∈ (t.ctxs.get ci).mapped ↔ m ∈ s.mappedNow c ∨ m ∈ c.mapped ∧ ¬ inside m) ∧
          (∀ f, (t.ctxs.get ci).frames.get f = c.frames.get f ∨ ∃ n, (t.ctxs.get ci).frames.get f = .cooling n s.epoch none ∧
            ∃ m ∈ c.mapped, inside m ∧ ((m.2.1 = f ∧ m.2.2 = n ∧ ∀ x ∈ s.mappedNow c, ∀ g, has m g → ¬ has x g) ∨
              n = 1 ∧ has m f ∧ ∀ x ∈ s.mappedNow c, ¬ has x f)) ∧
          ∀ m ∈ c.mapped, inside m → ∀ f, has m f → (∀ x ∈ s.mappedNow c, ¬ has x f) →
            (t.ctxs.get ci).cools (4096 * f) = true)) ∧
    ∀ e entry old new before, b.doing = .migrate e entry old new before → e < s.quiet c →
      entry + 8 ≤ new ∨ new + 4096 ≤ entry →
      let x := s.mem.readNat entry 8
      ∃ t, exec (.migrateComplete ci) s = .next t ∧ (t.ctxs.get ci).page = { b with doing := .none } ∧
        (old / 4096 ≠ new / 4096 → (t.ctxs.get ci).frames.get (old / 4096) = .plain) ∧
        ((∀ f, c.frames.get (old / 4096) ≠ .held f) → (t.ctxs.get ci).frames.get (new / 4096) = c.frames.get (old / 4096)) ∧
        ((∃ f, c.frames.get (old / 4096) = .held f) → (t.ctxs.get ci).frames.get (new / 4096) = .plain) ∧
        t.mem.readNat entry 8 = (x - nbits x 51 12 * 4096 + new - 128) % 2 ^ 64 ∧
        (∀ i, i < 4096 → t.mem.get (new + i) = s.mem.get (old + i)) ∧
        ∀ a, (a < entry ∨ entry + 8 ≤ a) → (a < new ∨ new + 4096 ≤ a) → t.mem.get a = s.mem.get a

/-- Reset, bring-up, the register space by its offsets in BAR2 (Table 18.1), the Falja port, the thermal stops, memory errors
and the host's own accesses (R8, R250, R419–R427, R430). The model's choices: device memory is empty after a reset (log
entry 1); the leaf, the rollback counter and the flash outlive it (log entry 2); so does the form (log entry 12); what is
measured of ROM and fuses is free (log entry 8); granule g stands at address 32 g (log entry 16). -/
def Obligations.DeviceSteps : Prop :=
  ∀ (s : State),
    let d := s.dv
    (∃ t, exec .deviceReset s = .next t ∧ t.mem = [] ∧ t.hostMem = s.hostMem ∧ t.waves = [] ∧ t.ctxs = [] ∧ t.queues = [] ∧
      t.fab = {} ∧ t.cycle = 0 ∧ t.epoch = 0 ∧ t.dv.ready = 0 ∧ t.dv.errlog = 0 ∧ t.dv.cecnt = 0 ∧
      t.dv.rollback = d.rollback ∧ t.dv.leaf = d.leaf ∧ t.dv.form = d.form ∧
      (d.staged = none → t.dv.flash = d.flash ∧ t.dv.window = d.window)) ∧
    (∀ k, d.ready.getLsbD k = false → k < 32 → (k = 0 ∨ k = 3 ∧ d.verifies d.flash = true ∨ k ≠ 3 ∧ d.fw = true) →
      ∃ t, exec (.readyBitSet k) s = .next t ∧ OnlyDevice s t ∧
        ∀ j, t.dv.ready.getLsbD j = (d.ready.getLsbD j || j == k)) ∧
    (∃ t, exec .standbyPowerLoss s = .next t ∧ OnlyDevice s t ∧ t.dv = { d with window := [], standby := false }) ∧
    (∀ off n (v : BitVec 64), n ≠ 8 ∨ off % 8 ≠ 0 ∨ d.fw = false ∧ 0x100_0000 ≤ off ∨
        (∀ e ∈ [(0, 2 ^ 16), (0x10_0000, 2 ^ 20), (0x20_0000, 2 ^ 18), (0x30_0000, 2 ^ 16), (0x40_0000, 2 ^ 16),
          (0x100_0000, 2 ^ 24)], off < e.1 ∨ e.1 + e.2 ≤ off) →
      exec (.registerWrite off n v) s = .next s ∧ (s.fab.host = .up → (s.choose (.ioRead off n)).fab.outbox = s.fab.outbox ++
        [{ dest := 0xFFFE, tick := s.fab.tick, body := .hostData (List.replicate n 0) }])) ∧
    (∀ off (v : BitVec 64), off % 8 = 0 → off < 2 ^ 24 → d.fw = true →
      ∃ t, exec (.registerWrite (0x100_0000 + off) 8 v) s = .next t ∧
        t.regRead 5 off = v ∧ ∀ o, o / 8 ≠ off / 8 → t.regRead 5 o = s.regRead 5 o) ∧
    (∀ v : BitVec 64, ∃ t, exec (.registerWrite 0x10 8 v) s = .next t ∧ OnlyDevice s t ∧
      t.dv = { d with errValid := d.errValid && !v.getLsbD 63, thermal := d.thermal && !v.getLsbD 62 }) ∧
    (∀ q (v : BitVec 64), q < 4096 → (s.queues.get q).st = .disabled →
      ∃ t, exec (.registerWrite (0x20_0000 + 64 * q) 8 v) s = .next t ∧ OnlyQueue s t q ∧
        t.regRead 2 (64 * q) = v &&& ~~~0xFF) ∧
    (∀ region off, regionOk region off = true → (region = 5 → d.fw = true) → s.fab.host = .up →
      (s.choose (.ioRead (regionBase region + off) 8)).fab.outbox = s.fab.outbox ++
        [{ dest := 0xFFFE, tick := s.fab.tick, body := .hostData (bytesLE 8 (s.regRead region off).toNat) }]) ∧
    ((d.sb && d.standby) = false → ∀ region off (v : BitVec 64) nonce cap msg,
      exec (.read64 region off) s = .next s ∧ exec (.write64 region off v) s = .next s ∧ exec .logReq s = .next s ∧
      exec (.attest nonce) s = .next s ∧ exec (.power cap) s = .next s ∧ exec (.mctpControl msg) s = .next s) ∧
    ((d.sb && d.standby) = true →
      let answers (i : Instr) (P : Falja → Prop) : Prop := ∃ t r, exec i s = .next t ∧ t.dv.falja = d.falja ++ [r] ∧ P r
      (∀ region off, answers (.read64 region off) fun r =>
        r = if regionOk region off then .value 0 (s.regRead region off) else .value 1 0) ∧
      (∀ region off v, answers (.write64 region off v) fun r => r = .status
        (if regionOk region off then (if s.refusesWrite region off v then 2 else 0) else 1)) ∧
      (∀ region off v, regionOk region off = false →
        ∃ t, exec (.write64 region off v) s = .next t ∧ OnlyDevice s t ∧ t.dv = { d with falja := t.dv.falja }) ∧
      answers .logReq (fun r => r = .log d.errlog (u64 d.cecnt) ((List.range 256).map fun i => (i, (s.ctxs.get i).status))) ∧
      (∀ cap, answers (.power cap) fun r => r = .status (if 800 ≤ cap ∧ cap ≤ 3200 then 0 else 4)) ∧
      (∀ cap, 800 ≤ cap → cap ≤ 3200 → ∃ t, exec (.power cap) s = .next t ∧ t.dv.cap = cap) ∧
      (∀ nonce, d.leaf < 2 ^ 20 → ∃ t m sig key, exec (.attest nonce) s = .next t ∧ t.dv.leaf = d.leaf + 1 ∧
        m = (sha256 Config.rom).append ((sha256 d.flash).append (sha256 (Config.fuses d.rollback d.leaf))) ∧
        t.dv.falja = d.falja ++ [.attest 0 nonce m sig key]) ∧
      (∀ nonce, 2 ^ 20 ≤ d.leaf → answers (.attest nonce) fun r => r = .status 3) ∧
      ∀ msg, answers (.mctpControl msg) fun r => ∃ bytes, r = .mctp bytes) ∧
    (exec .junctionLimit s = .next { s with dv := { d with thermal := true, stopped := true } }) ∧
    (exec .thermalResume s = .next { s with dv := { d with stopped := false } }) ∧
    (∀ held, exec (.issueGating held) s = .next { s with dv := { d with gated := held } }) ∧
    (∀ deg, exec (.coolantInlet deg) s = .next { s with dv :=
      if 55 ≤ deg then { d with shut := true } else { d with inletCap := if deg ≤ 45 then 3200 else 3200 - 80 * (deg - 45) } }) ∧
    (∀ src g, (∃ t, exec (.softError src g true) s = .next t ∧ OnlyDevice s t ∧
        t.dv = { d with cecnt := if d.cecnt < 2 ^ 32 - 1 then d.cecnt + 1 else 2 ^ 32 - 1 }) ∧
      (∃ t, exec (.softError src g false) s = .next t ∧ OnlyDevice s t ∧ (src, g) ∈ t.dv.bad ∧ t.dv.cecnt = d.cecnt ∧
        ∀ y, y ≠ (src, g) → (y ∈ t.dv.bad ↔ y ∈ d.bad)) ∧
      ((src, g) ∈ d.bad → d.errValid = true → exec (.scrub src g) s = .next s) ∧
      ((src, g) ∈ d.bad → d.errValid = false → ∃ t, exec (.scrub src g) s = .next t ∧ OnlyDevice s t ∧
        t.dv = { d with errValid := true, errSource := sourceCode src, errAddr := 32 * g % 2 ^ 52 })) ∧
    (d.fw = false ∨ s.fab.host ≠ .up → ∀ op, exec (.cxlMemAccess op) s = .next s) ∧
    (∀ pa n, d.hbm.getLsbD (pa / 2 ^ 36) = false → exec (.cxlMemAccess (.load pa n)) s = .next s) ∧
    (s.fab.host = .up →
      (∀ pa n, d.fw = true → s.inDevice pa n = true → d.bad = [] → ∃ t, exec (.cxlMemAccess (.load pa n)) s = .next t ∧
        t.mem = s.mem ∧ t.fab.outbox = s.fab.outbox ++
          [{ dest := 0xFFFE, tick := s.fab.tick, body := .hostData ((List.range n).map fun i => s.mem.get (pa + i)) }]) ∧
      (∀ cells : List (Nat × BitVec 8), d.fw = true → (cells.all fun c => s.inDevice c.1 1) = true →
        ∃ t, exec (.cxlMemAccess (.store cells)) s = .next t ∧ t.mem = s.mem.putAll cells ∧ t.fab.outbox = s.fab.outbox) ∧
      ∀ line, ∃ t, exec (.cxlCacheSnoop line) s = .next t ∧ OnlyFab s t ∧
        t.fab.outbox = s.fab.outbox ++ [{ dest := 0xFFFE, tick := s.fab.tick, body := .hostSnoop line }])

/-! ### The whole machine -/

/-- A step of the schedule's next act runs the instruction decoded at the wave's place, or the step or the choice named, in
a state that differs only in who is at work; then the cycles it takes pass. While power or thermal control holds issue back,
no engine and no request to memory acts (R427). A machine that has shut down does nothing but answer on the Falja port, from
the standby supply (R423, R426). With nothing scheduled the part acts of itself and never stops; a context's idle span starts
when every wave of it waits with nothing under way and ends when that ceases, the conditions being looked at after every step
(R51, R52, R160, R316). What acts next, how many cycles a step takes and when the idle conditions are looked at are the
model's choice (log entries 5, 7 and 58). -/
def Obligations.StepRunsDecodedInstruction : Prop :=
  (∀ (s : State) (wi : Nat) (r : List Act) (ps : List W32) (i : Instr), s.dv.shut = false → s.mayIssue wi = true →
    let w := s.waves.get wi
    (s.sched = .ctl wi :: r → w.vec.pend = none ∨ w.vec.held = true → w.vec.back = [] ∨ w.ctl.owed = [] →
      CodeAt s (s.ctxOf w) w.ctl.pc ps →
      decode false ps = .ok (i, ps.length) → step s = afterStep (exec i (ctlState s wi r))) ∧
    (s.sched = .ctl wi :: r → w.vec.pend = none ∨ w.vec.held = true → w.vec.back ≠ [] → w.ctl.owed ≠ [] →
      step s = afterStep (exec .backQueueAnswer (ctlState s wi r))) ∧
    (∀ b, s.sched = .vec wi :: r → w.vec.pend = none → w.vec.held = false → w.vec.block = some b →
      b.at_ + ps.length ≤ b.len →
      CodeAt s (s.ctxOf w) w.vecSite ps → decode true ps = .ok (i, ps.length) →
      step s = afterStep (exec i (vecState s wi r))) ∧
    (∀ tok, s.sched = .vec wi :: r → w.vec.pend = none → w.vec.held = false → w.vec.block = none →
      w.ctl.queue.head? = some tok →
      step s = afterStep (exec (tokenStep tok) (vecState s wi r)))) ∧
  (∀ (s : State) (i : Instr) (r : List Act), s.dv.shut = false ∨ Sys2Proof.Machine.Instr.onStandby i = true →
    s.sched = .ev i :: r → i.isEvent = true →
    i.eventOk = true → i ∉ [Instr.vrunToken, .maskToken, .requestToken, .backQueueAnswer] →
    (s.heldBack = true → (Act.ev i).held = false) → step s = afterStep (exec i { s with sched := r })) ∧
  (∀ (s : State) (c : Choice) (r : List Act), s.dv.shut = false → s.sched = .choose c :: r →
    (s.heldBack = true → (Act.choose c).held = false) →
    step s = afterStep (.next (({ s with sched := r } : State).choose c))) ∧
  (∀ (s : State) (a : Act) (r : List Act), s.dv.shut = false → s.sched = a :: r → s.heldBack = true → a.held = true →
    step s = afterStep (.next { s with sched := r })) ∧
  (∀ s : State, s.dv.shut = true → s.onStandby = false → step s = .fault .shutDown) ∧
  (∀ s : State, s.dv.shut = false → s.sched = [] → ∃ t, step s = .next t) ∧
  (∀ s : State, ∃ t n, afterStep (.next s) = .next t ∧ t.cycle = s.cycle + 1 + n ∧ t.free = s.free + 1 ∧
    t.waves = s.waves ∧
    (∀ ci, t.idleSince.get ci =
      if t.idleNow ci then (if s.idleSince.get ci = 0 then t.own + 1 else s.idleSince.get ci) else 0) ∧
    (s.sems = [] → s.late = [] → s.lockq = [] → (∀ e ∈ s.ctxs, e.2.jobst ≠ 1 ∧ e.2.frames = []) →
      (∀ m ∈ s.fab.outbox, ∀ j i k, m.body ≠ .fbarArrive j i k none) →
      t = { s with
        cycle := t.cycle, own := t.own, free := t.free, fab := t.fab, idleSince := t.idleSince, onward := t.onward } ∧
      t.fab = { s.fab with sub := t.fab.sub, tick := t.fab.tick }))

/-- The machine right after reset: nothing ready, no context, queue or port, every wave slot free, time at zero, and the
invariant holds (R118, R120, R394, R421; log entries 2 and 3). -/
def Obligations.ResetState : Prop :=
  let s := State.reset
  s.dv.ready = 0 ∧ s.dv.errlog = 0 ∧ s.dv.cecnt = 0 ∧ (∀ c, (s.ctxs.get c).st = .empty ∧ (s.ctxs.get c).status = 0) ∧
  (∀ q, (s.queues.get q).st = .disabled ∧ (s.queues.get q).status = 0) ∧
  (∀ p, (s.port p).st = .disabled ∧ (s.port p).word = 0) ∧ s.fab.pkgid = 0 ∧ s.fab.tickcfg = 2 ∧
  (∀ w, (s.waves.get w).st = .free) ∧ s.cycle = 0 ∧ s.epoch = 0 ∧ s.fab.tick = 0 ∧ MachineInv s

/-- The memories keep their one form, and the sub-tick stays inside the tick, through every step (R404; log entry 1). -/
def Obligations.EveryStepKeepsMachineInv : Prop := ∀ s t : State, MachineInv s → step s = .next t → MachineInv t

/-- Decoding the encoding of any well-formed instruction, whatever follows it, gives the instruction and its length
(R51–R76). -/
def Obligations.DecodeUndoesEncode : Prop :=
  ∀ (i : Instr) (ps rest : List W32), i.wf = true → encode i = some ps →
    decode i.vec (ps ++ rest) = .ok (i, ps.length) ∧ ps.length = parcelsOfInstr i

/-- The words of the manual's own examples decode to the instructions it gives (R53, R54, R68, R69). -/
def Obligations.ExampleWordsDecode : Prop :=
  decode true [0x04143811, 0x00400806] = .ok (.fma
    { guard := 3, gneg := false, d := 10, a := 2, b := 3, c := 4, mod := 0x20, ext := .none }, 2) ∧
  decode false [0x01194027] = .ok (.clauseHeader { len := 4, set2 := 6, set1 := 5, wait := 9 }, 1) ∧
  decode false [0x08100121, 0x011A8000] = .ok (.sld
    { guard := 0, gneg := false, d := 8, a := 4, b := 0, c := 0x40, mod := 0x8D, ext := .none }, 2) ∧
  decode false [0x007FC183] = .ok (.clauseHeader { len := 1, set2 := 15, set1 := 15, wait := 0x60 }, 1) ∧
  decode false [0x24202804] = .ok (.addI64Short { d := 10, a := 8, b := 9 }, 1) ∧
  decode false [0x04143811, 0x00400806] = .error .opcode
end

