-- ==== Sys2Proof/Laws/Tab.lean ====
section
/-!
SUPPORT. The laws of sparse tables: a read after a write, of any table; and that every operation keeps the canonical
form.
-/
namespace Sys2Proof.Machine

variable {α : Type} [Inhabited α] [DecidableEq α]

/-! ### A read after a write -/

omit [DecidableEq α] in
@[simp] theorem Tab.get_erase_same (k : Nat) : ∀ t : Tab α, (t.erase k).get k = default
  | [] => rfl
  | (j, x) :: r => by
    unfold Tab.erase
    split_ifs with h
    · exact Tab.get_erase_same k r
    · simp only [Tab.get, if_neg h]; exact Tab.get_erase_same k r

omit [DecidableEq α] in
theorem Tab.get_erase_ne {k k' : Nat} (hk : k' ≠ k) : ∀ t : Tab α, (t.erase k).get k' = t.get k'
  | [] => rfl
  | (j, x) :: r => by
    unfold Tab.erase
    split_ifs with h
    · simp only [Tab.get]; rw [if_neg (by omega)]; exact Tab.get_erase_ne hk r
    · simp only [Tab.get]; rw [Tab.get_erase_ne hk r]

omit [DecidableEq α] in
theorem Tab.get_place_erase (k : Nat) (y : α) : ∀ t : Tab α, ((t.erase k).place k y).get k = y
  | [] => by simp [Tab.erase, Tab.place, Tab.get]
  | (j, x) :: r => by
    unfold Tab.erase
    split_ifs with h
    · exact Tab.get_place_erase k y r
    · unfold Tab.place
      split_ifs with h'
      · simp [Tab.get]
      · simp only [Tab.get, if_neg h]; exact Tab.get_place_erase k y r

omit [DecidableEq α] in
theorem Tab.get_place_ne {k k' : Nat} (y : α) (hk : k' ≠ k) : ∀ t : Tab α, (t.place k y).get k' = t.get k'
  | [] => by simp [Tab.place, Tab.get, Ne.symm hk]
  | (j, x) :: r => by
    unfold Tab.place
    split_ifs with h
    · simp only [Tab.get, if_neg (Ne.symm hk)]
    · simp only [Tab.get]; rw [Tab.get_place_ne y hk r]

/-- A read after a write to the same key gives the value written. -/
@[simp] theorem Tab.get_put_same (t : Tab α) (k : Nat) (y : α) : (t.put k y).get k = y := by
  unfold Tab.put
  split_ifs with hy
  · rw [hy]; exact Tab.get_erase_same k t
  · exact Tab.get_place_erase k y t

/-- A write leaves every other key alone. -/
theorem Tab.get_put_ne (t : Tab α) {k k' : Nat} (y : α) (hk : k' ≠ k) : (t.put k y).get k' = t.get k' := by
  unfold Tab.put
  split_ifs
  · exact Tab.get_erase_ne hk t
  · exact (Tab.get_place_ne y hk _).trans (Tab.get_erase_ne hk t)

/-- A read after a write, either way. -/
theorem Tab.get_put (t : Tab α) (k k' : Nat) (y : α) : (t.put k y).get k' = if k' = k then y else t.get k' := by
  split_ifs with h
  · rw [h]; exact Tab.get_put_same t k y
  · exact Tab.get_put_ne t y h

@[simp] theorem Tab.get_modify_same (t : Tab α) (k : Nat) (f : α → α) : (t.modify k f).get k = f (t.get k) :=
  Tab.get_put_same t k _

theorem Tab.get_modify_ne (t : Tab α) {k k' : Nat} (f : α → α) (hk : k' ≠ k) : (t.modify k f).get k' = t.get k' :=
  Tab.get_put_ne t _ hk

/-- Several writes leave every key they do not name alone. -/
theorem Tab.get_putAll_ne {k' : Nat} (l : List (Nat × α)) :
    ∀ t : Tab α, (∀ e ∈ l, k' ≠ e.1) → (t.putAll l).get k' = t.get k' := by
  induction l with
  | nil => exact fun _ _ => rfl
  | cons e r ih =>
    intro t hl
    exact (ih _ fun x hx => hl x (List.mem_cons_of_mem _ hx)).trans (Tab.get_put_ne t e.2 (hl e List.mem_cons_self))

/-! ### The canonical form -/

theorem Tab.above_mono {lo lo' : Nat} (h : lo' ≤ lo) : ∀ t : Tab α, Tab.above lo t = true → Tab.above lo' t = true
  | [], _ => rfl
  | (j, x) :: r, ht => by
    simp only [Tab.above, Bool.and_eq_true, decide_eq_true_eq] at ht ⊢
    exact ⟨⟨by omega, ht.1.2⟩, ht.2⟩

theorem Tab.above_erase {lo k : Nat} : ∀ t : Tab α, Tab.above lo t = true → Tab.above lo (t.erase k) = true
  | [], _ => rfl
  | (j, x) :: r, ht => by
    simp only [Tab.above, Bool.and_eq_true, decide_eq_true_eq] at ht
    unfold Tab.erase
    split_ifs with h
    · exact Tab.above_mono (by omega) _ (Tab.above_erase r ht.2)
    · simp only [Tab.above, Bool.and_eq_true, decide_eq_true_eq]
      exact ⟨ht.1, Tab.above_erase r ht.2⟩

theorem Tab.above_place {lo k : Nat} {y : α} (hk : lo ≤ k) (hy : y ≠ default) :
    ∀ t : Tab α, Tab.above lo (t.erase k) = true → Tab.above lo ((t.erase k).place k y) = true
  | [], _ => by simp [Tab.erase, Tab.place, Tab.above, hk, hy]
  | (j, x) :: r, ht => by
    unfold Tab.erase at ht ⊢
    split_ifs at ht ⊢ with h
    · exact Tab.above_place hk hy r ht
    · simp only [Tab.above, Bool.and_eq_true, decide_eq_true_eq] at ht
      unfold Tab.place
      split_ifs with h'
      · simp only [Tab.above, Bool.and_eq_true, decide_eq_true_eq]
        exact ⟨⟨hk, hy⟩, ⟨by omega, ht.1.2⟩, ht.2⟩
      · simp only [Tab.above, Bool.and_eq_true, decide_eq_true_eq]
        exact ⟨ht.1, Tab.above_place (by omega) hy r ht.2⟩

/-- A write keeps the canonical form. -/
@[simp] theorem Tab.wf_put {t : Tab α} (k : Nat) (y : α) (h : t.wf = true) : (t.put k y).wf = true := by
  unfold Tab.put
  split_ifs with hy
  · exact Tab.above_erase t h
  · exact Tab.above_place (Nat.zero_le k) hy t (Tab.above_erase t h)

@[simp] theorem Tab.wf_modify {t : Tab α} (k : Nat) (f : α → α) (h : t.wf = true) : (t.modify k f).wf = true :=
  Tab.wf_put k _ h

@[simp] theorem Tab.wf_putAll (l : List (Nat × α)) : ∀ {t : Tab α}, t.wf = true → (t.putAll l).wf = true := by
  induction l with
  | nil => exact fun h => h
  | cons e r ih => exact fun h => ih (Tab.wf_put e.1 e.2 h)

theorem Tab.wf_foldl_put (f : Nat → α) (l : List Nat) :
    ∀ {t : Tab α}, t.wf = true → Tab.wf (l.foldl (fun acc k => acc.put k (f k)) t) = true := by
  induction l with
  | nil => exact fun h => h
  | cons e r ih => exact fun h => ih (Tab.wf_put _ _ h)

theorem Tab.get_foldl_put (f : Nat → α) (l : List Nat) (k : Nat) :
    ∀ t : Tab α, Tab.get (l.foldl (fun acc k => acc.put k (f k)) t) k = if k ∈ l then f k else t.get k := by
  induction l with
  | nil => simp
  | cons e r ih =>
    intro t
    simp only [List.foldl_cons, ih, Tab.get_put, List.mem_cons]
    by_cases h : k ∈ r
    · simp [h]
    · by_cases he : k = e <;> simp [h, he]

/-- A change of every entry gives a table in canonical form. -/
@[simp] theorem Tab.wf_mapVals (t : Tab α) (f : Nat → α → α) : (t.mapVals f).wf = true :=
  Tab.wf_foldl_put (fun k => f k (t.get k)) t.keys rfl

/-- An entry after a change of every entry. -/
theorem Tab.get_mapVals (t : Tab α) (f : Nat → α → α) (k : Nat) :
    (t.mapVals f).get k = if k ∈ t.keys then f k (t.get k) else default :=
  Tab.get_foldl_put (fun k => f k (t.get k)) t.keys k []

omit [DecidableEq α] in
/-- A key that is not listed reads as the default. -/
theorem Tab.get_of_not_mem {k : Nat} : ∀ {t : Tab α}, k ∉ t.keys → t.get k = default
  | [], _ => rfl
  | (j, x) :: r, h => by
    simp only [Tab.keys, List.map_cons, List.mem_cons, not_or] at h
    simp only [Tab.get, if_neg (Ne.symm h.1)]
    exact Tab.get_of_not_mem h.2

end Sys2Proof.Machine
end

