-- ==== Sys2Proof/Laws/State.lean ====
section
/-!
SUPPORT. What each named update of the state leaves alone, field by field, and what it makes of the field it changes; the
wave at work after a change of it.
-/
namespace Sys2Proof.Machine

variable (s : State)

/-! ### setWave -/

@[simp] theorem State.dv_setWave (i : Nat) (w : Wave) : (s.setWave i w).dv = s.dv := rfl
@[simp] theorem State.fab_setWave (i : Nat) (w : Wave) : (s.setWave i w).fab = s.fab := rfl
@[simp] theorem State.mem_setWave (i : Nat) (w : Wave) : (s.setWave i w).mem = s.mem := rfl
@[simp] theorem State.hostMem_setWave (i : Nat) (w : Wave) : (s.setWave i w).hostMem = s.hostMem := rfl
@[simp] theorem State.cores_setWave (i : Nat) (w : Wave) : (s.setWave i w).cores = s.cores := rfl
@[simp] theorem State.gangs_setWave (i : Nat) (w : Wave) : (s.setWave i w).gangs = s.gangs := rfl
@[simp] theorem State.kernels_setWave (i : Nat) (w : Wave) : (s.setWave i w).kernels = s.kernels := rfl
@[simp] theorem State.graphs_setWave (i : Nat) (w : Wave) : (s.setWave i w).graphs = s.graphs := rfl
@[simp] theorem State.ctxs_setWave (i : Nat) (w : Wave) : (s.setWave i w).ctxs = s.ctxs := rfl
@[simp] theorem State.queues_setWave (i : Nat) (w : Wave) : (s.setWave i w).queues = s.queues := rfl
@[simp] theorem State.locks_setWave (i : Nat) (w : Wave) : (s.setWave i w).locks = s.locks := rfl
@[simp] theorem State.lockq_setWave (i : Nat) (w : Wave) : (s.setWave i w).lockq = s.lockq := rfl
@[simp] theorem State.late_setWave (i : Nat) (w : Wave) : (s.setWave i w).late = s.late := rfl
@[simp] theorem State.adds_setWave (i : Nat) (w : Wave) : (s.setWave i w).adds = s.adds := rfl
@[simp] theorem State.chans_setWave (i : Nat) (w : Wave) : (s.setWave i w).chans = s.chans := rfl
@[simp] theorem State.sems_setWave (i : Nat) (w : Wave) : (s.setWave i w).sems = s.sems := rfl
@[simp] theorem State.leases_setWave (i : Nat) (w : Wave) : (s.setWave i w).leases = s.leases := rfl
@[simp] theorem State.epoch_setWave (i : Nat) (w : Wave) : (s.setWave i w).epoch = s.epoch := rfl
@[simp] theorem State.idleSince_setWave (i : Nat) (w : Wave) : (s.setWave i w).idleSince = s.idleSince := rfl
@[simp] theorem State.onward_setWave (i : Nat) (w : Wave) : (s.setWave i w).onward = s.onward := rfl
@[simp] theorem State.cycle_setWave (i : Nat) (w : Wave) : (s.setWave i w).cycle = s.cycle := rfl
@[simp] theorem State.own_setWave (i : Nat) (w : Wave) : (s.setWave i w).own = s.own := rfl
@[simp] theorem State.sched_setWave (i : Nat) (w : Wave) : (s.setWave i w).sched = s.sched := rfl
@[simp] theorem State.cur_setWave (i : Nat) (w : Wave) : (s.setWave i w).cur = s.cur := rfl
@[simp] theorem State.free_setWave (i : Nat) (w : Wave) : (s.setWave i w).free = s.free := rfl
@[simp] theorem State.uid_setWave (i : Nat) (w : Wave) : (s.setWave i w).uid = s.uid := rfl

/-! ### modWave -/

@[simp] theorem State.dv_modWave (i : Nat) (f : Wave → Wave) : (s.modWave i f).dv = s.dv := rfl
@[simp] theorem State.fab_modWave (i : Nat) (f : Wave → Wave) : (s.modWave i f).fab = s.fab := rfl
@[simp] theorem State.mem_modWave (i : Nat) (f : Wave → Wave) : (s.modWave i f).mem = s.mem := rfl
@[simp] theorem State.hostMem_modWave (i : Nat) (f : Wave → Wave) : (s.modWave i f).hostMem = s.hostMem := rfl
@[simp] theorem State.cores_modWave (i : Nat) (f : Wave → Wave) : (s.modWave i f).cores = s.cores := rfl
@[simp] theorem State.gangs_modWave (i : Nat) (f : Wave → Wave) : (s.modWave i f).gangs = s.gangs := rfl
@[simp] theorem State.kernels_modWave (i : Nat) (f : Wave → Wave) : (s.modWave i f).kernels = s.kernels := rfl
@[simp] theorem State.graphs_modWave (i : Nat) (f : Wave → Wave) : (s.modWave i f).graphs = s.graphs := rfl
@[simp] theorem State.ctxs_modWave (i : Nat) (f : Wave → Wave) : (s.modWave i f).ctxs = s.ctxs := rfl
@[simp] theorem State.queues_modWave (i : Nat) (f : Wave → Wave) : (s.modWave i f).queues = s.queues := rfl
@[simp] theorem State.locks_modWave (i : Nat) (f : Wave → Wave) : (s.modWave i f).locks = s.locks := rfl
@[simp] theorem State.lockq_modWave (i : Nat) (f : Wave → Wave) : (s.modWave i f).lockq = s.lockq := rfl
@[simp] theorem State.late_modWave (i : Nat) (f : Wave → Wave) : (s.modWave i f).late = s.late := rfl
@[simp] theorem State.adds_modWave (i : Nat) (f : Wave → Wave) : (s.modWave i f).adds = s.adds := rfl
@[simp] theorem State.chans_modWave (i : Nat) (f : Wave → Wave) : (s.modWave i f).chans = s.chans := rfl
@[simp] theorem State.sems_modWave (i : Nat) (f : Wave → Wave) : (s.modWave i f).sems = s.sems := rfl
@[simp] theorem State.leases_modWave (i : Nat) (f : Wave → Wave) : (s.modWave i f).leases = s.leases := rfl
@[simp] theorem State.epoch_modWave (i : Nat) (f : Wave → Wave) : (s.modWave i f).epoch = s.epoch := rfl
@[simp] theorem State.idleSince_modWave (i : Nat) (f : Wave → Wave) : (s.modWave i f).idleSince = s.idleSince := rfl
@[simp] theorem State.onward_modWave (i : Nat) (f : Wave → Wave) : (s.modWave i f).onward = s.onward := rfl
@[simp] theorem State.cycle_modWave (i : Nat) (f : Wave → Wave) : (s.modWave i f).cycle = s.cycle := rfl
@[simp] theorem State.own_modWave (i : Nat) (f : Wave → Wave) : (s.modWave i f).own = s.own := rfl
@[simp] theorem State.sched_modWave (i : Nat) (f : Wave → Wave) : (s.modWave i f).sched = s.sched := rfl
@[simp] theorem State.cur_modWave (i : Nat) (f : Wave → Wave) : (s.modWave i f).cur = s.cur := rfl
@[simp] theorem State.free_modWave (i : Nat) (f : Wave → Wave) : (s.modWave i f).free = s.free := rfl
@[simp] theorem State.uid_modWave (i : Nat) (f : Wave → Wave) : (s.modWave i f).uid = s.uid := rfl

/-! ### modMe -/

@[simp] theorem State.dv_modMe (f : Wave → Wave) : (s.modMe f).dv = s.dv := rfl
@[simp] theorem State.fab_modMe (f : Wave → Wave) : (s.modMe f).fab = s.fab := rfl
@[simp] theorem State.mem_modMe (f : Wave → Wave) : (s.modMe f).mem = s.mem := rfl
@[simp] theorem State.hostMem_modMe (f : Wave → Wave) : (s.modMe f).hostMem = s.hostMem := rfl
@[simp] theorem State.cores_modMe (f : Wave → Wave) : (s.modMe f).cores = s.cores := rfl
@[simp] theorem State.gangs_modMe (f : Wave → Wave) : (s.modMe f).gangs = s.gangs := rfl
@[simp] theorem State.kernels_modMe (f : Wave → Wave) : (s.modMe f).kernels = s.kernels := rfl
@[simp] theorem State.graphs_modMe (f : Wave → Wave) : (s.modMe f).graphs = s.graphs := rfl
@[simp] theorem State.ctxs_modMe (f : Wave → Wave) : (s.modMe f).ctxs = s.ctxs := rfl
@[simp] theorem State.queues_modMe (f : Wave → Wave) : (s.modMe f).queues = s.queues := rfl
@[simp] theorem State.locks_modMe (f : Wave → Wave) : (s.modMe f).locks = s.locks := rfl
@[simp] theorem State.lockq_modMe (f : Wave → Wave) : (s.modMe f).lockq = s.lockq := rfl
@[simp] theorem State.late_modMe (f : Wave → Wave) : (s.modMe f).late = s.late := rfl
@[simp] theorem State.adds_modMe (f : Wave → Wave) : (s.modMe f).adds = s.adds := rfl
@[simp] theorem State.chans_modMe (f : Wave → Wave) : (s.modMe f).chans = s.chans := rfl
@[simp] theorem State.sems_modMe (f : Wave → Wave) : (s.modMe f).sems = s.sems := rfl
@[simp] theorem State.leases_modMe (f : Wave → Wave) : (s.modMe f).leases = s.leases := rfl
@[simp] theorem State.epoch_modMe (f : Wave → Wave) : (s.modMe f).epoch = s.epoch := rfl
@[simp] theorem State.idleSince_modMe (f : Wave → Wave) : (s.modMe f).idleSince = s.idleSince := rfl
@[simp] theorem State.onward_modMe (f : Wave → Wave) : (s.modMe f).onward = s.onward := rfl
@[simp] theorem State.cycle_modMe (f : Wave → Wave) : (s.modMe f).cycle = s.cycle := rfl
@[simp] theorem State.own_modMe (f : Wave → Wave) : (s.modMe f).own = s.own := rfl
@[simp] theorem State.sched_modMe (f : Wave → Wave) : (s.modMe f).sched = s.sched := rfl
@[simp] theorem State.cur_modMe (f : Wave → Wave) : (s.modMe f).cur = s.cur := rfl
@[simp] theorem State.free_modMe (f : Wave → Wave) : (s.modMe f).free = s.free := rfl
@[simp] theorem State.uid_modMe (f : Wave → Wave) : (s.modMe f).uid = s.uid := rfl

/-! ### modCore -/

@[simp] theorem State.dv_modCore (i : Nat) (f : CoreSt → CoreSt) : (s.modCore i f).dv = s.dv := rfl
@[simp] theorem State.fab_modCore (i : Nat) (f : CoreSt → CoreSt) : (s.modCore i f).fab = s.fab := rfl
@[simp] theorem State.mem_modCore (i : Nat) (f : CoreSt → CoreSt) : (s.modCore i f).mem = s.mem := rfl
@[simp] theorem State.hostMem_modCore (i : Nat) (f : CoreSt → CoreSt) : (s.modCore i f).hostMem = s.hostMem := rfl
@[simp] theorem State.waves_modCore (i : Nat) (f : CoreSt → CoreSt) : (s.modCore i f).waves = s.waves := rfl
@[simp] theorem State.gangs_modCore (i : Nat) (f : CoreSt → CoreSt) : (s.modCore i f).gangs = s.gangs := rfl
@[simp] theorem State.kernels_modCore (i : Nat) (f : CoreSt → CoreSt) : (s.modCore i f).kernels = s.kernels := rfl
@[simp] theorem State.graphs_modCore (i : Nat) (f : CoreSt → CoreSt) : (s.modCore i f).graphs = s.graphs := rfl
@[simp] theorem State.ctxs_modCore (i : Nat) (f : CoreSt → CoreSt) : (s.modCore i f).ctxs = s.ctxs := rfl
@[simp] theorem State.queues_modCore (i : Nat) (f : CoreSt → CoreSt) : (s.modCore i f).queues = s.queues := rfl
@[simp] theorem State.locks_modCore (i : Nat) (f : CoreSt → CoreSt) : (s.modCore i f).locks = s.locks := rfl
@[simp] theorem State.lockq_modCore (i : Nat) (f : CoreSt → CoreSt) : (s.modCore i f).lockq = s.lockq := rfl
@[simp] theorem State.late_modCore (i : Nat) (f : CoreSt → CoreSt) : (s.modCore i f).late = s.late := rfl
@[simp] theorem State.adds_modCore (i : Nat) (f : CoreSt → CoreSt) : (s.modCore i f).adds = s.adds := rfl
@[simp] theorem State.chans_modCore (i : Nat) (f : CoreSt → CoreSt) : (s.modCore i f).chans = s.chans := rfl
@[simp] theorem State.sems_modCore (i : Nat) (f : CoreSt → CoreSt) : (s.modCore i f).sems = s.sems := rfl
@[simp] theorem State.leases_modCore (i : Nat) (f : CoreSt → CoreSt) : (s.modCore i f).leases = s.leases := rfl
@[simp] theorem State.epoch_modCore (i : Nat) (f : CoreSt → CoreSt) : (s.modCore i f).epoch = s.epoch := rfl
@[simp] theorem State.idleSince_modCore (i : Nat) (f : CoreSt → CoreSt) : (s.modCore i f).idleSince = s.idleSince := rfl
@[simp] theorem State.onward_modCore (i : Nat) (f : CoreSt → CoreSt) : (s.modCore i f).onward = s.onward := rfl
@[simp] theorem State.cycle_modCore (i : Nat) (f : CoreSt → CoreSt) : (s.modCore i f).cycle = s.cycle := rfl
@[simp] theorem State.own_modCore (i : Nat) (f : CoreSt → CoreSt) : (s.modCore i f).own = s.own := rfl
@[simp] theorem State.sched_modCore (i : Nat) (f : CoreSt → CoreSt) : (s.modCore i f).sched = s.sched := rfl
@[simp] theorem State.cur_modCore (i : Nat) (f : CoreSt → CoreSt) : (s.modCore i f).cur = s.cur := rfl
@[simp] theorem State.free_modCore (i : Nat) (f : CoreSt → CoreSt) : (s.modCore i f).free = s.free := rfl
@[simp] theorem State.uid_modCore (i : Nat) (f : CoreSt → CoreSt) : (s.modCore i f).uid = s.uid := rfl

/-! ### modGang -/

@[simp] theorem State.dv_modGang (i : Nat) (f : Gang → Gang) : (s.modGang i f).dv = s.dv := rfl
@[simp] theorem State.fab_modGang (i : Nat) (f : Gang → Gang) : (s.modGang i f).fab = s.fab := rfl
@[simp] theorem State.mem_modGang (i : Nat) (f : Gang → Gang) : (s.modGang i f).mem = s.mem := rfl
@[simp] theorem State.hostMem_modGang (i : Nat) (f : Gang → Gang) : (s.modGang i f).hostMem = s.hostMem := rfl
@[simp] theorem State.waves_modGang (i : Nat) (f : Gang → Gang) : (s.modGang i f).waves = s.waves := rfl
@[simp] theorem State.cores_modGang (i : Nat) (f : Gang → Gang) : (s.modGang i f).cores = s.cores := rfl
@[simp] theorem State.kernels_modGang (i : Nat) (f : Gang → Gang) : (s.modGang i f).kernels = s.kernels := rfl
@[simp] theorem State.graphs_modGang (i : Nat) (f : Gang → Gang) : (s.modGang i f).graphs = s.graphs := rfl
@[simp] theorem State.ctxs_modGang (i : Nat) (f : Gang → Gang) : (s.modGang i f).ctxs = s.ctxs := rfl
@[simp] theorem State.queues_modGang (i : Nat) (f : Gang → Gang) : (s.modGang i f).queues = s.queues := rfl
@[simp] theorem State.locks_modGang (i : Nat) (f : Gang → Gang) : (s.modGang i f).locks = s.locks := rfl
@[simp] theorem State.lockq_modGang (i : Nat) (f : Gang → Gang) : (s.modGang i f).lockq = s.lockq := rfl
@[simp] theorem State.late_modGang (i : Nat) (f : Gang → Gang) : (s.modGang i f).late = s.late := rfl
@[simp] theorem State.adds_modGang (i : Nat) (f : Gang → Gang) : (s.modGang i f).adds = s.adds := rfl
@[simp] theorem State.chans_modGang (i : Nat) (f : Gang → Gang) : (s.modGang i f).chans = s.chans := rfl
@[simp] theorem State.sems_modGang (i : Nat) (f : Gang → Gang) : (s.modGang i f).sems = s.sems := rfl
@[simp] theorem State.leases_modGang (i : Nat) (f : Gang → Gang) : (s.modGang i f).leases = s.leases := rfl
@[simp] theorem State.epoch_modGang (i : Nat) (f : Gang → Gang) : (s.modGang i f).epoch = s.epoch := rfl
@[simp] theorem State.idleSince_modGang (i : Nat) (f : Gang → Gang) : (s.modGang i f).idleSince = s.idleSince := rfl
@[simp] theorem State.onward_modGang (i : Nat) (f : Gang → Gang) : (s.modGang i f).onward = s.onward := rfl
@[simp] theorem State.cycle_modGang (i : Nat) (f : Gang → Gang) : (s.modGang i f).cycle = s.cycle := rfl
@[simp] theorem State.own_modGang (i : Nat) (f : Gang → Gang) : (s.modGang i f).own = s.own := rfl
@[simp] theorem State.sched_modGang (i : Nat) (f : Gang → Gang) : (s.modGang i f).sched = s.sched := rfl
@[simp] theorem State.cur_modGang (i : Nat) (f : Gang → Gang) : (s.modGang i f).cur = s.cur := rfl
@[simp] theorem State.free_modGang (i : Nat) (f : Gang → Gang) : (s.modGang i f).free = s.free := rfl
@[simp] theorem State.uid_modGang (i : Nat) (f : Gang → Gang) : (s.modGang i f).uid = s.uid := rfl

/-! ### modKern -/

@[simp] theorem State.dv_modKern (i : Nat) (f : Kernel → Kernel) : (s.modKern i f).dv = s.dv := rfl
@[simp] theorem State.fab_modKern (i : Nat) (f : Kernel → Kernel) : (s.modKern i f).fab = s.fab := rfl
@[simp] theorem State.mem_modKern (i : Nat) (f : Kernel → Kernel) : (s.modKern i f).mem = s.mem := rfl
@[simp] theorem State.hostMem_modKern (i : Nat) (f : Kernel → Kernel) : (s.modKern i f).hostMem = s.hostMem := rfl
@[simp] theorem State.waves_modKern (i : Nat) (f : Kernel → Kernel) : (s.modKern i f).waves = s.waves := rfl
@[simp] theorem State.cores_modKern (i : Nat) (f : Kernel → Kernel) : (s.modKern i f).cores = s.cores := rfl
@[simp] theorem State.gangs_modKern (i : Nat) (f : Kernel → Kernel) : (s.modKern i f).gangs = s.gangs := rfl
@[simp] theorem State.graphs_modKern (i : Nat) (f : Kernel → Kernel) : (s.modKern i f).graphs = s.graphs := rfl
@[simp] theorem State.ctxs_modKern (i : Nat) (f : Kernel → Kernel) : (s.modKern i f).ctxs = s.ctxs := rfl
@[simp] theorem State.queues_modKern (i : Nat) (f : Kernel → Kernel) : (s.modKern i f).queues = s.queues := rfl
@[simp] theorem State.locks_modKern (i : Nat) (f : Kernel → Kernel) : (s.modKern i f).locks = s.locks := rfl
@[simp] theorem State.lockq_modKern (i : Nat) (f : Kernel → Kernel) : (s.modKern i f).lockq = s.lockq := rfl
@[simp] theorem State.late_modKern (i : Nat) (f : Kernel → Kernel) : (s.modKern i f).late = s.late := rfl
@[simp] theorem State.adds_modKern (i : Nat) (f : Kernel → Kernel) : (s.modKern i f).adds = s.adds := rfl
@[simp] theorem State.chans_modKern (i : Nat) (f : Kernel → Kernel) : (s.modKern i f).chans = s.chans := rfl
@[simp] theorem State.sems_modKern (i : Nat) (f : Kernel → Kernel) : (s.modKern i f).sems = s.sems := rfl
@[simp] theorem State.leases_modKern (i : Nat) (f : Kernel → Kernel) : (s.modKern i f).leases = s.leases := rfl
@[simp] theorem State.epoch_modKern (i : Nat) (f : Kernel → Kernel) : (s.modKern i f).epoch = s.epoch := rfl
@[simp] theorem State.idleSince_modKern (i : Nat) (f : Kernel → Kernel) : (s.modKern i f).idleSince = s.idleSince := rfl
@[simp] theorem State.onward_modKern (i : Nat) (f : Kernel → Kernel) : (s.modKern i f).onward = s.onward := rfl
@[simp] theorem State.cycle_modKern (i : Nat) (f : Kernel → Kernel) : (s.modKern i f).cycle = s.cycle := rfl
@[simp] theorem State.own_modKern (i : Nat) (f : Kernel → Kernel) : (s.modKern i f).own = s.own := rfl
@[simp] theorem State.sched_modKern (i : Nat) (f : Kernel → Kernel) : (s.modKern i f).sched = s.sched := rfl
@[simp] theorem State.cur_modKern (i : Nat) (f : Kernel → Kernel) : (s.modKern i f).cur = s.cur := rfl
@[simp] theorem State.free_modKern (i : Nat) (f : Kernel → Kernel) : (s.modKern i f).free = s.free := rfl
@[simp] theorem State.uid_modKern (i : Nat) (f : Kernel → Kernel) : (s.modKern i f).uid = s.uid := rfl

/-! ### modCtx -/

@[simp] theorem State.dv_modCtx (i : Nat) (f : Ctx → Ctx) : (s.modCtx i f).dv = s.dv := rfl
@[simp] theorem State.fab_modCtx (i : Nat) (f : Ctx → Ctx) : (s.modCtx i f).fab = s.fab := rfl
@[simp] theorem State.mem_modCtx (i : Nat) (f : Ctx → Ctx) : (s.modCtx i f).mem = s.mem := rfl
@[simp] theorem State.hostMem_modCtx (i : Nat) (f : Ctx → Ctx) : (s.modCtx i f).hostMem = s.hostMem := rfl
@[simp] theorem State.waves_modCtx (i : Nat) (f : Ctx → Ctx) : (s.modCtx i f).waves = s.waves := rfl
@[simp] theorem State.cores_modCtx (i : Nat) (f : Ctx → Ctx) : (s.modCtx i f).cores = s.cores := rfl
@[simp] theorem State.gangs_modCtx (i : Nat) (f : Ctx → Ctx) : (s.modCtx i f).gangs = s.gangs := rfl
@[simp] theorem State.kernels_modCtx (i : Nat) (f : Ctx → Ctx) : (s.modCtx i f).kernels = s.kernels := rfl
@[simp] theorem State.graphs_modCtx (i : Nat) (f : Ctx → Ctx) : (s.modCtx i f).graphs = s.graphs := rfl
@[simp] theorem State.queues_modCtx (i : Nat) (f : Ctx → Ctx) : (s.modCtx i f).queues = s.queues := rfl
@[simp] theorem State.locks_modCtx (i : Nat) (f : Ctx → Ctx) : (s.modCtx i f).locks = s.locks := rfl
@[simp] theorem State.lockq_modCtx (i : Nat) (f : Ctx → Ctx) : (s.modCtx i f).lockq = s.lockq := rfl
@[simp] theorem State.late_modCtx (i : Nat) (f : Ctx → Ctx) : (s.modCtx i f).late = s.late := rfl
@[simp] theorem State.adds_modCtx (i : Nat) (f : Ctx → Ctx) : (s.modCtx i f).adds = s.adds := rfl
@[simp] theorem State.chans_modCtx (i : Nat) (f : Ctx → Ctx) : (s.modCtx i f).chans = s.chans := rfl
@[simp] theorem State.sems_modCtx (i : Nat) (f : Ctx → Ctx) : (s.modCtx i f).sems = s.sems := rfl
@[simp] theorem State.leases_modCtx (i : Nat) (f : Ctx → Ctx) : (s.modCtx i f).leases = s.leases := rfl
@[simp] theorem State.epoch_modCtx (i : Nat) (f : Ctx → Ctx) : (s.modCtx i f).epoch = s.epoch := rfl
@[simp] theorem State.idleSince_modCtx (i : Nat) (f : Ctx → Ctx) : (s.modCtx i f).idleSince = s.idleSince := rfl
@[simp] theorem State.onward_modCtx (i : Nat) (f : Ctx → Ctx) : (s.modCtx i f).onward = s.onward := rfl
@[simp] theorem State.cycle_modCtx (i : Nat) (f : Ctx → Ctx) : (s.modCtx i f).cycle = s.cycle := rfl
@[simp] theorem State.own_modCtx (i : Nat) (f : Ctx → Ctx) : (s.modCtx i f).own = s.own := rfl
@[simp] theorem State.sched_modCtx (i : Nat) (f : Ctx → Ctx) : (s.modCtx i f).sched = s.sched := rfl
@[simp] theorem State.cur_modCtx (i : Nat) (f : Ctx → Ctx) : (s.modCtx i f).cur = s.cur := rfl
@[simp] theorem State.free_modCtx (i : Nat) (f : Ctx → Ctx) : (s.modCtx i f).free = s.free := rfl
@[simp] theorem State.uid_modCtx (i : Nat) (f : Ctx → Ctx) : (s.modCtx i f).uid = s.uid := rfl

/-! ### modQueue -/

@[simp] theorem State.dv_modQueue (i : Nat) (f : Queue → Queue) : (s.modQueue i f).dv = s.dv := rfl
@[simp] theorem State.fab_modQueue (i : Nat) (f : Queue → Queue) : (s.modQueue i f).fab = s.fab := rfl
@[simp] theorem State.mem_modQueue (i : Nat) (f : Queue → Queue) : (s.modQueue i f).mem = s.mem := rfl
@[simp] theorem State.hostMem_modQueue (i : Nat) (f : Queue → Queue) : (s.modQueue i f).hostMem = s.hostMem := rfl
@[simp] theorem State.waves_modQueue (i : Nat) (f : Queue → Queue) : (s.modQueue i f).waves = s.waves := rfl
@[simp] theorem State.cores_modQueue (i : Nat) (f : Queue → Queue) : (s.modQueue i f).cores = s.cores := rfl
@[simp] theorem State.gangs_modQueue (i : Nat) (f : Queue → Queue) : (s.modQueue i f).gangs = s.gangs := rfl
@[simp] theorem State.kernels_modQueue (i : Nat) (f : Queue → Queue) : (s.modQueue i f).kernels = s.kernels := rfl
@[simp] theorem State.graphs_modQueue (i : Nat) (f : Queue → Queue) : (s.modQueue i f).graphs = s.graphs := rfl
@[simp] theorem State.ctxs_modQueue (i : Nat) (f : Queue → Queue) : (s.modQueue i f).ctxs = s.ctxs := rfl
@[simp] theorem State.locks_modQueue (i : Nat) (f : Queue → Queue) : (s.modQueue i f).locks = s.locks := rfl
@[simp] theorem State.lockq_modQueue (i : Nat) (f : Queue → Queue) : (s.modQueue i f).lockq = s.lockq := rfl
@[simp] theorem State.late_modQueue (i : Nat) (f : Queue → Queue) : (s.modQueue i f).late = s.late := rfl
@[simp] theorem State.adds_modQueue (i : Nat) (f : Queue → Queue) : (s.modQueue i f).adds = s.adds := rfl
@[simp] theorem State.chans_modQueue (i : Nat) (f : Queue → Queue) : (s.modQueue i f).chans = s.chans := rfl
@[simp] theorem State.sems_modQueue (i : Nat) (f : Queue → Queue) : (s.modQueue i f).sems = s.sems := rfl
@[simp] theorem State.leases_modQueue (i : Nat) (f : Queue → Queue) : (s.modQueue i f).leases = s.leases := rfl
@[simp] theorem State.epoch_modQueue (i : Nat) (f : Queue → Queue) : (s.modQueue i f).epoch = s.epoch := rfl
@[simp] theorem State.idleSince_modQueue (i : Nat) (f : Queue → Queue) : (s.modQueue i f).idleSince = s.idleSince := rfl
@[simp] theorem State.onward_modQueue (i : Nat) (f : Queue → Queue) : (s.modQueue i f).onward = s.onward := rfl
@[simp] theorem State.cycle_modQueue (i : Nat) (f : Queue → Queue) : (s.modQueue i f).cycle = s.cycle := rfl
@[simp] theorem State.own_modQueue (i : Nat) (f : Queue → Queue) : (s.modQueue i f).own = s.own := rfl
@[simp] theorem State.sched_modQueue (i : Nat) (f : Queue → Queue) : (s.modQueue i f).sched = s.sched := rfl
@[simp] theorem State.cur_modQueue (i : Nat) (f : Queue → Queue) : (s.modQueue i f).cur = s.cur := rfl
@[simp] theorem State.free_modQueue (i : Nat) (f : Queue → Queue) : (s.modQueue i f).free = s.free := rfl
@[simp] theorem State.uid_modQueue (i : Nat) (f : Queue → Queue) : (s.modQueue i f).uid = s.uid := rfl

/-! ### modGraph -/

@[simp] theorem State.dv_modGraph (i : Nat) (f : Graph → Graph) : (s.modGraph i f).dv = s.dv := rfl
@[simp] theorem State.fab_modGraph (i : Nat) (f : Graph → Graph) : (s.modGraph i f).fab = s.fab := rfl
@[simp] theorem State.mem_modGraph (i : Nat) (f : Graph → Graph) : (s.modGraph i f).mem = s.mem := rfl
@[simp] theorem State.hostMem_modGraph (i : Nat) (f : Graph → Graph) : (s.modGraph i f).hostMem = s.hostMem := rfl
@[simp] theorem State.waves_modGraph (i : Nat) (f : Graph → Graph) : (s.modGraph i f).waves = s.waves := rfl
@[simp] theorem State.cores_modGraph (i : Nat) (f : Graph → Graph) : (s.modGraph i f).cores = s.cores := rfl
@[simp] theorem State.gangs_modGraph (i : Nat) (f : Graph → Graph) : (s.modGraph i f).gangs = s.gangs := rfl
@[simp] theorem State.kernels_modGraph (i : Nat) (f : Graph → Graph) : (s.modGraph i f).kernels = s.kernels := rfl
@[simp] theorem State.ctxs_modGraph (i : Nat) (f : Graph → Graph) : (s.modGraph i f).ctxs = s.ctxs := rfl
@[simp] theorem State.queues_modGraph (i : Nat) (f : Graph → Graph) : (s.modGraph i f).queues = s.queues := rfl
@[simp] theorem State.locks_modGraph (i : Nat) (f : Graph → Graph) : (s.modGraph i f).locks = s.locks := rfl
@[simp] theorem State.lockq_modGraph (i : Nat) (f : Graph → Graph) : (s.modGraph i f).lockq = s.lockq := rfl
@[simp] theorem State.late_modGraph (i : Nat) (f : Graph → Graph) : (s.modGraph i f).late = s.late := rfl
@[simp] theorem State.adds_modGraph (i : Nat) (f : Graph → Graph) : (s.modGraph i f).adds = s.adds := rfl
@[simp] theorem State.chans_modGraph (i : Nat) (f : Graph → Graph) : (s.modGraph i f).chans = s.chans := rfl
@[simp] theorem State.sems_modGraph (i : Nat) (f : Graph → Graph) : (s.modGraph i f).sems = s.sems := rfl
@[simp] theorem State.leases_modGraph (i : Nat) (f : Graph → Graph) : (s.modGraph i f).leases = s.leases := rfl
@[simp] theorem State.epoch_modGraph (i : Nat) (f : Graph → Graph) : (s.modGraph i f).epoch = s.epoch := rfl
@[simp] theorem State.idleSince_modGraph (i : Nat) (f : Graph → Graph) : (s.modGraph i f).idleSince = s.idleSince := rfl
@[simp] theorem State.onward_modGraph (i : Nat) (f : Graph → Graph) : (s.modGraph i f).onward = s.onward := rfl
@[simp] theorem State.cycle_modGraph (i : Nat) (f : Graph → Graph) : (s.modGraph i f).cycle = s.cycle := rfl
@[simp] theorem State.own_modGraph (i : Nat) (f : Graph → Graph) : (s.modGraph i f).own = s.own := rfl
@[simp] theorem State.sched_modGraph (i : Nat) (f : Graph → Graph) : (s.modGraph i f).sched = s.sched := rfl
@[simp] theorem State.cur_modGraph (i : Nat) (f : Graph → Graph) : (s.modGraph i f).cur = s.cur := rfl
@[simp] theorem State.free_modGraph (i : Nat) (f : Graph → Graph) : (s.modGraph i f).free = s.free := rfl
@[simp] theorem State.uid_modGraph (i : Nat) (f : Graph → Graph) : (s.modGraph i f).uid = s.uid := rfl

/-! ### addLocks -/

@[simp] theorem State.dv_addLocks (ls : List Lock) : (s.addLocks ls).dv = s.dv := rfl
@[simp] theorem State.fab_addLocks (ls : List Lock) : (s.addLocks ls).fab = s.fab := rfl
@[simp] theorem State.mem_addLocks (ls : List Lock) : (s.addLocks ls).mem = s.mem := rfl
@[simp] theorem State.hostMem_addLocks (ls : List Lock) : (s.addLocks ls).hostMem = s.hostMem := rfl
@[simp] theorem State.waves_addLocks (ls : List Lock) : (s.addLocks ls).waves = s.waves := rfl
@[simp] theorem State.cores_addLocks (ls : List Lock) : (s.addLocks ls).cores = s.cores := rfl
@[simp] theorem State.gangs_addLocks (ls : List Lock) : (s.addLocks ls).gangs = s.gangs := rfl
@[simp] theorem State.kernels_addLocks (ls : List Lock) : (s.addLocks ls).kernels = s.kernels := rfl
@[simp] theorem State.graphs_addLocks (ls : List Lock) : (s.addLocks ls).graphs = s.graphs := rfl
@[simp] theorem State.ctxs_addLocks (ls : List Lock) : (s.addLocks ls).ctxs = s.ctxs := rfl
@[simp] theorem State.queues_addLocks (ls : List Lock) : (s.addLocks ls).queues = s.queues := rfl
@[simp] theorem State.adds_addLocks (ls : List Lock) : (s.addLocks ls).adds = s.adds := rfl
@[simp] theorem State.chans_addLocks (ls : List Lock) : (s.addLocks ls).chans = s.chans := rfl
@[simp] theorem State.sems_addLocks (ls : List Lock) : (s.addLocks ls).sems = s.sems := rfl
@[simp] theorem State.leases_addLocks (ls : List Lock) : (s.addLocks ls).leases = s.leases := rfl
@[simp] theorem State.epoch_addLocks (ls : List Lock) : (s.addLocks ls).epoch = s.epoch := rfl
@[simp] theorem State.idleSince_addLocks (ls : List Lock) : (s.addLocks ls).idleSince = s.idleSince := rfl
@[simp] theorem State.onward_addLocks (ls : List Lock) : (s.addLocks ls).onward = s.onward := rfl
@[simp] theorem State.cycle_addLocks (ls : List Lock) : (s.addLocks ls).cycle = s.cycle := rfl
@[simp] theorem State.own_addLocks (ls : List Lock) : (s.addLocks ls).own = s.own := rfl
@[simp] theorem State.sched_addLocks (ls : List Lock) : (s.addLocks ls).sched = s.sched := rfl
@[simp] theorem State.cur_addLocks (ls : List Lock) : (s.addLocks ls).cur = s.cur := rfl
@[simp] theorem State.free_addLocks (ls : List Lock) : (s.addLocks ls).free = s.free := rfl
@[simp] theorem State.uid_addLocks (ls : List Lock) : (s.addLocks ls).uid = s.uid := rfl

/-! ### dropLocks -/

@[simp] theorem State.dv_dropLocks (u : Nat) : (s.dropLocks u).dv = s.dv := rfl
@[simp] theorem State.fab_dropLocks (u : Nat) : (s.dropLocks u).fab = s.fab := rfl
@[simp] theorem State.mem_dropLocks (u : Nat) : (s.dropLocks u).mem = s.mem := rfl
@[simp] theorem State.hostMem_dropLocks (u : Nat) : (s.dropLocks u).hostMem = s.hostMem := rfl
@[simp] theorem State.waves_dropLocks (u : Nat) : (s.dropLocks u).waves = s.waves := rfl
@[simp] theorem State.cores_dropLocks (u : Nat) : (s.dropLocks u).cores = s.cores := rfl
@[simp] theorem State.gangs_dropLocks (u : Nat) : (s.dropLocks u).gangs = s.gangs := rfl
@[simp] theorem State.kernels_dropLocks (u : Nat) : (s.dropLocks u).kernels = s.kernels := rfl
@[simp] theorem State.graphs_dropLocks (u : Nat) : (s.dropLocks u).graphs = s.graphs := rfl
@[simp] theorem State.ctxs_dropLocks (u : Nat) : (s.dropLocks u).ctxs = s.ctxs := rfl
@[simp] theorem State.queues_dropLocks (u : Nat) : (s.dropLocks u).queues = s.queues := rfl
@[simp] theorem State.adds_dropLocks (u : Nat) : (s.dropLocks u).adds = s.adds := rfl
@[simp] theorem State.chans_dropLocks (u : Nat) : (s.dropLocks u).chans = s.chans := rfl
@[simp] theorem State.sems_dropLocks (u : Nat) : (s.dropLocks u).sems = s.sems := rfl
@[simp] theorem State.leases_dropLocks (u : Nat) : (s.dropLocks u).leases = s.leases := rfl
@[simp] theorem State.epoch_dropLocks (u : Nat) : (s.dropLocks u).epoch = s.epoch := rfl
@[simp] theorem State.idleSince_dropLocks (u : Nat) : (s.dropLocks u).idleSince = s.idleSince := rfl
@[simp] theorem State.onward_dropLocks (u : Nat) : (s.dropLocks u).onward = s.onward := rfl
@[simp] theorem State.cycle_dropLocks (u : Nat) : (s.dropLocks u).cycle = s.cycle := rfl
@[simp] theorem State.own_dropLocks (u : Nat) : (s.dropLocks u).own = s.own := rfl
@[simp] theorem State.sched_dropLocks (u : Nat) : (s.dropLocks u).sched = s.sched := rfl
@[simp] theorem State.cur_dropLocks (u : Nat) : (s.dropLocks u).cur = s.cur := rfl
@[simp] theorem State.free_dropLocks (u : Nat) : (s.dropLocks u).free = s.free := rfl
@[simp] theorem State.uid_dropLocks (u : Nat) : (s.dropLocks u).uid = s.uid := rfl

/-! ### send -/

@[simp] theorem State.dv_send (d : Nat) (b : MsgBody) : (s.send d b).dv = s.dv := rfl
@[simp] theorem State.mem_send (d : Nat) (b : MsgBody) : (s.send d b).mem = s.mem := rfl
@[simp] theorem State.hostMem_send (d : Nat) (b : MsgBody) : (s.send d b).hostMem = s.hostMem := rfl
@[simp] theorem State.waves_send (d : Nat) (b : MsgBody) : (s.send d b).waves = s.waves := rfl
@[simp] theorem State.cores_send (d : Nat) (b : MsgBody) : (s.send d b).cores = s.cores := rfl
@[simp] theorem State.gangs_send (d : Nat) (b : MsgBody) : (s.send d b).gangs = s.gangs := rfl
@[simp] theorem State.kernels_send (d : Nat) (b : MsgBody) : (s.send d b).kernels = s.kernels := rfl
@[simp] theorem State.graphs_send (d : Nat) (b : MsgBody) : (s.send d b).graphs = s.graphs := rfl
@[simp] theorem State.ctxs_send (d : Nat) (b : MsgBody) : (s.send d b).ctxs = s.ctxs := rfl
@[simp] theorem State.queues_send (d : Nat) (b : MsgBody) : (s.send d b).queues = s.queues := rfl
@[simp] theorem State.locks_send (d : Nat) (b : MsgBody) : (s.send d b).locks = s.locks := rfl
@[simp] theorem State.lockq_send (d : Nat) (b : MsgBody) : (s.send d b).lockq = s.lockq := rfl
@[simp] theorem State.late_send (d : Nat) (b : MsgBody) : (s.send d b).late = s.late := rfl
@[simp] theorem State.adds_send (d : Nat) (b : MsgBody) : (s.send d b).adds = s.adds := rfl
@[simp] theorem State.chans_send (d : Nat) (b : MsgBody) : (s.send d b).chans = s.chans := rfl
@[simp] theorem State.sems_send (d : Nat) (b : MsgBody) : (s.send d b).sems = s.sems := rfl
@[simp] theorem State.leases_send (d : Nat) (b : MsgBody) : (s.send d b).leases = s.leases := rfl
@[simp] theorem State.epoch_send (d : Nat) (b : MsgBody) : (s.send d b).epoch = s.epoch := rfl
@[simp] theorem State.idleSince_send (d : Nat) (b : MsgBody) : (s.send d b).idleSince = s.idleSince := rfl
@[simp] theorem State.onward_send (d : Nat) (b : MsgBody) : (s.send d b).onward = s.onward := rfl
@[simp] theorem State.cycle_send (d : Nat) (b : MsgBody) : (s.send d b).cycle = s.cycle := rfl
@[simp] theorem State.own_send (d : Nat) (b : MsgBody) : (s.send d b).own = s.own := rfl
@[simp] theorem State.sched_send (d : Nat) (b : MsgBody) : (s.send d b).sched = s.sched := rfl
@[simp] theorem State.cur_send (d : Nat) (b : MsgBody) : (s.send d b).cur = s.cur := rfl
@[simp] theorem State.free_send (d : Nat) (b : MsgBody) : (s.send d b).free = s.free := rfl
@[simp] theorem State.uid_send (d : Nat) (b : MsgBody) : (s.send d b).uid = s.uid := rfl

/-! ### writeHost -/

@[simp] theorem State.dv_writeHost (cs : List (Nat × Byte)) : (s.writeHost cs).dv = s.dv := rfl
@[simp] theorem State.fab_writeHost (cs : List (Nat × Byte)) : (s.writeHost cs).fab = s.fab := rfl
@[simp] theorem State.mem_writeHost (cs : List (Nat × Byte)) : (s.writeHost cs).mem = s.mem := rfl
@[simp] theorem State.waves_writeHost (cs : List (Nat × Byte)) : (s.writeHost cs).waves = s.waves := rfl
@[simp] theorem State.cores_writeHost (cs : List (Nat × Byte)) : (s.writeHost cs).cores = s.cores := rfl
@[simp] theorem State.gangs_writeHost (cs : List (Nat × Byte)) : (s.writeHost cs).gangs = s.gangs := rfl
@[simp] theorem State.kernels_writeHost (cs : List (Nat × Byte)) : (s.writeHost cs).kernels = s.kernels := rfl
@[simp] theorem State.graphs_writeHost (cs : List (Nat × Byte)) : (s.writeHost cs).graphs = s.graphs := rfl
@[simp] theorem State.ctxs_writeHost (cs : List (Nat × Byte)) : (s.writeHost cs).ctxs = s.ctxs := rfl
@[simp] theorem State.queues_writeHost (cs : List (Nat × Byte)) : (s.writeHost cs).queues = s.queues := rfl
@[simp] theorem State.locks_writeHost (cs : List (Nat × Byte)) : (s.writeHost cs).locks = s.locks := rfl
@[simp] theorem State.lockq_writeHost (cs : List (Nat × Byte)) : (s.writeHost cs).lockq = s.lockq := rfl
@[simp] theorem State.late_writeHost (cs : List (Nat × Byte)) : (s.writeHost cs).late = s.late := rfl
@[simp] theorem State.adds_writeHost (cs : List (Nat × Byte)) : (s.writeHost cs).adds = s.adds := rfl
@[simp] theorem State.chans_writeHost (cs : List (Nat × Byte)) : (s.writeHost cs).chans = s.chans := rfl
@[simp] theorem State.sems_writeHost (cs : List (Nat × Byte)) : (s.writeHost cs).sems = s.sems := rfl
@[simp] theorem State.leases_writeHost (cs : List (Nat × Byte)) : (s.writeHost cs).leases = s.leases := rfl
@[simp] theorem State.epoch_writeHost (cs : List (Nat × Byte)) : (s.writeHost cs).epoch = s.epoch := rfl
@[simp] theorem State.idleSince_writeHost (cs : List (Nat × Byte)) : (s.writeHost cs).idleSince = s.idleSince := rfl
@[simp] theorem State.onward_writeHost (cs : List (Nat × Byte)) : (s.writeHost cs).onward = s.onward := rfl
@[simp] theorem State.cycle_writeHost (cs : List (Nat × Byte)) : (s.writeHost cs).cycle = s.cycle := rfl
@[simp] theorem State.own_writeHost (cs : List (Nat × Byte)) : (s.writeHost cs).own = s.own := rfl
@[simp] theorem State.sched_writeHost (cs : List (Nat × Byte)) : (s.writeHost cs).sched = s.sched := rfl
@[simp] theorem State.cur_writeHost (cs : List (Nat × Byte)) : (s.writeHost cs).cur = s.cur := rfl
@[simp] theorem State.free_writeHost (cs : List (Nat × Byte)) : (s.writeHost cs).free = s.free := rfl
@[simp] theorem State.uid_writeHost (cs : List (Nat × Byte)) : (s.writeHost cs).uid = s.uid := rfl

/-! ### elapse -/

@[simp] theorem State.dv_elapse (n : Nat) : (s.elapse n).dv = s.dv := rfl
@[simp] theorem State.mem_elapse (n : Nat) : (s.elapse n).mem = s.mem := rfl
@[simp] theorem State.hostMem_elapse (n : Nat) : (s.elapse n).hostMem = s.hostMem := rfl
@[simp] theorem State.waves_elapse (n : Nat) : (s.elapse n).waves = s.waves := rfl
@[simp] theorem State.cores_elapse (n : Nat) : (s.elapse n).cores = s.cores := rfl
@[simp] theorem State.gangs_elapse (n : Nat) : (s.elapse n).gangs = s.gangs := rfl
@[simp] theorem State.kernels_elapse (n : Nat) : (s.elapse n).kernels = s.kernels := rfl
@[simp] theorem State.graphs_elapse (n : Nat) : (s.elapse n).graphs = s.graphs := rfl
@[simp] theorem State.ctxs_elapse (n : Nat) : (s.elapse n).ctxs = s.ctxs := rfl
@[simp] theorem State.queues_elapse (n : Nat) : (s.elapse n).queues = s.queues := rfl
@[simp] theorem State.locks_elapse (n : Nat) : (s.elapse n).locks = s.locks := rfl
@[simp] theorem State.lockq_elapse (n : Nat) : (s.elapse n).lockq = s.lockq := rfl
@[simp] theorem State.late_elapse (n : Nat) : (s.elapse n).late = s.late := rfl
@[simp] theorem State.adds_elapse (n : Nat) : (s.elapse n).adds = s.adds := rfl
@[simp] theorem State.chans_elapse (n : Nat) : (s.elapse n).chans = s.chans := rfl
@[simp] theorem State.sems_elapse (n : Nat) : (s.elapse n).sems = s.sems := rfl
@[simp] theorem State.leases_elapse (n : Nat) : (s.elapse n).leases = s.leases := rfl
@[simp] theorem State.epoch_elapse (n : Nat) : (s.elapse n).epoch = s.epoch := rfl
@[simp] theorem State.idleSince_elapse (n : Nat) : (s.elapse n).idleSince = s.idleSince := rfl
@[simp] theorem State.onward_elapse (n : Nat) : (s.elapse n).onward = s.onward := rfl
@[simp] theorem State.sched_elapse (n : Nat) : (s.elapse n).sched = s.sched := rfl
@[simp] theorem State.cur_elapse (n : Nat) : (s.elapse n).cur = s.cur := rfl
@[simp] theorem State.free_elapse (n : Nat) : (s.elapse n).free = s.free := rfl
@[simp] theorem State.uid_elapse (n : Nat) : (s.elapse n).uid = s.uid := rfl

/-! ### tickStep -/

@[simp] theorem State.dv_tickStep : (s.tickStep).dv = s.dv := rfl
@[simp] theorem State.mem_tickStep : (s.tickStep).mem = s.mem := rfl
@[simp] theorem State.hostMem_tickStep : (s.tickStep).hostMem = s.hostMem := rfl
@[simp] theorem State.waves_tickStep : (s.tickStep).waves = s.waves := rfl
@[simp] theorem State.cores_tickStep : (s.tickStep).cores = s.cores := rfl
@[simp] theorem State.gangs_tickStep : (s.tickStep).gangs = s.gangs := rfl
@[simp] theorem State.kernels_tickStep : (s.tickStep).kernels = s.kernels := rfl
@[simp] theorem State.graphs_tickStep : (s.tickStep).graphs = s.graphs := rfl
@[simp] theorem State.ctxs_tickStep : (s.tickStep).ctxs = s.ctxs := rfl
@[simp] theorem State.queues_tickStep : (s.tickStep).queues = s.queues := rfl
@[simp] theorem State.locks_tickStep : (s.tickStep).locks = s.locks := rfl
@[simp] theorem State.lockq_tickStep : (s.tickStep).lockq = s.lockq := rfl
@[simp] theorem State.late_tickStep : (s.tickStep).late = s.late := rfl
@[simp] theorem State.adds_tickStep : (s.tickStep).adds = s.adds := rfl
@[simp] theorem State.chans_tickStep : (s.tickStep).chans = s.chans := rfl
@[simp] theorem State.sems_tickStep : (s.tickStep).sems = s.sems := rfl
@[simp] theorem State.leases_tickStep : (s.tickStep).leases = s.leases := rfl
@[simp] theorem State.epoch_tickStep : (s.tickStep).epoch = s.epoch := rfl
@[simp] theorem State.idleSince_tickStep : (s.tickStep).idleSince = s.idleSince := rfl
@[simp] theorem State.onward_tickStep : (s.tickStep).onward = s.onward := rfl
@[simp] theorem State.sched_tickStep : (s.tickStep).sched = s.sched := rfl
@[simp] theorem State.cur_tickStep : (s.tickStep).cur = s.cur := rfl
@[simp] theorem State.uid_tickStep : (s.tickStep).uid = s.uid := rfl

/-! ### The field each update changes -/

@[simp] theorem State.waves_setWave (i : Nat) (w : Wave) : (s.setWave i w).waves = s.waves.put i w := rfl
@[simp] theorem State.waves_modWave (i : Nat) (f : Wave → Wave) :
    (s.modWave i f).waves = s.waves.put i (f (s.waves.get i)) := rfl
@[simp] theorem State.waves_modMe (f : Wave → Wave) : (s.modMe f).waves = s.waves.put s.cur (f s.me) := rfl
@[simp] theorem State.cores_modCore (i : Nat) (f : CoreSt → CoreSt) : (s.modCore i f).cores = s.cores.modify i f := rfl
@[simp] theorem State.gangs_modGang (i : Nat) (f : Gang → Gang) : (s.modGang i f).gangs = s.gangs.modify i f := rfl
@[simp] theorem State.kernels_modKern (i : Nat) (f : Kernel → Kernel) :
    (s.modKern i f).kernels = s.kernels.modify i f := rfl
@[simp] theorem State.ctxs_modCtx (i : Nat) (f : Ctx → Ctx) : (s.modCtx i f).ctxs = s.ctxs.modify i f := rfl
@[simp] theorem State.queues_modQueue (i : Nat) (f : Queue → Queue) : (s.modQueue i f).queues = s.queues.modify i f := rfl
@[simp] theorem State.graphs_modGraph (i : Nat) (f : Graph → Graph) : (s.modGraph i f).graphs = s.graphs.modify i f := rfl
@[simp] theorem State.hostMem_writeHost (cs : List (Nat × Byte)) :
    (s.writeHost cs).hostMem = s.hostMem.putAll cs := rfl
@[simp] theorem State.cycle_elapse (n : Nat) : (s.elapse n).cycle = s.cycle + n := rfl
@[simp] theorem State.free_tickStep : s.tickStep.free = s.free + 1 := rfl

/-! ### The wave at work -/

variable {s}

/-- The wave at work after a change of it. -/
@[simp] theorem State.me_modMe (f : Wave → Wave) : (s.modMe f).me = f s.me :=
  Tab.get_put_same _ _ _

/-- A change of the wave at work leaves every other wave alone. -/
theorem State.get_modMe_ne (f : Wave → Wave) {w : Nat} (hw : w ≠ s.cur) :
    (s.modMe f).waves.get w = s.waves.get w := Tab.get_put_ne _ _ hw

/-- A wave after a change of it. -/
@[simp] theorem State.get_modWave (i : Nat) (f : Wave → Wave) :
    (s.modWave i f).waves.get i = f (s.waves.get i) :=
  Tab.get_put_same _ _ _

theorem State.get_modWave_ne (i : Nat) (f : Wave → Wave) {w : Nat} (hw : w ≠ i) :
    (s.modWave i f).waves.get w = s.waves.get w := Tab.get_put_ne _ _ hw

/-- The table of waves stays in canonical form. -/
@[simp] theorem State.wf_waves_modWave (h : Tab.wf s.waves = true) (i : Nat) (f : Wave → Wave) :
    Tab.wf (s.modWave i f).waves = true := Tab.wf_put _ _ h

@[simp] theorem State.wf_waves_modMe (h : Tab.wf s.waves = true) (f : Wave → Wave) :
    Tab.wf (s.modMe f).waves = true := Tab.wf_put _ _ h

/-- A change of the wave at work that has not left its slot. -/
@[simp] theorem State.onMe_of_held (h : s.me.st ≠ .free) (f : Wave → Wave) : s.onMe f = s.modMe f := if_neg h

/-! ### Registers -/

@[simp] theorem Wave.getS_zero (w : Wave) : w.getS 0 = 0 := rfl
@[simp] theorem Wave.setS_zero (w : Wave) (x : W64) : w.setS 0 x = w := rfl

/-- A read of an s register after a write to it. -/
theorem Wave.getS_setS (w : Wave) {n : Nat} (hn : n ≠ 0) (x : W64) :
    (w.setS n x).getS n = x := by
  unfold Wave.getS Wave.setS
  rw [if_neg hn, if_neg hn]
  exact Tab.get_put_same _ n x

/-- A write to an s register leaves the others alone. -/
theorem Wave.getS_setS_ne (w : Wave) {n m : Nat} (hm : m ≠ n) (x : W64) :
    (w.setS n x).getS m = w.getS m := by
  unfold Wave.getS Wave.setS
  split_ifs <;> first | rfl | exact Tab.get_put_ne _ x hm

@[simp] theorem Wave.getC_zero (w : Wave) : w.getC 0 = true := rfl
@[simp] theorem Wave.setC_zero (w : Wave) (b : Bool) : w.setC 0 b = w := rfl

end Sys2Proof.Machine
end

