-- ==== Sys2Proof/Laws/Memory.lean ====
section
/-!
SUPPORT. The laws of memory: what a byte string spells, a read after a write, and that every operation that stores keeps
the canonical form of both memories.
-/
namespace Sys2Proof.Machine

/-! ### Byte strings (R5) -/

theorem ofBytesLE_append (l r : List Byte) : ofBytesLE (l ++ r) = ofBytesLE l + 256 ^ l.length * ofBytesLE r := by
  induction l with
  | nil => simp [ofBytesLE]
  | cons b l ih => simp only [List.cons_append, ofBytesLE, ih, List.length_cons, pow_succ]; ring

/-- Spelling out a number and reading it back keeps its low bytes. -/
theorem ofBytesLE_bytesLE (n v : Nat) : ofBytesLE (bytesLE n v) = v % 256 ^ n := by
  induction n with
  | zero => simp [bytesLE, ofBytesLE, Nat.mod_one]
  | succ n ih =>
    have h : bytesLE (n + 1) v = bytesLE n v ++ [BitVec.ofNat 8 (v >>> (8 * n))] := by
      simp [bytesLE, List.range_succ]
    have hl : (bytesLE n v).length = n := by simp [bytesLE]
    have hp : (256 : Nat) ^ n = 2 ^ (8 * n) := by rw [pow_mul]; norm_num
    rw [h, ofBytesLE_append, ih, hl]
    simp only [ofBytesLE, BitVec.toNat_ofNat, Nat.shiftRight_eq_div_pow, Nat.mul_zero, Nat.add_zero]
    rw [← hp, pow_succ]
    exact (Nat.mod_mul (x := v) (a := 256 ^ n) (b := 256)).symm

@[simp] theorem length_bytesLE (n v : Nat) : (bytesLE n v).length = n := by simp [bytesLE]

/-! ### A read after a write -/

theorem mem_cellsAt {a : Nat} {l : List Byte} {e : Nat × Byte} (h : e ∈ cellsAt a l) : a ≤ e.1 ∧ e.1 < a + l.length := by
  simp only [cellsAt, List.mem_map] at h
  obtain ⟨x, hx, rfl⟩ := h
  have := (List.mem_zipIdx hx).2.1
  simp at this ⊢
  omega

/-- A byte outside a byte string written is unchanged. -/
theorem Mem.get_putAll_cellsAt_ne (m : Mem) {a b : Nat} {l : List Byte} (h : b < a ∨ a + l.length ≤ b) :
    (m.putAll (cellsAt a l)).get b = m.get b :=
  Tab.get_putAll_ne _ _ fun e he => by have := mem_cellsAt he; omega

/-- A byte of a byte string written. -/
theorem Mem.get_putAll_cellsAt (l : List Byte) :
    ∀ (m : Mem) (a i : Nat), i < l.length → (m.putAll (cellsAt a l)).get (a + i) = l.getD i 0 := by
  induction l using List.reverseRecOn with
  | nil => exact fun _ _ _ h => absurd h (by simp)
  | append_singleton l b ih =>
    intro m a i hi
    have hsplit : cellsAt a (l ++ [b]) = cellsAt a l ++ [(a + l.length, b)] := by
      simp [cellsAt, List.zipIdx_append]
    have happ : ∀ (x y : List (Nat × Byte)) (m : Mem), m.putAll (x ++ y) = (m.putAll x).putAll y := by
      intro x
      induction x with
      | nil => exact fun _ _ => rfl
      | cons e x ih => exact fun y m => ih y _
    rw [hsplit, happ]
    simp only [List.length_append, List.length_singleton] at hi
    show ((m.putAll (cellsAt a l)).put (a + l.length) b).get (a + i) = _
    by_cases h : i = l.length
    · subst h; simp
    · rw [Tab.get_put_ne _ _ (by omega), ih m a i (by omega)]
      rw [List.getD_append _ _ _ _ (show i < l.length by omega)]

/-- The bytes of a little-endian store read back as its low bytes. -/
theorem Mem.readNat_putAll (m : Mem) (a n v : Nat) : Mem.readNat (m.putAll (cellsOf a n v)) a n = v % 256 ^ n := by
  rw [← ofBytesLE_bytesLE, Mem.readNat]
  congr 1
  apply List.ext_getElem (by simp)
  intro i h1 _
  simp only [List.length_map, List.length_range] at h1
  simp only [List.getElem_map, List.getElem_range]
  rw [cellsOf, Mem.get_putAll_cellsAt _ _ _ _ (by simpa using h1)]
  simp [h1]

/-- A number elsewhere is unchanged. -/
theorem Mem.readNat_putAll_ne (m : Mem) {a b n k v : Nat} (h : b + k ≤ a ∨ a + n ≤ b) :
    Mem.readNat (m.putAll (cellsOf a n v)) b k = m.readNat b k := by
  simp only [Mem.readNat]
  congr 1
  apply List.map_congr_left
  intro i hi
  have := List.mem_range.1 hi
  exact Mem.get_putAll_cellsAt_ne m (by simp; omega)

/-! ### What a store changes -/

variable (s : State)

theorem State.eq_noteLeaves (cs : List (Nat × Byte)) : s.noteLeaves cs = { s with ctxs := (s.noteLeaves cs).ctxs } := by
  unfold State.noteLeaves; split_ifs <;> rfl

/-- A store over bytes none of which lies in a word that may be a valid leaf or table notes no page (R332). -/
theorem State.noteLeaves_of_none (cs : List (Nat × Byte))
    (h : (cs.any fun c => mayMap (s.mem.get (c.1 / 8 * 8)).toNat) = false) : s.noteLeaves cs = s := by
  unfold State.noteLeaves; rw [h]; rfl

theorem State.mem_noteMirror (cs : List (Nat × Byte)) : (s.noteMirror cs).mem = s.mem := by
  unfold State.noteMirror; split_ifs <;> rfl

theorem State.mem_backInvalidate (cs : List (Nat × Byte)) : (s.backInvalidate cs).mem = s.mem := by
  have h : ∀ (l : List Nat) (s : State), (l.foldl (fun s l => s.send hostDest (.hostInval (64 * l))) s).mem = s.mem := by
    intro l
    induction l with
    | nil => exact fun _ => rfl
    | cons x l ih => exact fun s => ih _
  unfold State.backInvalidate
  split
  · rfl
  · exact h _ _

/-- A store to device memory puts its bytes there. -/
@[simp] theorem State.mem_writeDev (cs : List (Nat × Byte)) : (s.writeDev cs).mem = s.mem.putAll cs := by
  unfold State.writeDev
  have hn : (s.noteLeaves cs).mem = s.mem := by rw [State.eq_noteLeaves]
  have h := (State.mem_backInvalidate (({ s.noteLeaves cs with mem := (s.noteLeaves cs).mem.putAll cs }).noteMirror cs) cs).trans
    (State.mem_noteMirror { s.noteLeaves cs with mem := (s.noteLeaves cs).mem.putAll cs } cs)
  rw [← hn]
  dsimp only at h ⊢
  split <;> exact h

theorem State.eq_noteMirror (cs : List (Nat × Byte)) : s.noteMirror cs = { s with ctxs := (s.noteMirror cs).ctxs } := by
  unfold State.noteMirror; split_ifs <;> rfl

theorem State.eq_backInvalidate (cs : List (Nat × Byte)) : s.backInvalidate cs =
    { s with fab := (s.backInvalidate cs).fab, dv := (s.backInvalidate cs).dv } := by
  have h : ∀ (l : List Nat) (s : State), l.foldl (fun s l => s.send hostDest (.hostInval (64 * l))) s =
      { s with fab := (l.foldl (fun s l => s.send hostDest (.hostInval (64 * l))) s).fab } := by
    intro l
    induction l with
    | nil => exact fun _ => rfl
    | cons x l ih => intro s; exact (ih _).trans rfl
  unfold State.backInvalidate
  split
  · rfl
  · dsimp only; rw [h]

/-- It changes nothing but device memory, the mirrored lines of contexts, messages to the host and the device's notes of
granules and lines (R235, R250, R416, R430). -/
theorem State.eq_writeDev (cs : List (Nat × Byte)) : s.writeDev cs =
    { s with mem := s.mem.putAll cs, ctxs := (s.writeDev cs).ctxs, fab := (s.writeDev cs).fab,
             dv := (s.writeDev cs).dv } := by
  have h : ∃ x f d, s.writeDev cs = { s with mem := s.mem.putAll cs, ctxs := x, fab := f, dv := d } := by
    have hn := State.eq_noteLeaves s cs
    generalize (s.noteLeaves cs).ctxs = x at hn
    unfold State.writeDev
    dsimp only
    rw [hn, State.eq_backInvalidate, State.eq_noteMirror]
    split <;> exact ⟨_, _, _, rfl⟩
  obtain ⟨x, f, d, h⟩ := h
  rw [h]

@[simp] theorem State.hostMem_writeDev (cs : List (Nat × Byte)) : (s.writeDev cs).hostMem = s.hostMem := by
  rw [State.eq_writeDev]

@[simp] theorem State.waves_writeDev (cs : List (Nat × Byte)) : (s.writeDev cs).waves = s.waves := by
  rw [State.eq_writeDev]

@[simp] theorem State.cores_writeDev (cs : List (Nat × Byte)) : (s.writeDev cs).cores = s.cores := by
  rw [State.eq_writeDev]

@[simp] theorem State.kernels_writeDev (cs : List (Nat × Byte)) : (s.writeDev cs).kernels = s.kernels := by
  rw [State.eq_writeDev]

@[simp] theorem State.gangs_writeDev (cs : List (Nat × Byte)) : (s.writeDev cs).gangs = s.gangs := by
  rw [State.eq_writeDev]

@[simp] theorem State.locks_writeDev (cs : List (Nat × Byte)) : (s.writeDev cs).locks = s.locks := by
  rw [State.eq_writeDev]

@[simp] theorem State.cur_writeDev (cs : List (Nat × Byte)) : (s.writeDev cs).cur = s.cur := by
  rw [State.eq_writeDev]

/-- With no uncorrectable granule, no line in the host's caches, no mirror and no page to note, a store changes device memory
alone. -/
theorem State.writeDev_plain (cs : List (Nat × Byte)) (hb : s.dv.bad = []) (hl : s.dv.hostLines = [])
    (hm : s.ctxs.all (fun e => e.2.job.mirror.isEmpty) = true) (hn : s.noteLeaves cs = s) :
    s.writeDev cs = { s with mem := s.mem.putAll cs } := by
  simp [State.writeDev, State.noteMirror, State.backInvalidate, hn, hb, hl, hm]

/-! ### The canonical form -/

/-- Both memories are in canonical form. -/
def State.memWf (s : State) : Prop := Memory.wf s.mem ∧ Memory.wf s.hostMem

/-- Reset lists nothing. -/
theorem State.memWf_reset : State.reset.memWf := ⟨rfl, rfl⟩

variable {s}

theorem State.memWf_of_eq {t : State} (h : s.memWf) (hm : t.mem = s.mem) (hh : t.hostMem = s.hostMem) : t.memWf := by
  unfold State.memWf; rw [hm, hh]; exact h

theorem State.memWf_writeDev (cs : List (Nat × Byte)) (h : s.memWf) : (s.writeDev cs).memWf := by
  unfold State.memWf
  rw [State.mem_writeDev, State.hostMem_writeDev]
  exact ⟨Tab.wf_putAll cs h.1, h.2⟩

theorem State.memWf_writeHost (cs : List (Nat × Byte)) (h : s.memWf) : (s.writeHost cs).memWf :=
  ⟨h.1, Tab.wf_putAll cs h.2⟩

theorem State.memWf_writeAt (t : Target) (n v : Nat) (h : s.memWf) : (s.writeAt t n v).memWf := by
  cases t with
  | dev pa => exact State.memWf_writeDev _ h
  | host pa => exact State.memWf_writeHost _ h
  | peer p a => exact h

theorem State.memWf_feWrite (c : Ctx) (va : Nat) (bs : List Byte) {t : State} (h : s.memWf)
    (ht : s.feWrite c va bs = some t) : t.memWf := by
  simp only [State.feWrite, Option.map_eq_some_iff] at ht
  obtain ⟨ts, _, rfl⟩ := ht
  exact State.memWf_writeHost _ (State.memWf_writeDev _ h)

theorem State.memWf_feWrite_getD (c : Ctx) (va : Nat) (bs : List Byte) (h : s.memWf) :
    ((s.feWrite c va bs).getD s).memWf := by
  cases ht : s.feWrite c va bs with
  | none => exact h
  | some t => exact State.memWf_feWrite c va bs h ht

theorem State.memWf_sysWrite (a : Nat) (bs : List Byte) (h : s.memWf) : (s.sysWrite a bs).memWf := by
  unfold State.sysWrite
  split
  · exact State.memWf_writeDev _ h
  · exact State.memWf_writeHost _ h
  · exact h

/-- A local store touches neither memory. -/
theorem State.mem_writeLocal (w : Nat) (cs : List (Nat × Byte)) :
    (s.writeLocal w cs).mem = s.mem ∧ (s.writeLocal w cs).hostMem = s.hostMem := by
  have hf : ∀ (l : List (Nat × Byte)) (s : State),
      (l.foldl (fun s e => s.writeLocalByte w e) s).mem = s.mem ∧
      (l.foldl (fun s e => s.writeLocalByte w e) s).hostMem = s.hostMem := by
    intro l
    induction l with
    | nil => exact fun _ => ⟨rfl, rfl⟩
    | cons e l ih =>
      intro s
      have he : (s.writeLocalByte w e).mem = s.mem ∧ (s.writeLocalByte w e).hostMem = s.hostMem := by
        unfold State.writeLocalByte; split <;> exact ⟨rfl, rfl⟩
      exact ⟨(ih _).1.trans he.1, (ih _).2.trans he.2⟩
  unfold State.writeLocal State.mendLocal
  split <;> exact hf _ _

theorem State.memWf_writeLocal (w : Nat) (cs : List (Nat × Byte)) (h : s.memWf) : (s.writeLocal w cs).memWf :=
  State.memWf_of_eq h (State.mem_writeLocal w cs).1 (State.mem_writeLocal w cs).2

/-- The fold of an operation that keeps the form keeps it. -/
theorem State.memWf_foldl {α : Type} (f : State → α → State) (hf : ∀ s e, s.memWf → (f s e).memWf) (l : List α) :
    ∀ s : State, s.memWf → (l.foldl f s).memWf := by
  induction l with
  | nil => exact fun _ h => h
  | cons e l ih => exact fun s h => ih _ (hf s e h)

end Sys2Proof.Machine
end

