-- ==== Sys2Proof/Laws/Access.lean ====
section
/-!
SUPPORT. The checks of an access and the delivery of a trap: what each answers when it lets the access or the trap go on.
-/
namespace Sys2Proof.Machine

variable {s : State}

/-- The checked elements are the lanes and addresses asked for, each with a target (R256). -/
theorem State.checkGlobals_lanes {c : Ctx} {need : Need} {n : Nat} :
    ∀ {els : List (Nat × Nat)} {ts : List (Nat × Nat × Target)}, s.checkGlobals c need n els = .ok ts →
      ts.map (fun e => (e.1, e.2.1)) = els
  | [], _, h => by
    cases h; rfl
  | e :: r, ts, h => by
    unfold State.checkGlobals at h
    cases h1 : s.checkGlobal c need e.1 e.2 n with
    | error x => rw [h1] at h; cases h
    | ok t =>
      rw [h1] at h
      cases h2 : s.checkGlobals c need n r with
      | error x => rw [h2] at h; cases h
      | ok us =>
        rw [h2] at h
        cases h
        simp [State.checkGlobals_lanes h2]

/-- A check that succeeds: the elements of a global access are those asked for, every target is the one its lane's check
found, no range lock bars it and the links it needs are up (R255, R256, R245, R399). -/
theorem State.checkAccess_global {wi : Nat} {need : Need} {n : Nat} {els : List (Nat × Nat)} {ts : List Element}
    (h : s.checkAccess wi false need n els = .ok ts) :
    ts.map (fun e => (e.1, e.2.1)) = els ∧ s.checkGlobals (s.ctxOf (s.waves.get wi)) need n els = .ok ts ∧
    s.checkLocks false wi n need.write els = .ok () ∧ s.checkLinks (ts.map fun e => (e.1, e.2.2))
      (need.kind == .load || need.kind == .gather || need.kind == .atomic) = .ok () := by
  simp only [State.checkAccess, Bool.false_eq_true, if_false] at h
  cases h1 : s.checkGlobals (s.ctxOf (s.waves.get wi)) need n els with
  | error x => rw [h1] at h; cases h
  | ok us =>
    rw [h1] at h
    cases h2 : s.checkLocks false wi n need.write els with
    | error x => rw [h2] at h; cases h
    | ok u =>
      rw [h2] at h
      cases h3 : s.checkLinks (us.map fun e => (e.1, e.2.2))
          (need.kind == .load || need.kind == .gather || need.kind == .atomic) with
      | error x => exact absurd h (by simp [h3, bind, Except.bind, pure, Except.pure])
      | ok v =>
        have hu : us = ts := by
          have : (Except.ok us : Eff (List Element)) = .ok ts := by
            simpa [h3, bind, Except.bind, pure, Except.pure] using h
          exact Except.ok.inj this
        subst hu
        exact ⟨State.checkGlobals_lanes h1, rfl, rfl, h3⟩

/-- A check of a local access that succeeds: every byte lies in a region of the wave, aligned, and no lock bars it. -/
theorem State.checkAccess_local {wi : Nat} {need : Need} {n : Nat} {els : List (Nat × Nat)} {ts : List Element}
    (h : s.checkAccess wi true need n els = .ok ts) :
    ts = els.map (fun e => (e.1, e.2, Target.dev 0)) ∧ s.checkLocals wi need n els = .ok () ∧
    s.checkLocks true wi n need.write els = .ok () := by
  simp only [State.checkAccess, if_true] at h
  cases h1 : s.checkLocals wi need n els with
  | error x => rw [h1] at h; cases h
  | ok u =>
    rw [h1] at h
    cases h2 : s.checkLocks true wi n need.write els with
    | error x => rw [h2] at h; cases h
    | ok v =>
      rw [h2] at h
      cases h
      exact ⟨rfl, rfl, rfl⟩

/-! ### Traps -/

/-- The state in which a trap is taken: the wave's queued stores are performed, and what has not reached an engine is taken
back (R165, R238). -/
def State.atTrap (s : State) (wi : Nat) : State := (s.drainStores wi).leaveLatches wi false

/-- A trap with a handler outside one enters it (R105, R106). -/
theorem State.takeTrap_handled {wi : Nat} {r : Report} {a : W64} (hh : ((s.atTrap wi).waves.get wi).trap.handler ≠ 0)
    (hn : ((s.atTrap wi).waves.get wi).nest = false) :
    s.takeTrap wi r a = ((((s.atTrap wi).withdraw wi).setWave wi (((s.atTrap wi).waves.get wi).enterHandler r a)).mendLocal wi
      ((s.atTrap wi).waves.get wi).frameCells) := by
  unfold State.takeTrap
  exact if_pos (by rw [State.atTrap] at hh hn; rw [hn, decide_eq_true hh]; rfl)

/-- A trap without a handler, or inside one, ends the gang and its kernel (R105). -/
theorem State.takeTrap_fatal {wi : Nat} {r : Report} {a : W64}
    (h : ((s.atTrap wi).waves.get wi).trap.handler = 0 ∨ ((s.atTrap wi).waves.get wi).nest = true) :
    s.takeTrap wi r a =
      ((s.atTrap wi).terminateGang ((s.atTrap wi).waves.get wi).id.gang).abortKernel
        ((s.atTrap wi).waves.get wi).id.kern 1 r.code r := by
  unfold State.takeTrap
  exact if_neg (by rw [State.atTrap] at h; rcases h with h | h <;> simp [h])

/-! ### Single elements -/

/-- A release store of one element of this package or the host is performed at once. -/
theorem State.storeElement_release {wi n v l va : Nat} {loc : Bool} {t : Target} (h : ∀ p a, t ≠ .peer p a) :
    s.storeElement wi loc true n v (l, va, t) =
      s.homeStore wi { loc, off := va, t, n, v, stamp := s.epoch } := by
  cases t with
  | dev pa => rfl
  | host pa => rfl
  | peer p a => exact absurd rfl (h p a)

/-- With nothing of the core on its way, a store goes to its home alone. -/
theorem State.arriveIf_nil {core : Nat} {p : QStore → Bool} (h : (s.cores.get core).out = []) : s.arriveIf core p = s := by
  simp [State.arriveIf, h]
theorem State.arriveAll_nil {core : Nat} (h : (s.cores.get core).out = []) : s.arriveAll core = s := State.arriveIf_nil h

/-- A relaxed store of a wave whose queue is empty and keeps nothing is performed at once; of another, it waits there
(R238). -/
theorem State.queueStore_now {wi : Nat} {q : QStore} (hk : (s.waves.get wi).keep = false) (hq : (s.waves.get wi).stq = []) :
    s.queueStore wi q = s.performStore wi q := by simp [State.queueStore, hk, hq]
theorem State.queueStore_kept {wi : Nat} {q : QStore} (h : (s.waves.get wi).keep = true ∨ (s.waves.get wi).stq ≠ []) :
    s.queueStore wi q = s.modWave wi fun w => { w with stq := w.stq ++ [q] } := by
  rcases h with h | h <;> simp [State.queueStore, h]

/-- A wave with nothing queued has no store to perform. -/
@[simp] theorem State.drainStores_nil {wi : Nat} (h : (s.waves.get wi).stq = []) : s.drainStores wi = s := by
  simp [State.drainStores, h]

/-- A load of one element of good device memory. -/
theorem State.readAt_dev {pa n : Nat} (h : s.dv.bad = []) : s.readAt (.dev pa) n = .ok (s.mem.readNat pa n) := by
  have : s.badDev pa n = none := by simp [State.badDev, h]
  simp [State.readAt, this, pure, Except.pure]

end Sys2Proof.Machine
end

