-- ==== Sys2Proof/Laws/Streams.lean ====
section
/-!
SUPPORT. What an instruction of either stream does around its own effect: one lemma for each way of running.
-/
namespace Sys2Proof.Machine

open Sys2Proof.Claim

variable {s s' : State} {i : Instr}

/-- Nothing stands before the effect of a ready control instruction. -/
theorem State.before_of_ready (h : ctlReady s i = true) : s.before i = none := by
  simp only [ctlReady, ctlFree, Bool.and_eq_true, Bool.not_eq_true', decide_eq_true_eq] at h
  obtain ⟨⟨⟨⟨⟨⟨_, h1⟩, h2⟩, h3⟩, h4⟩, h5⟩, _⟩ := h
  rcases Bool.and_eq_false_iff.1 h5 with h5 | h5 <;> simp [State.before, h1, h2, h3, h4, h5]

/-- The effect of an instruction that stands in order begins in the state it stands in (R238). -/
theorem State.ordered_of_inOrder (h : inOrder s i = true) : s.ordered i = s := by
  unfold State.ordered
  by_cases hd : drains i = true
  · simp only [inOrder, hd, Bool.not_true, Bool.false_or, Bool.and_eq_true, Bool.or_eq_true, Bool.not_eq_true',
      List.isEmpty_iff, State.me] at h
    rw [if_pos hd, State.drainStores_nil h.1]
    by_cases hp : publishes i = true
    · simpa [hp] using State.arriveAll_nil (by simpa [arrived, hp] using h.2)
    · simp [hp]
  · rw [if_neg hd]

theorem State.ordered_of_ready (h : ctlReady s i = true) : s.ordered i = s := by
  simp only [ctlReady, Bool.and_eq_true] at h
  exact State.ordered_of_inOrder h.2

theorem State.held_of_ready (h : ctlReady s i = true) : s.me.st ≠ .free := by
  simp only [ctlReady, ctlFree, Bool.and_eq_true, decide_eq_true_eq] at h
  rw [h.1.1.1.1.1.1]; decide

/-- A ready control instruction whose effect falls through. -/
theorem runFlow_through {body : State → Eff (State × Option W64)} (h : ctlReady s i = true)
    (hb : body s = .ok (s', none)) :
    runFlow i body s = .next ((s'.endOwn s.cur false).onMe fun w => w.advance (parcelsOfInstr i) false) := by
  simp [runFlow, State.before_of_ready h, State.ordered_of_ready h, hb]

/-- A ready control instruction whose effect names a target. -/
theorem runFlow_jump {body : State → Eff (State × Option W64)} {t : W64} (h : ctlReady s i = true)
    (hb : body s = .ok (s', some t)) :
    runFlow i body s = .next ((s'.endOwn s.cur false).onMe fun w => w.jump t) := by
  simp [runFlow, State.before_of_ready h, State.ordered_of_ready h, hb]

theorem runFlow_stop {body : State → Eff (State × Option W64)} {e : Stop} (h : ctlReady s i = true)
    (hb : body s = .error e) : runFlow i body s = .next (s.ctlStop e) := by
  simp [runFlow, State.before_of_ready h, State.ordered_of_ready h, hb]

/-- A ready control instruction that falls through. -/
theorem runCtl_through {body : State → Eff State} (h : ctlReady s i = true) (hb : body s = .ok s') :
    runCtl i body s = .next ((s'.endOwn s.cur false).onMe fun w => w.advance (parcelsOfInstr i) false) :=
  runFlow_through h (by simp [hb, Except.map])

theorem runCtl_stop {body : State → Eff State} {e : Stop} (h : ctlReady s i = true) (hb : body s = .error e) :
    runCtl i body s = .next (s.ctlStop e) :=
  runFlow_stop h (by simp [hb, Except.map])

/-! ### The remote accesses of an instruction that is over -/

/-- What a wave keeps of its remote accesses after an instruction of one side is over. -/
def Wave.over (w : Wave) (v : Bool) : Wave :=
  { w with
    remote := w.remote.filter fun r => !(r.owner == 0 && (r.lane == 0) != v && (v || r.site == w.ctl.pc))
    vec := if v then { w.vec with access := none } else w.vec }

/-- The wave at work after its instruction's remote accesses have gone. -/
theorem State.me_endOwn (s : State) (v : Bool) : (s.endOwn s.cur v).me = s.me.over v := by
  unfold State.endOwn
  by_cases h : ((s.waves.get s.cur).remote.isEmpty && !(v && (s.waves.get s.cur).vec.access.isSome)) = true
  · rw [if_pos h]
    simp only [Bool.and_eq_true, Bool.not_eq_true', Bool.and_eq_false_iff, List.isEmpty_iff, Option.isSome_eq_false_iff,
      Option.isNone_iff_eq_none] at h
    obtain ⟨hr, hv⟩ := h
    have hw : ∀ w : Wave, w.remote = [] → (v = false ∨ w.vec.access = none) → w = w.over v := by
      rintro ⟨⟩ hr hv
      simp only at hr hv
      subst hr
      unfold Wave.over
      rcases hv with rfl | ha
      · simp
      · cases v <;> simp [← ha]
    exact hw _ hr hv
  · rw [if_neg h]
    exact State.get_modWave _ _

@[simp] theorem Wave.st_over (w : Wave) (v : Bool) : (w.over v).st = w.st := rfl
@[simp] theorem Wave.ctl_over (w : Wave) (v : Bool) : (w.over v).ctl = w.ctl := rfl
@[simp] theorem Wave.vec_over_ctl (w : Wave) : (w.over false).vec = w.vec := rfl

/-- Its other waves. -/
theorem State.get_endOwn_ne (s : State) (v : Bool) {w : Nat} (hw : w ≠ s.cur) :
    (s.endOwn s.cur v).waves.get w = s.waves.get w := by
  unfold State.endOwn
  by_cases h : ((s.waves.get s.cur).remote.isEmpty && !(v && (s.waves.get s.cur).vec.access.isSome)) = true
  · rw [if_pos h]
  · rw [if_neg h]; exact State.get_modWave_ne _ _ hw

/-- The rest of the state. -/
theorem State.eq_endOwn (s : State) (wi : Nat) (v : Bool) :
    s.endOwn wi v = { s with waves := (s.endOwn wi v).waves } := by
  unfold State.endOwn
  by_cases h : ((s.waves.get wi).remote.isEmpty && !(v && (s.waves.get wi).vec.access.isSome)) = true
  · rw [if_pos h]
  · rw [if_neg h]; rfl

@[simp] theorem State.cur_endOwn (s : State) (wi : Nat) (v : Bool) : (s.endOwn wi v).cur = s.cur := by
  rw [State.eq_endOwn]

/-- The state after a control instruction whose effect is a change of its wave. -/
def State.ran (s : State) (i : Instr) (g : Wave → Wave) : State :=
  ((s.modMe g).endOwn s.cur false).modMe fun w => w.advance (parcelsOfInstr i) false

theorem State.me_ran (s : State) (i : Instr) (g : Wave → Wave) :
    (s.ran i g).me = ((g s.me).over false).advance (parcelsOfInstr i) false := by
  have h : ((s.modMe g).endOwn s.cur false).cur = s.cur := by simp
  have h' := State.me_endOwn (s.modMe g) false
  rw [State.me_modMe] at h'
  unfold State.ran
  rw [State.me_modMe]
  exact congrArg (fun w => Wave.advance w _ _) h'

theorem State.onlyMe_ran (s : State) (i : Instr) (g : Wave → Wave) : OnlyMe s (s.ran i g) := by
  constructor
  · unfold State.ran
    rw [State.eq_endOwn]
    rfl
  · intro w hw
    have h : ((s.modMe g).endOwn s.cur false).cur = s.cur := by simp
    unfold State.ran
    rw [State.get_modMe_ne _ (by simpa using hw)]
    exact (State.get_endOwn_ne (s.modMe g) false hw).trans (State.get_modMe_ne _ hw)

/-- A ready control instruction whose effect is a change of its wave that keeps its slot. -/
theorem runCtl_wave {body : State → Eff State} {g : Wave → Wave} (h : ctlReady s i = true)
    (hb : body s = .ok (s.modMe g)) (hg : (g s.me).st = s.me.st) : runCtl i body s = .next (s.ran i g) := by
  rw [runCtl_through h hb]
  have : ((s.modMe g).endOwn s.cur false).me.st ≠ .free := by
    have := State.me_endOwn (s.modMe g) false
    simp only [State.cur_modMe] at this
    rw [this, State.me_modMe, Wave.st_over, hg]
    exact State.held_of_ready h
  rw [State.onMe_of_held this]
  rfl

/-- A ready control instruction whose effect is the write of one s register. -/
theorem runCtl_setS {body : State → Eff State} {d : BitVec 8} {x : W64} (h : ctlReady s i = true)
    (hb : body s = .ok (s.modMe fun w => w.setS d.toNat x)) :
    ∃ t, runCtl i body s = .next t ∧ CtlDone s t i [d.toNat] ∧ t.me.getS d.toNat = kept d x := by
  have hst : ∀ w : Wave, (w.setS d.toNat x).st = w.st := fun w => by unfold Wave.setS; split_ifs <;> rfl
  refine ⟨_, runCtl_wave h hb (hst _), ⟨State.onlyMe_ran _ _ _, ?_, ?_, ?_, ?_⟩, ?_⟩
  · unfold Past; rw [State.me_ran]; unfold Wave.setS; split_ifs <;> exact ⟨rfl, rfl⟩
  · unfold OnlyRegs; rw [State.me_ran]; unfold Wave.setS; split_ifs <;> rfl
  · rw [State.me_ran]; unfold Wave.setS; split_ifs <;> rfl
  · intro n hn
    rw [State.me_ran]
    exact Wave.getS_setS_ne s.me (by simpa using hn) x
  · rw [State.me_ran]
    by_cases hd : d = 0
    · subst hd; rfl
    · have : d.toNat ≠ 0 := fun h => hd (BitVec.eq_of_toNat_eq (by simpa using h))
      rw [kept, if_neg hd]
      exact Wave.getS_setS s.me this x

/-! ### The vector side -/

/-- Registers inside the allotment pass the check. -/
theorem State.checkRegs_of_in {rs : List Nat} (h : regsIn s rs = true) : s.checkRegs rs = .ok () := by
  have hn : rs.find? (fun r => decide (s.vregs s.me ≤ r)) = none := by
    rw [List.find?_eq_none]
    intro r hr
    have := List.all_eq_true.1 h r hr
    simp only [decide_eq_true_eq] at this ⊢
    omega
  simp [State.checkRegs, hn, pure, Except.pure]

theorem State.checkEcc_of_good (h : s.dv.bad = []) (rs : List Nat) (A : W64) : s.checkEcc rs A = .ok () := by
  simp [State.checkEcc, State.checkEccOf, h, pure, Except.pure]

/-- A ready vector instruction is its effect on the active lanes, and what follows it. -/
theorem runVec_ready {f : Form} {body : W64 → State → Eff State} (h : vecReady s i f = true) :
    runVec i f body s =
      match body (active s f) s with
      | .ok s' => .next (vleave s s' i)
      | .error e => .next (s.vecStop s.me.vecSite e) := by
  simp only [vecReady, Bool.and_eq_true, Bool.not_eq_true'] at h
  obtain ⟨⟨⟨⟨⟨⟨_, _⟩, h3⟩, h4⟩, h5⟩, h6⟩, h7⟩ := h
  have h3' : s.dv.bad = [] := List.isEmpty_iff.1 h3
  unfold runVec
  rw [State.ordered_of_inOrder h7]
  change (match ((do
    if s.ackPending (guardRegs f ++ vReads i f) || s.me.fragHeld (vWrites i f) then waitEff .other
    s.checkRegs (guardRegs f)
    s.checkEcc (guardRegs f ++ eccReads i f) (active s f)
    body (active s f) s : Eff State)) with
    | .ok s' => Host.Outcome.next ((s'.endOwn s.cur true).onMe fun w => w.vadvance (parcelsOfInstr i))
    | .error e => .next (s.vecStop s.me.vecSite e)) = _
  rw [h5, h6, State.checkRegs_of_in h4, State.checkEcc_of_good h3']
  rfl

/-- A trap at a ready vector instruction. -/
theorem State.vecStop_trap (r : Report) : s.vecStop s.me.vecSite (.trap r) = vtrapsAt s r := rfl

theorem runVec_done {f : Form} {body : W64 → State → Eff State} (h : vecReady s i f = true)
    (hb : body (active s f) s = .ok s') : runVec i f body s = .next (vleave s s' i) := by
  rw [runVec_ready h, hb]

theorem runVec_stop {f : Form} {body : W64 → State → Eff State} {e : Stop} (h : vecReady s i f = true)
    (hb : body (active s f) s = .error e) : runVec i f body s = .next (s.vecStop s.me.vecSite e) := by
  rw [runVec_ready h, hb]

/-! ### Long-latency instructions -/

/-- The issue of an operation that may issue, whose checks pass and whose ranges may enter the range-lock table. -/
theorem State.issueOp_ready {f : Form} {op : LongOp} {c : OpCtx} {s1 : State} (hm : mayIssueOp s i = true)
    (hs : started s op i f = .ok (c, s1)) (hc : (opAt s i f).i = i) (hw : c.wi = s.cur) (hl : unlocked s op c = true) :
    s.issueOp op (opAt s i f) = .ok (c, (s1.leaveLockq (lockAsker s.cur false)).addLocks (op.locks c s)) := by
  have hd : scalarMemory i = true ∨ scalarMemory i = false ∧ s.me.stq = [] ∧ (s.cores.get (coreOf s.cur)).out = [] ∧
      (s.me.ctl.ops.any fun o => scalarMemory o.instr) = false ∧ s.outstanding s.cur = false := by
    cases hi : scalarMemory i
    · exact .inr ⟨rfl, by simpa [mayIssueOp, arrived, hi, and_assoc] using hm⟩
    · exact .inl rfl
  have hl' : s.lockTurn (lockAsker s.cur false) (s.waves.get s.cur).id.ctx (op.locks c s) = true := hl
  have hs' : op.start (opAt s i f) { s with uid := s.uid + 1 } = .ok (c, s1) := hs
  unfold State.issueOp
  rw [hc]
  rcases hd with hi | ⟨hi, hq, hn, ho, hr⟩
  · simp [hi, hs', hl', hw, bind, Except.bind, pure, Except.pure]
  · have hq' : (s.waves.get (opAt s i f).wi).stq = [] := hq
    have ho' : ((s.waves.get (opAt s i f).wi).ctl.ops.any fun o => scalarMemory o.instr) = false := ho
    have hr' : s.release (opAt s i f).wi = .ok () := by
      have : s.outstanding (opAt s i f).wi = false := hr
      simp [State.release, this, pure, Except.pure]
    have hn' : (s.cores.get (coreOf (opAt s i f).wi)).out = [] := hn
    simp only [hi, Bool.false_eq_true, if_false, State.drainStores_nil hq', State.arriveAll_nil hn', ho', hr', hs', bind, Except.bind, pure,
      Except.pure, hw, hl', if_true]

/-- A ready one that takes a clear flag which holds no fault: it locks its ranges, records its operation, sets the flag
and goes on (R69, R70, R245). -/
theorem runLong_flagged {f : Form} {op : LongOp} {c : OpCtx} {s1 : State} (h : ctlReady s i = true)
    (hf : s.me.setFlagOf < 12) (hh : s.me.firstFault (fun x => x == s.me.setFlagOf) = none)
    (hc : s.me.flag s.me.setFlagOf = false) (hm : mayIssueOp s i = true) (hs : started s op i f = .ok (c, s1))
    (hw : c.wi = s.cur) (hl : unlocked s op c = true) :
    runLong i f op s = .next
      ((((s1.leaveLockq (lockAsker s.cur false)).addLocks (op.locks c s)).recordOp c s.me.setFlagOf).modMe fun w =>
        (w.setFlag s.me.setFlagOf true).advance (parcelsOfInstr i) true) := by
  have hi := State.issueOp_ready (f := f) hm hs rfl hw hl
  simp only [opAt] at hi
  simp [runLong, State.before_of_ready h, if_pos hf, runFlagged, State.raiseHeld, hh, hc, hi]

/-- A ready one without a flag that has not begun and whose effect goes through at once (R69). -/
theorem runLong_sync {f : Form} {op : LongOp} {c : OpCtx} {s1 : State} (h : ctlReady s i = true)
    (hu : unflagged s = true) (hm : mayIssueOp s i = true) (hs : started s op i f = .ok (c, s1)) (hw : c.wi = s.cur)
    (hl : unlocked s op c = true)
    (hf : op.finish c ((s1.leaveLockq (lockAsker s.cur false)).addLocks (op.locks c s)) = .ok s') :
    runLong i f op s = .next
      (((s1.leaveLockq (lockAsker s.cur false)).addLocks (op.locks c s)).endSync c (.ok s')) := by
  simp only [unflagged, Bool.and_eq_true, Bool.not_eq_true', decide_eq_true_eq, List.any_eq_false] at hu
  have hfx : ¬ s.me.setFlagOf < 12 := by omega
  have hn : (s.me.ctl.ops.find? fun o => o.flag == 15 && o.site == s.me.ctl.pc) = none :=
    List.find?_eq_none.2 fun o ho => by simpa using hu.1.2 o ho
  have hi := State.issueOp_ready (f := f) hm hs rfl hw hl
  simp only [opAt] at hi
  simp [runLong, State.before_of_ready h, if_neg hfx, runSync, hn, hi, hf]

/-! ### Barriers, channels and deques -/

theorem State.settleBuffer_of_settled (h : settled s = true) : s.settleBuffer s.cur = .ok () := by
  simp only [settled, Bool.and_eq_true, Bool.not_eq_true', List.isEmpty_iff] at h
  obtain ⟨⟨h1, h2⟩, h3⟩ := h
  have h3' : (s.waves.get s.cur).losses = [] := h3
  simp [State.settleBuffer, State.flushBuffer, State.oweLoss, h1, h2, h3', pure, Except.pure, bind, Except.bind]

/-- A ready one with nothing of its wave under way is its own effect (R304). -/
theorem runMeet_quiet {body : State → Eff State} (h : ctlReady s i = true) (hq : quiet s = true) :
    runMeet i body s = runCtl i (fun s => (body s).map fun s => s.acquire s.cur) s := by
  simp only [quiet, Bool.and_eq_true, List.isEmpty_iff, Bool.not_eq_true'] at hq
  obtain ⟨⟨⟨⟨h1, h2⟩, h3⟩, h4⟩, h5⟩ := hq
  have hp : s.prelude = .ok () := by
    have hr : s.release s.cur = .ok () := by simp [State.release, h5, pure, Except.pure]
    simp [State.prelude, hr, State.settleBuffer_of_settled h4, pure, Except.pure, bind, Except.bind]
  have hf : s.me.firstFault (fun _ => true) = none := by simp [Wave.firstFault, h3]
  simp only [runMeet, State.before_of_ready h, h1, h2, State.raiseHeld, hf, Option.map_none]
  cases hb : body s <;>
    simp [runCtl, runFlow, State.before_of_ready h, State.ordered_of_ready h, hp, hb, bind, Except.bind, Except.map, pure,
      Except.pure]

end Sys2Proof.Machine
end

