-- ==== Sys2Proof/Tests/Slice0.lean ====
section
/-!
SUPPORT. Tests: a word of every encoded instruction, checks that refuse, values of single instructions, and for every
statement states and operands that meet its hypotheses.
-/
namespace Sys2Proof.Tests

open Sys2Proof.Machine Sys2Proof.Claim

set_option Elab.async false

/-! ### A word of every encoded instruction, from R53, R54, R56, R57 and the opcode maps -/

/-- A 64-bit form without a guard; a 96-bit form with a literal. -/
def F (d a b c : BitVec 8) (mod : BitVec 14) : Form := { guard := 0, gneg := false, d, a, b, c, mod, ext := .none }
def L (d a b c : BitVec 8) (mod : BitVec 14) (v : W32) : Form :=
  { guard := 0, gneg := false, d, a, b, c, mod, ext := .lit v }
def Gd (g : BitVec 4) (n : Bool) (d a b c : BitVec 8) (mod : BitVec 14) : Form := { F d a b c mod with guard := g, gneg := n }

/-- The parcels decode to the instruction, which is well-formed and encodes to them. -/
def reads (e : List W32 × Instr) : Bool :=
  (match decode e.2.vec e.1 with
    | .ok (i, n) => i == e.2 && n == e.1.length
    | .error _ => false) && e.2.wf && encode e.2 == some e.1

/-- Integer: Tables 3.12 and 8.1. -/
def words_integer : List (List W32 × Instr) := [
  ([0x08140005, 0x0012000C], .add (F 10 4 6 0 9)),
  ([0x08140009, 0x0012000C], .sub (F 10 4 6 0 9)),
  ([0x0814000D, 0x0012000C], .mul (F 10 4 6 0 9)),
  ([0x08140011, 0x0012000C], .mulh (F 10 4 6 0 9)),
  ([0x08140015, 0x0012000C], .div (F 10 4 6 0 9)),
  ([0x08140019, 0x0012000C], .rem (F 10 4 6 0 9)),
  ([0x0814001D, 0x001E000C], .bitAnd (F 10 4 6 0 0xF)),
  ([0x08140021, 0x001E000C], .bitOr (F 10 4 6 0 0xF)),
  ([0x08140025, 0x001E000C], .xor (F 10 4 6 0 0xF)),
  ([0x08140029, 0x001E000C], .andn (F 10 4 6 0 0xF)),
  ([0x0814002D, 0x001E000C], .shl (F 10 4 6 0 0xF)),
  ([0x08140031, 0x001E000C], .shr (F 10 4 6 0 0xF)),
  ([0x08140035, 0x0012000C], .sar (F 10 4 6 0 9)),
  ([0x08140039, 0x0012000C], .min (F 10 4 6 0 9)),
  ([0x0814003D, 0x0012000C], .max (F 10 4 6 0 9)),
  ([0x08140041, 0x00120E0C], .sel (F 10 4 6 7 9)),
  ([0x08420045, 0x0092000C], .cmp (F 33 4 6 0 0x49)),
  ([0x08140049, 0x001A100C], .lea (F 10 4 6 8 0xD)),
  ([0x0814004D, 0x001E0000], .mov (F 10 4 0 0 0xF)),
  ([0x10140052, 0x04120000, 0x00001234], .ldi (L 10 8 0 0 0x209 0x1234)),
  ([0x10140052, 0x24000000, 0x89ABCDEF], .ldiHi (L 10 8 0 0 0x1200 0x89ABCDEF)),
  ([0x08140055, 0x001E0000], .popc (F 10 4 0 0 0xF)),
  ([0x08140059, 0x001E0000], .clz (F 10 4 0 0 0xF)),
  ([0x0814005D, 0x001E100C], .bfx (F 10 4 6 8 0xF)),
  ([0x08140061, 0x001E100C], .bfi (F 10 4 6 8 0xF))]

theorem test_decode_integer : words_integer.all reads = true := by decide +kernel

/-- Flow: Tables 3.12 and 8.3. -/
def words_flow : List (List W32 × Instr) := [
  ([0x00000082, 0x00000000, 0x00000040], .br (L 0 0 0 0 0 0x40)),
  ([0x08000086, 0x0092000C, 0x00000040], .bc (L 0 4 6 0 0x49 0x40)),
  ([0x0000008A, 0x0040100E, 0x00000040], .brv (L 0 0 7 8 0x20 0x40)),
  ([0x0000008E, 0x00000000, 0x00000040], .call (L 0 0 0 0 0 0x40)),
  ([0x08000091, 0x00000000], .ret (F 0 4 0 0 0)),
  ([0x08140095, 0x00000000], .jr (F 10 4 0 0 0)),
  ([0x0800009A, 0x00000000, 0x00000040], .loopTo (L 0 4 0 0 0 0x40)),
  ([0x081400C2, 0x0080000E, 0x00000040], .vrun (L 10 4 7 0 0x40 0x40)),
  ([0x000000C5, 0x0000000E], .mpush (F 0 0 7 0 0)),
  ([0x000000C9, 0x00000000], .melse (F 0 0 0 0 0)),
  ([0x000000CD, 0x00000000], .mpop (F 0 0 0 0 0)),
  ([0x000E00D1, 0x0000000E], .vany (F 7 0 7 0 0)),
  ([0x000E00D5, 0x0000000E], .vall (F 7 0 7 0 0)),
  ([0x081400D9, 0x001C1200], .bqrd (F 10 4 0 9 0xE)),
  ([0x001400DD, 0x00000000], .lser (F 10 0 0 0 0)),
  ([0x000000E1, 0x00000000], .lsend (F 0 0 0 0 0)),
  ([0x08000101, 0x00000000], .crew (F 0 4 0 0 0)),
  ([0x08140105, 0x0000000C], .gnode (F 10 4 6 0 0)),
  ([0x08000109, 0x0000100C], .grun (F 0 4 6 8 0)),
  ([0x0800010D, 0x0000000C], .semw (F 0 4 6 0 0)),
  ([0x08000111, 0x0000000C], .sems (F 0 4 6 0 0))]

theorem test_decode_flow : words_flow.all reads = true := by decide +kernel

/-- Scalar memory: Table 3.12, R197. -/
def words_scalar_memory : List (List W32 × Instr) := [
  ([0x08140121, 0x001A8000], .sld (F 10 4 0 64 0xD)),
  ([0x08140125, 0x001A8000], .sst (F 10 4 0 64 0xD)),
  ([0x08140141, 0x00121000], .satomAdd (F 10 4 0 8 9)),
  ([0x08140145, 0x00121000], .satomMin (F 10 4 0 8 9)),
  ([0x08140149, 0x00121000], .satomMax (F 10 4 0 8 9)),
  ([0x0814014D, 0x001E1000], .satomAnd (F 10 4 0 8 0xF)),
  ([0x08140151, 0x001E1000], .satomOr (F 10 4 0 8 0xF)),
  ([0x08140155, 0x001E1000], .satomXor (F 10 4 0 8 0xF)),
  ([0x08140159, 0x001E1000], .satomXchg (F 10 4 0 8 0xF)),
  ([0x0814015D, 0x001E1000], .satomCas (F 10 4 0 8 0xF)),
  ([0x08140161, 0x001A1000], .satomInc (F 10 4 0 8 0xD)),
  ([0x0000017D, 0x00000000], .fenceCtrl (F 0 0 0 0 0))]

theorem test_decode_scalar_memory : words_scalar_memory.all reads = true := by decide +kernel

/-- System: Table 3.12, R199. -/
def words_system : List (List W32 × Instr) := [
  ([0x00000181, 0x01C00000], .trapTo (F 0 0 0 0 0xE0)),
  ([0x00000185, 0x00000000], .eret (F 0 0 0 0 0)),
  ([0x24140189, 0x00000000], .csrr (F 10 18 0 0 0)),
  ([0x2400018D, 0x00001000], .csrw (F 0 18 0 8 0)),
  ([0x00000191, 0x00000000], .acq (F 0 0 0 0 0)),
  ([0x00000195, 0x00000000], .yield (F 0 0 0 0 0)),
  ([0x00000199, 0x00000000], .exitWave (F 0 0 0 0 0)),
  ([0x0000019D, 0x00000000], .nop (F 0 0 0 0 0)),
  ([0x001401A1, 0x00000000], .clk (F 10 0 0 0 0)),
  ([0x001401A5, 0x00000000], .tick (F 10 0 0 0 0))]

theorem test_decode_system : words_system.all reads = true := by decide +kernel

/-- Matrix: Tables 3.12 and 12.3. -/
def words_matrix : List (List W32 × Instr) := [
  ([0x08000201, 0x00020000], .ldw (F 0 4 0 0 1)),
  ([0x0E060205, 0x00020000], .mma (F 3 7 0 0 1)),
  ([0x0E060209, 0x0002000C], .mmaSp (F 3 7 6 0 1)),
  ([0x0E06020D, 0x00040000], .mmaSr (F 3 7 0 0 2)),
  ([0x0E060211, 0x0000100C], .scac (F 3 7 6 8 0)),
  ([0x00060215, 0x00000000], .zclr (F 3 0 0 0 0)),
  ([0x00060215, 0x00400A00], .zclrPin (F 3 0 0 5 0x20)),
  ([0x00060215, 0x10800000], .zclrUnpin (F 3 0 0 0 0x840)),
  ([0x06000219, 0x0000100C], .zdrain (F 0 3 6 8 0))]

theorem test_decode_matrix : words_matrix.all reads = true := by decide +kernel

/-- Meeting: Tables 3.12 and 13.1. -/
def words_meeting : List (List W32 × Instr) := [
  ([0x00000241, 0x00000000], .barWg (F 0 0 0 0 0)),
  ([0x08000245, 0x00000000], .barM (F 0 4 0 0 0)),
  ([0x00000249, 0x00000000], .barGang (F 0 0 0 0 0)),
  ([0x0814024D, 0x00000000], .barDev (F 10 4 0 0 0)),
  ([0x08140251, 0x00000000], .fbar (F 10 4 0 0 0)),
  ([0x08000255, 0x0000100C], .chanPush (F 0 4 6 8 0)),
  ([0x08140259, 0x00001000], .chanPop (F 10 4 0 8 0)),
  ([0x0814025D, 0x0000000C], .deqPush (F 10 4 6 0 0)),
  ([0x0814025D, 0x0040000C], .deqPushReset (F 10 4 6 0 0x20)),
  ([0x08140261, 0x00000000], .deqPop (F 10 4 0 0 0)),
  ([0x08140265, 0x00000000], .deqStealClaim (F 10 4 0 0 0)),
  ([0x08140265, 0x0040000C], .deqStealRun (F 10 4 6 0 0x20)),
  ([0x08140265, 0x0080000C], .deqStealDone (F 10 4 6 0 0x40))]

theorem test_decode_meeting : words_meeting.all reads = true := by decide +kernel

/-- Page tape render link: Tables 3.12, 15.4 and 16.2. -/
def words_page_tape_render_link : List (List W32 × Instr) := [
  ([0x08000281, 0x0000000C], .evict (F 0 4 6 0 0)),
  ([0x00140285, 0x00000000], .pgq (F 10 0 0 0 0)),
  ([0x001402A1, 0x00000000], .tspan (F 10 0 0 0 0)),
  ([0x001402A1, 0x00800000], .tspanRefill (F 10 0 0 0 0x40)),
  ([0x000002A5, 0x00000000], .tspend (F 0 0 0 0 0)),
  ([0x001402A9, 0x00800000], .tstat (F 10 0 0 0 0x40)),
  ([0x081402C1, 0x0000100C], .rast (F 10 4 6 8 0)),
  ([0x081402E1, 0x0000100C], .allred (F 10 4 6 8 0)),
  ([0x081402E5, 0x00001000], .mgrpDef (F 10 4 0 8 0)),
  ([0x081402E5, 0x0040100C], .mgrpBind (F 10 4 6 8 0x20)),
  ([0x001402E5, 0x00801000], .mgrpRevoke (F 10 0 0 8 0x40)),
  ([0x001402E5, 0x00C01000], .mgrpFree (F 10 0 0 8 0x60))]

theorem test_decode_page_tape_render_link : words_page_tape_render_link.all reads = true := by decide +kernel

/-- Floating: Tables 3.13 and 9.2. -/
def words_floating : List (List W32 × Instr) := [
  ([0x08140805, 0x0040000C], .fadd (F 10 4 6 0 0x20)),
  ([0x08140809, 0x0000000C], .fsub (F 10 4 6 0 0)),
  ([0x0814080D, 0x0000000C], .fmul (F 10 4 6 0 0)),
  ([0x08140811, 0x0040100C], .fma (F 10 4 6 8 0x20)),
  ([0x08140815, 0x0000000C], .fmin (F 10 4 6 0 0)),
  ([0x08140819, 0x0000000C], .fmax (F 10 4 6 0 0)),
  ([0x0814081D, 0x0000000C], .fdiv (F 10 4 6 0 0)),
  ([0x08140821, 0x00000000], .frcp (F 10 4 0 0 0)),
  ([0x08140825, 0x00000000], .frsq (F 10 4 0 0 0)),
  ([0x08140829, 0x00000000], .fsqrt (F 10 4 0 0 0)),
  ([0x0814082D, 0x00000000], .exp2 (F 10 4 0 0 0)),
  ([0x08140831, 0x00000000], .log2 (F 10 4 0 0 0)),
  ([0x08140835, 0x00000000], .sinpi (F 10 4 0 0 0)),
  ([0x08140839, 0x00000000], .cospi (F 10 4 0 0 0)),
  ([0x0814083D, 0x00000000], .fclass (F 10 4 0 0 0)),
  ([0x08420841, 0x0080000C], .fcmp (F 33 4 6 0 0x40)),
  ([0x08140845, 0x001C060C], .fsel (F 10 4 6 3 0xE))]

theorem test_decode_floating : words_floating.all reads = true := by decide +kernel

/-- Vector integer: Tables 3.13 and 9.4. -/
def words_vector_integer : List (List W32 × Instr) := [
  ([0x08140881, 0x0210000C], .iadd (F 10 4 6 0 0x108)),
  ([0x08140885, 0x0010000C], .isub (F 10 4 6 0 8)),
  ([0x08140889, 0x0010000C], .imul (F 10 4 6 0 8)),
  ([0x0814088D, 0x0010100C], .imad (F 10 4 6 8 8)),
  ([0x08140891, 0x0010000C], .imulh (F 10 4 6 0 8)),
  ([0x08140895, 0x00100000], .iabs (F 10 4 0 0 8)),
  ([0x08140899, 0x001C000C], .iand (F 10 4 6 0 0xE)),
  ([0x0814089D, 0x001C000C], .ior (F 10 4 6 0 0xE)),
  ([0x081408A1, 0x001C000C], .ixor (F 10 4 6 0 0xE)),
  ([0x081408A5, 0x001C000C], .ishl (F 10 4 6 0 0xE)),
  ([0x081408A9, 0x001C000C], .ishr (F 10 4 6 0 0xE)),
  ([0x081408AD, 0x0010000C], .isar (F 10 4 6 0 8)),
  ([0x081408B1, 0x0010000C], .imin (F 10 4 6 0 8)),
  ([0x081408B5, 0x0010000C], .imax (F 10 4 6 0 8)),
  ([0x084208B9, 0x0090000C], .icmp (F 33 4 6 0 0x48)),
  ([0x081408BD, 0x001C0000], .ipopc (F 10 4 0 0 0xE)),
  ([0x081408C1, 0x001C0000], .iclz (F 10 4 0 0 0xE)),
  ([0x081408C5, 0x001C100C], .ibfx (F 10 4 6 8 0xE)),
  ([0x081408C9, 0x001C100C], .ibfi (F 10 4 6 8 0xE))]

theorem test_decode_vector_integer : words_vector_integer.all reads = true := by decide +kernel

/-- Conversion and lanes: Table 3.13. -/
def words_conversion_and_lanes : List (List W32 × Instr) := [
  ([0x08140901, 0x00001000], .cvt (F 10 4 0 8 0)),
  ([0x08140905, 0x0002000C], .pack (F 10 4 6 0 1)),
  ([0x08140909, 0x00020200], .unpack (F 10 4 0 1 1)),
  ([0x0814090D, 0x00061000], .qnt (F 10 4 0 8 3)),
  ([0x08140911, 0x00061000], .dqnt (F 10 4 0 8 3)),
  ([0x08140921, 0x001C0000], .movV (F 10 4 0 0 0xE)),
  ([0x0A140925, 0x041C0000], .movk (F 10 5 0 0 0x20E)),
  ([0x00140929, 0x0018000E], .laneRank (F 10 0 7 0 0xC)),
  ([0x0814092D, 0x001C000C], .perm (F 10 4 6 0 0xE)),
  ([0x08140931, 0x001C000C], .bcast (F 10 4 6 0 0xE)),
  ([0x08140935, 0x001C000E], .compress (F 10 4 7 0 0xE)),
  ([0x08140939, 0x001C000E], .expand (F 10 4 7 0 0xE)),
  ([0x0814093D, 0x001C000C], .slideup (F 10 4 6 0 0xE)),
  ([0x08140941, 0x001C000C], .slidedn (F 10 4 6 0 0xE)),
  ([0x08140945, 0x001C0000], .matchLanes (F 10 4 0 0 0xE)),
  ([0x00140949, 0x001E000E], .ballot (F 10 0 7 0 0xF)),
  ([0x08140961, 0x00000000], .redLanes (F 10 4 0 0 0)),
  ([0x08140965, 0x00000000], .scanLanes (F 10 4 0 0 0)),
  ([0x0A120971, 0x0000000E], .pand (F 9 5 7 0 0)),
  ([0x0A120975, 0x0000000E], .por (F 9 5 7 0 0)),
  ([0x0A120979, 0x0000000E], .pxor (F 9 5 7 0 0)),
  ([0x0A12097D, 0x00000000], .pnot (F 9 5 0 0 0)),
  ([0x08140981, 0x0000100C], .adamw (F 10 4 6 8 0))]

theorem test_decode_conversion_and_lanes : words_conversion_and_lanes.all reads = true := by decide +kernel

/-- Vector memory: Tables 3.13 and 11.1. -/
def words_vector_memory : List (List W32 × Instr) := [
  ([0x08140A01, 0x001C8000], .ldG (F 10 4 0 64 0xE)),
  ([0x08140A05, 0x001C8000], .ldL (F 10 4 0 64 0xE)),
  ([0x08140A09, 0x001C8000], .stG (F 10 4 0 64 0xE)),
  ([0x08140A0D, 0x001C8000], .stL (F 10 4 0 64 0xE)),
  ([0x08140A11, 0x001C8000], .ldg (F 10 4 0 64 0xE)),
  ([0x08140A15, 0x001C8000], .stg (F 10 4 0 64 0xE)),
  ([0x08140A19, 0x01000000], .redO (F 10 4 0 0 0x80)),
  ([0x08280A1D, 0x015C100C], .mcastSt (F 20 4 6 8 0xAE)),
  ([0x00000A21, 0x00000000], .fenceVec (F 0 0 0 0 0)),
  ([0x08000A25, 0x00400000], .pref (F 0 4 0 0 0x20)),
  ([0x08140A41, 0x00101000], .atomAdd (F 10 4 0 8 8)),
  ([0x08140A45, 0x00101000], .atomMin (F 10 4 0 8 8)),
  ([0x08140A49, 0x00101000], .atomMax (F 10 4 0 8 8)),
  ([0x08140A4D, 0x001C1000], .atomAnd (F 10 4 0 8 0xE)),
  ([0x08140A51, 0x001C1000], .atomOr (F 10 4 0 8 0xE)),
  ([0x08140A55, 0x001C1000], .atomXor (F 10 4 0 8 0xE)),
  ([0x08140A59, 0x001C1000], .atomXchg (F 10 4 0 8 0xE)),
  ([0x08140A5D, 0x001C1000], .atomCas (F 10 4 0 8 0xE)),
  ([0x08140A61, 0x00181000], .atomInc (F 10 4 0 8 0xC))]

theorem test_decode_vector_memory : words_vector_memory.all reads = true := by decide +kernel

/-- Tile page tape render: Tables 3.13 and 16.2. -/
def words_tile_page_tape_render : List (List W32 × Instr) := [
  ([0x06140A81, 0x0000100C], .zcopy (F 10 3 6 8 0)),
  ([0x08140AA1, 0x0000100C], .attnStep (F 10 4 6 8 0)),
  ([0x08140AA5, 0x0000100C], .attnMass (F 10 4 6 8 0)),
  ([0x08000AC1, 0x001C0000], .trec (F 0 4 0 0 0xE)),
  ([0x00140AC5, 0x001C000E], .tpop (F 10 0 7 0 0xE)),
  ([0x08000AC9, 0x001C0000], .tckpt (F 0 4 0 0 0xE)),
  ([0x00140AC9, 0x005C1000], .tckptGet (F 10 0 0 8 0x2E)),
  ([0x08140B01, 0x0040100C], .tex (F 10 4 6 8 0x20)),
  ([0x08140B05, 0x0000100C], .texadj (F 10 4 6 8 0)),
  ([0x08140B09, 0x0000000C], .trav (F 10 4 6 0 0)),
  ([0x08140B0D, 0x0000100C], .isect (F 10 4 6 8 0)),
  ([0x08140B11, 0x0000100C], .isectadj (F 10 4 6 8 0)),
  ([0x08140B15, 0x0000100C], .bary (F 10 4 6 8 0)),
  ([0x08140B19, 0x0000100C], .baryadj (F 10 4 6 8 0)),
  ([0x08140B1D, 0x0000100C], .esmp (F 10 4 6 8 0))]

theorem test_decode_tile_page_tape_render : words_tile_page_tape_render.all reads = true := by decide +kernel

/-- Short forms (Table 3.14) and the clause header of the example of R69. -/
def words_short : List (List W32 × Instr) := [
  ([0x24202804], .addI64Short { d := 10, a := 8, b := 9 }),
  ([0x24202808], .subI64Short { d := 10, a := 8, b := 9 }),
  ([0x2420280C], .andB64Short { d := 10, a := 8, b := 9 }),
  ([0x24202810], .orB64Short { d := 10, a := 8, b := 9 }),
  ([0x24202814], .xorB64Short { d := 10, a := 8, b := 9 }),
  ([0x24202818], .shlB64Short { d := 10, a := 8, b := 9 }),
  ([0x2420281C], .shrB64Short { d := 10, a := 8, b := 9 }),
  ([0x24202820], .sarI64Short { d := 10, a := 8, b := 9 }),
  ([0x00202824], .movB64Short { d := 10, a := 8, b := 0 }),
  ([0x24202828], .minI64Short { d := 10, a := 8, b := 9 }),
  ([0x2420282C], .maxI64Short { d := 10, a := 8, b := 9 }),
  ([0x0000003C], .nopShort),
  ([0x24232204], .faddF32Short { d := 200, a := 8, b := 9 }),
  ([0x24232208], .fsubF32Short { d := 200, a := 8, b := 9 }),
  ([0x2423220C], .fmulF32Short { d := 200, a := 8, b := 9 }),
  ([0x24232210], .fminF32Short { d := 200, a := 8, b := 9 }),
  ([0x24232214], .fmaxF32Short { d := 200, a := 8, b := 9 }),
  ([0x24232220], .iaddI32Short { d := 200, a := 8, b := 9 }),
  ([0x24232224], .isubI32Short { d := 200, a := 8, b := 9 }),
  ([0x24232228], .imulI32Short { d := 200, a := 8, b := 9 }),
  ([0x2423222C], .iandB32Short { d := 200, a := 8, b := 9 }),
  ([0x24232230], .iorB32Short { d := 200, a := 8, b := 9 }),
  ([0x24232234], .ixorB32Short { d := 200, a := 8, b := 9 }),
  ([0x24232238], .ishlB32Short { d := 200, a := 8, b := 9 }),
  ([0x2423223C], .ishrB32Short { d := 200, a := 8, b := 9 }),
  ([0x24232240], .isarI32Short { d := 200, a := 8, b := 9 }),
  ([0x00232244], .movB32Short { d := 200, a := 8, b := 0 }),
  ([0x01194027], .clauseHeader { len := 4, set2 := 6, set1 := 5, wait := 9 })]

theorem test_decode_short : words_short.all reads = true := by decide +kernel

/-! ### What is not an encoding (R53–R77): an ill-formed term for each check -/

/-- A guarded form; one with a compatibility guard. -/
def Cg (g : CompatGuard) (d a b c : BitVec 8) (mod : BitVec 14) : Form := { F d a b c mod with ext := .compat g }

/-- Guards (R65, R67): a control guard above c7; guard 0 negated; a descriptor of the other file; its bit or register out
of range; a guard beside it. -/
theorem test_wf_guards : [Instr.add (Gd 8 false 1 2 3 0 9), .add (Gd 0 true 1 2 3 0 9), .fadd (Gd 0 true 1 2 3 0 0),
    .add (Cg ⟨0, 4, true, false⟩ 1 2 3 0 9), .fadd (Cg ⟨0, 4, false, false⟩ 1 2 3 0 0), .fadd (Cg ⟨32, 4, true, false⟩ 1 2 3 0 0),
    .add (Cg ⟨0, 64, false, false⟩ 1 2 3 0 9),
    .add { Cg ⟨0, 4, false, false⟩ 1 2 3 0 9 with guard := 2 }].all (fun i => !i.wf) = true := by decide +kernel

/-- Types (R57): one an entry does not list; one that is none; a type where an entry has none. -/
theorem test_wf_types : [Instr.add (F 1 2 3 0 0), .add (F 1 2 3 0 17), .fadd (F 1 2 3 0 8), .mpush (F 0 0 5 0 9),
    .lea (F 1 2 3 4 9)].all (fun i => !i.wf) = true := by decide +kernel

/-- Modifiers of each class (R56): a variant, a rounding, `.sat`, a condition, an order, a scope, an opt bit. -/
theorem test_wf_modifiers : [Instr.add (F 1 2 3 0 0x1009), .fmin (F 1 2 3 0 0x20), .fadd (F 1 2 3 0 0x80),
    .div (F 1 2 3 0 0x109), .cmp (F 0x21 2 3 0 0xC9), .icmp (F 0x21 2 3 0 0xC8), .sld (F 1 2 0 0 0x20D), .sst (F 1 2 0 0 0x10D),
    .sld (F 1 2 0 0 0xCD), .mpush (F 0 0 5 0 0x20), .zcopy (F 2 3 0 1 0x40)].all (fun i => !i.wf) = true := by decide +kernel

/-- Fields (R60, R61): an unused one set; an s register above 63; an odd pair of a 64-bit type; a predicate above p15; a pair
of one predicate; a control pair above c7; a number out of range; an undefined special source; a literal without one. -/
theorem test_wf_fields : [Instr.add (F 1 2 3 1 9), .add (F 64 2 3 0 9), .add (F 1 64 3 0 9), .iadd (F 3 4 6 0 9),
    .pand (F 16 1 1 0 0), .pand (F 1 16 1 0 0), .icmp (F 0x22 2 3 0 8), .cmp (F 0x29 2 3 0 9), .sel (F 1 2 3 8 9),
    .vany (F 8 0 3 0 0), .ballot (F 3 0 1 0 15), .add (F 1 0x20 3 0 0x209), .add (F 1 5 3 0 0x209), .add (F 1 0x10 3 0 0x209), .iadd (L 2 4 8 0 0x406 0x100), .add (F 1 8 3 0 0x209),
    .attnStep (F 254 4 6 8 0)].all (fun i => !i.wf) = true := by decide +kernel

/-- Conditions of single rows of the control stream (R64, R112, R173, R179–R199, R288, R314–R344, R360–R410). -/
theorem test_wf_rows_control : [Instr.ldi (F 1 2 0 0 9), .ldiHi (F 1 8 0 0 0x1200), .br (F 0 0 0 0 0), .br (L 0 0 0 0 0 2),
    .bc (L 0 1 2 0 0xC9 8), .brv (L 0 0 1 4 0 8), .loopTo (L 0 0 0 0 0 8), .vrun (L 4 1 2 0 0xA0 8), .vrun (L 62 1 2 0 0x60 8),
    .bqrd (F 1 2 0 3 0x2E), .semw (F 0 1 2 0 0x100), .sems (F 0 1 0 0 0xC0), .sld (F 1 2 3 0 13), .sld (L 1 2 0 4 13 8),
    .sld (F 1 2 0 0 0x40D), .sld (F 1 2 0 0 0x100D), .satomCas (F 1 2 0 63 15), .fenceCtrl (F 0 0 0 0 0x400),
    .trapTo (F 0 3 0 0 0x20), .csrr (F 1 0x13 0 0 0), .csrw (F 0 9 1 2 0), .ldw (F 0 63 0 4 1), .ldw (F 0 4 0 4 0x5),
    .ldw (F 0 4 0 4 0x41), .ldw (F 0 4 0 0 0x106), .mma (F 3 7 0 0 0x121), .mma (F 3 63 0 0 1), .mma (F 3 7 0 4 1),
    .mmaSr (F 3 7 0 0 0x3002), .mmaSr (F 3 7 0 0 0x100E), .zclr (F 3 0 0 0 0x60), .zclrPin (F 3 0 0 5 0x820),
    .zclrUnpin (F 3 0 0 0 0x40), .zdrain (F 0 3 6 8 0x21), .chanPush (F 0 1 2 3 0x220), .deqPush (F 1 2 3 0 0x20),
    .deqPushReset (F 1 2 3 0 0), .deqStealRun (F 1 2 0 0 0x20), .deqStealDone (F 1 2 0 0 0x40), .deqStealClaim (F 1 2 0 0 0x20),
    .tstat (F 1 0 0 0 0xA0), .rast (F 1 2 3 4 0x60), .allred (F 1 2 3 4 0x60), .mgrpBind (F 1 2 3 4 0),
    .tspanRefill (F 1 0 0 0 0)].all (fun i => !i.wf) = true := by decide +kernel

/-- Conditions of single rows of the vector stream (R216–R229, R254, R269, R288, R366–R369). -/
theorem test_wf_rows_vector : [Instr.cvt (F 2 4 0 0 0), .cvt (F 2 4 0 5 0), .cvt (F 2 4 0 17 0), .pack (F 2 4 6 0 0x1001),
    .pack (F 2 4 6 0 0x27), .unpack (F 2 4 0 2 1), .unpack (F 2 4 0 0 0x1001), .qnt (F 2 4 6 8 3), .qnt (F 2 4 0 8 0x105),
    .movk (F 2 8 0 0 0x20E), .movk (F 2 5 0 0 14), .redLanes (F 2 4 0 3 0), .redLanes (F 2 4 0 0 14), .redLanes (F 2 4 0 1 0x20),
    .adamw (F 2 4 2 8 0), .adamw (F 2 4 6 2 0), .adamw (F 2 4 6 6 0), .ldG (F 2 5 0 0 0), .ldG (F 2 8 0 0 0x1000),
    .ldG (L 2 4 0 1 0 8), .ldG (F 2 4 1 0 0), .atomAdd (F 2 4 1 6 8), .atomCas (F 2 4 0 255 14), .mcastSt (F 20 4 20 8 0xAE),
    .fenceVec (Gd 3 false 0 0 0 0 0), .zcopy (F 2 3 0 1 0x21), .zcopy (F 3 3 0 1 16), .zcopy (F 2 3 0 0 0),
    .tckpt (F 0 4 0 0 0x2E), .tckptGet (F 2 0 0 16 0x2E), .tex (F 2 4 6 253 0), .bary (F 2 4 6 8 0x220),
    .bary (F 254 4 6 8 0), .bary (F 2 4 6 8 0x800)].all (fun i => !i.wf) = true := by decide +kernel

/-- Short forms, clause headers, and steps that name what does not exist (R53, R68, R76; R87, R119, R391, R421). -/
theorem test_wf_others : [Instr.addI64Short ⟨64, 1, 1⟩, .sarI64Short ⟨1, 64, 1⟩, .movB64Short ⟨1, 2, 3⟩, .movB32Short ⟨1, 2, 3⟩,
    .clauseHeader ⟨0, 15, 15, 0⟩, .clauseHeader ⟨1, 12, 15, 0⟩, .clauseHeader ⟨1, 15, 14, 0⟩, .create 256 0, .hang 0 49152,
    .queueEnable 0 16 0, .tailAdvance 256 0, .portEnable 16, .matrixReset 1536 0, .barrierTimeout 49152,
    .readyBitSet 32].all (fun i => !i.wf) = true := by decide +kernel

/-- The decoder refuses by name (R51, R55, R67, R68, R73–R77). -/
theorem test_decode_refuses :
    decode false [] = .error .short ∧ decode false [0x08140005] = .error .short ∧ decode false [0x0000008A, 0x0040100E] = .error .short ∧
    decode false [0x0000061D, 0] = .error .opcode ∧ decode false [0x00000030] = .error .opcode ∧
    decode true [0x08140005, 0x0012000C] = .error .opcode ∧ decode true [0x24202804] = .error .opcode ∧
    decode false [0x08140005, 0x8012000C] = .error .reserved ∧ decode false [0x08140006, 0x8012000C, 0x00010000] = .error .reserved ∧
    decode false [0x11194027] = .error .reserved ∧ decode true [0x01194027] = .error .header ∧
    decode false [0x08140005, 0x0000000C] = .error .field ∧ decode false [0x0000043C] = .error .field := by decide +kernel

/-- The manual's own examples beyond those of O60. -/
theorem test_decode_examples :
    decode false [0x0C1400C2, 0x00800004, 0x00012340] = .ok (.vrun (L 10 6 2 0 0x40 0x12340), 3) ∧
    decode true [0x10285965, 0x00100400] = .ok (.scanLanes (Gd 5 false 20 8 0 2 8), 2) := by decide +kernel

/-! ### One step on a small state

A state holds one wave, number 0, in gang 1 of kernel 1 of context 0; its page table maps virtual 0 to 0xFFF to frame 0x5000
of device memory, readable and writable, and 0x1000 to 0x1FFF to frame 0x6000, readable and executable (R326). -/

/-- A wave of a width at work; its vector side inside a block over some lanes. -/
def wv (width : Nat) : Wave := { st := .running, id := { ctx := 0, kern := 1, gang := 1, width, spillsz := 8192 } }
def inBlock (w : Wave) (mask : W64) : Wave :=
  { w with vec := { w.vec with block := some { site := 0x100, base := 0x200, len := 40, at_ := 0, iter := 0, trip := 1, mask, span := none } } }

/-- Registers given as lists. -/
def withS (w : Wave) (l : List (Nat × W64)) : Wave := l.foldl (fun w e => w.setS e.1 e.2) w
def withV (w : Wave) (l : List (Nat × List W32)) : Wave :=
  l.foldl (fun w e => e.2.zipIdx.foldl (fun w x => w.setV e.1 x.2 x.1) w) w

/-- That page table, and bytes of the first page and after, in ascending order. -/
def pageTable : Mem := [(0, 1), (1, 0x10), (0x1000, 1), (0x1001, 0x20), (0x2000, 1), (0x2001, 0x30), (0x3000, 1), (0x3001, 0x40),
  (0x4000, 0x0F), (0x4001, 0x50), (0x4008, 0x17), (0x4009, 0x60)]
def pageMem (l : List (Nat × Nat × Nat)) : Mem :=
  pageTable ++ (l.flatMap fun e => cellsOf (0x5000 + e.1) e.2.1 e.2.2).filter fun c => c.2 ≠ 0

/-- One leaf of 1 GiB in its place: every virtual address is its own frame's. -/
def bigPage : Mem := [(0, 1), (1, 0x10), (0x1000, 1), (0x1001, 0x20), (0x2000, 0x0F)]

def world (w : Wave) (l : List (Nat × Nat × Nat)) : State := { State.reset with
  mem := pageMem l
  waves := [(0, w)]
  ctxs := [(0, { st := .running, pairs := [0], ways := [0], pcgroups := [0] })]
  kernels := [(1, { st := .running, ctx := 0, desc := { width := w.id.width, regs := 64 }, placed := 1 })]
  gangs := [(1, { st := .granted, granted := true, ctx := 0, kern := 1, waves := [0], starts := [(0, 1)] })] }

/-- What a step leaves, read from the state after it. -/
def gives {α : Type} [DecidableEq α] (r : Host.Outcome State Fault Refusal) (f : State → α) (x : α) : Bool :=
  match r with
  | .next t => decide (f t = x)
  | _ => false

def oneWave (w : Wave) : State := world w []

/-- Wrapping and `.sat` at the largest i64; `mulh` of i and n types; `div` of the most negative i32 by −1 (R172). -/
theorem test_control_integer :
    let s := oneWave (withS (wv 32) [(1, 0x7FFFFFFFFFFFFFFF), (2, 1), (3, 0xFFFFFFFFFFFFFFFF), (4, 0x80000000)])
    gives (exec (.add (F 5 1 2 0 9)) s) (·.me.getS 5) 0x8000000000000000 = true ∧
    gives (exec (.add (F 5 1 2 0 0x109)) s) (·.me.getS 5) 0x7FFFFFFFFFFFFFFF = true ∧
    gives (exec (.sub (F 5 2 3 0 9)) s) (·.me.getS 5) 2 = true ∧
    gives (exec (.mulh (F 5 3 3 0 9)) s) (·.me.getS 5) 0 = true ∧
    gives (exec (.mulh (F 5 3 3 0 13)) s) (·.me.getS 5) 0xFFFFFFFFFFFFFFFE = true ∧
    gives (exec (.div (F 5 4 3 0 8)) s) (·.me.getS 5) 0xFFFFFFFF80000000 = true ∧
    gives (exec (.rem (F 5 4 3 0 8)) s) (·.me.getS 5) 0 = true := by decide +kernel

/-- A shift of the width, and an arithmetic one; a field at the top; the count of a zero (R171, R175, R176). -/
theorem test_control_bits :
    let s := oneWave (withS (wv 32) [(1, 0x80000000000000F1), (2, 64), (3, 60), (4, 8)])
    gives (exec (.shl (F 5 1 2 0 15)) s) (·.me.getS 5) 0 = true ∧
    gives (exec (.sar (F 5 1 2 0 9)) s) (·.me.getS 5) 0xFFFFFFFFFFFFFFFF = true ∧
    gives (exec (.bfx (F 5 1 3 4 9)) s) (·.me.getS 5) 0xFFFFFFFFFFFFFFF8 = true ∧
    gives (exec (.clz (F 5 0 0 0 14)) s) (·.me.getS 5) 32 = true ∧
    gives (exec (.andn (F 5 1 3 0 15)) s) (·.me.getS 5) 0x80000000000000C1 = true := by decide +kernel

/-- `jr s5, s5` reads its target before it writes its link; `loop` entered at 0 wraps and branches (R179). -/
theorem test_flow :
    let s := oneWave (withS (wv 32) [(5, 0x40)])
    gives (exec (.jr (F 5 5 0 0 0)) s) (fun t => (t.me.ctl.pc, t.me.getS 5)) (0x40, 8) = true ∧
    gives (exec (.loopTo (L 0 6 0 0 0 0x20)) s) (fun t => (t.me.ctl.pc, t.me.getS 6)) (0x20, 0xFFFFFFFFFFFFFFFF) = true ∧
    gives (exec (.call (L 0 0 0 0 0 0x100)) s) (fun t => (t.me.ctl.pc, t.me.getS 63)) (0x100, 12) = true := by decide +kernel

/-- Loads extend by type, stores write their bytes, an atomic returns the old value (R197). -/
theorem test_scalar_memory :
    let s := world (withS (wv 32) [(1, 0x10), (2, 0xABCD)]) [(0x10, 8, 0xFFFFFFFF80000001)]
    gives (exec (.sld (F 5 1 0 0 8)) s) (·.me.getS 5) 0xFFFFFFFF80000001 = true ∧
    gives (exec (.sld (F 5 1 0 0 12)) s) (·.me.getS 5) 0x80000001 = true ∧
    gives (exec (.sst (F 2 1 0 0 11)) s) (fun t => (t.mem.readNat 0x5010 2, t.mem.readNat 0x5012 2)) (0xABCD, 0x8000) = true ∧
    gives (exec (.satomInc (F 5 1 0 2 12)) s) (fun t => (t.me.getS 5, t.mem.readNat 0x5010 4)) (0x80000001, 0) = true := by
  decide +kernel

/-- A trap with a handler: cause, addresses, the frame, and the return (R106, R113, R107). -/
theorem test_trap :
    let w := withS (wv 32) [(1, 7)]
    let s := oneWave { w with trap := { w.trap with handler := 0x80 } }
    gives (exec (.div (F 5 1 0 0 9)) s) (fun t => (t.me.ctl.pc, t.me.trap.cause, t.me.prol.readNat 0xD88 8, t.me.trap.epc))
      (0x80, 0x40B, 7, 0) = true ∧
    gives (exec (.trapTo (F 0 1 0 0 0)) s) (fun t => (t.me.trap.cause, t.me.trap.info0, t.me.trap.epc)) (0x40D, 7, 8) = true := by
  decide +kernel

/-- The example of R42 and R43: lanes 0–3 hold 1, 1, 2²⁴, −2²⁴. -/
theorem test_red_and_scan :
    let s := oneWave (inBlock (withV (wv 16) [(8, [0x3F800000, 0x3F800000, 0x4B800000, 0xCB800000])]) 0xF)
    gives (exec (.redLanes (F 20 8 0 0 0)) s) (fun t => [0, 1, 2, 3].map (t.me.getV 20 ·))
      [0x40000000, 0x40000000, 0x40000000, 0x40000000] = true ∧
    gives (exec (.scanLanes (F 21 8 0 0 0)) s) (fun t => [0, 1, 2, 3, 4].map (t.me.getV 21 ·))
      [0x3F800000, 0x40000000, 0x4B800000, 0x40000000, 0] = true := by decide +kernel

/-- The example of R225: `match.b32` over lanes 0–5. -/
theorem test_match :
    let s := oneWave (inBlock (withV (wv 16) [(4, [0, 0x80000000, 0x7FC00000, 0x7FC00001, 0, 0x7FC00000])]) 0x3F)
    gives (exec (.matchLanes (F 12 4 0 0 14)) s) (fun t => [0, 1, 2, 3, 4, 5, 7].map (t.me.getV64 12 ·))
      [0x11, 0x02, 0x24, 0x08, 0x11, 0x24, 0] = true := by decide +kernel

/-- The example of R220: scale byte 0x5F, sources 1.25, −0.2, 9 and −0.1; and that of R26 the other way. -/
theorem test_q4 :
    let s := oneWave (inBlock (withV (wv 16) [(4, [0x3FA00000, 0xBE4CCCCD, 0x41100000, 0xBDCCCCCD]),
      (6, [0x5F, 0x5F, 0x5F, 0x5F]), (8, [7, 7, 7, 7]), (10, [0x63, 0x63, 0x63, 0x63])]) 0xF)
    gives (exec (.qnt (F 12 4 0 6 5)) s) (fun t => [0, 1, 2, 3].map (t.me.getV 12 ·)) [4, 9, 7, 0] = true ∧
    gives (exec (.dqnt (F 12 8 0 10 5)) s) (fun t => t.me.getV 12 0) 0x42400000 = true := by decide +kernel

/-- The first two rows of the example of R229: β₂ = 0.999, c₂ = 1, λ = 0; a stored second moment is never negative. -/
theorem test_adamw :
    let k (l h : W32) : W64 := h ++ l
    let w := withV (wv 16) [(2, [0x40000000, 0x40000000]), (4, [0, 0]), (6, [0, 0x3F800000]), (8, [0, 0x80000001])]
    let s := oneWave (inBlock { w with vec := { w.vec with
      k := [(0, k 0x3F666666 0x3F7FBE77), (1, k 0x3F800000 0), (2, k 0 0), (3, k 0x3F800000 0x3F800000)] } } 0x1)
    gives (exec (.adamw (F 2 4 6 8 0)) s) (fun t => (t.me.getV 2 0, t.me.getV 6 0, t.me.getV 8 0)) (0x40000000, 0, 0) = true ∧
    (adamwLane (k 0x3F666666 0x3F7FBE77) (k 0x3F800000 0) (k 0x3F800000 0) (k 0x3F800000 0x3F800000) 0x40000000 0 0
      0x80000001).2.1 = 0 := by decide +kernel

/-- The example of R40: one bf16 K-block whose sticky bit decides the tie; and its f32 reading. -/
theorem test_product_example :
    let x := [0x4980, 0x3F80, 0x3D00].map fmtBf16.decode
    mmaEntry .plain (F 0 0 0 0 2) 0 x x = 0x538000000001 ∧
    fmtF32.encode rne false (fmtAx48.decode 0x538000000001) = 0x53800000 := by decide +kernel

/-- The examples of R45 (three ordered adds), R147 (a key), R234 (a home) and R413 (a collective in either order). -/
theorem test_examples_of_memory :
    [0x3F800000, 0x3F800000, 0x4B800000].foldl (fun m x => addWord m (fmtF32.decode x)) 0 = 0x4B800001 ∧
    ({ wv 32 with id := { (wv 32).id with phase := 1, task := 5, inWg := 1 } } : Wave).addKey 5 2 = 0x0100000511400002 ∧
    homeOf (List.range 96) 0x1234567000 = (28, 2) ∧
    combineElement .add .f32 [0x4B800000, 0x3F800000, 0x3F800000] = 0x4B800000 ∧
    combineElement .add .f32 [0x3F800000, 0x3F800000, 0x4B800000] = 0x4B800001 := by decide +kernel

/-- The example of R266: three lanes of one `atom.add.f32` on one word. -/
theorem test_atom_lanes :
    let s := oneWave (inBlock (withV (wv 16) [(4, [0x100, 0x100, 0x100]), (6, [0x4B800000, 0x3F800000, 0x3F800000])]) 0x7)
    gives (exec (.atomAdd (F 20 4 0 6 0)) s) (fun t => ([0, 1, 2].map (t.me.getV 20 ·), t.mem.readNat 0x5100 4))
      ([0, 0x4B800000, 0x4B800000], 0x4B800000) = true := by decide +kernel

/-- Special cases of Table 2.5. -/
theorem test_functions :
    f32Rcp 0x80000000 = 0xFF800000 ∧ f32Rsq 0x80000000 = 0xFF800000 ∧ f32Log2 0x41000000 = 0x40400000 ∧
    f32Sinpi 0xC0000000 = 0x80000000 ∧ f32Cospi 0x3F000000 = 0 ∧ f32Exp2 0xFF800000 = 0 ∧ f32Exp2 0x40400000 = 0x41000000 := by
  decide +kernel

/-! ### States that meet the hypotheses of the statements

One theorem for each statement, or clause of it: the hypotheses hold together on a small state. -/

/-- The answer of a check, read back as an equation. -/
def okIs {α : Type} [DecidableEq α] (r : Eff α) (x : α) : Bool :=
  match r with
  | .ok y => decide (y = x)
  | .error _ => false

/-- The answer of a check holds of what it found. -/
def okAny {α : Type} (r : Eff α) (p : α → Bool) : Bool :=
  match r with
  | .ok x => p x
  | .error _ => false

theorem of_ok {α : Type} [DecidableEq α] {r : Eff α} {x : α} (h : okIs r x = true) : r = .ok x := by
  cases r with
  | ok y => simp only [okIs, decide_eq_true_eq] at h; rw [h]
  | error e => simp [okIs] at h

def isOk {α : Type} (r : Eff α) : Bool :=
  match r with
  | .ok _ => true
  | .error _ => false

theorem exists_ok {α : Type} {r : Eff α} (h : isOk r = true) : ∃ x, r = .ok x := by
  cases r with
  | ok y => exact ⟨y, rfl⟩
  | error e => simp [isOk] at h

/-- A control stream with some registers, and the same with one part changed. -/
def ctl0 : Wave := withS (wv 32) [(1, 0x10), (2, 3), (3, 0x20), (4, 0x7FFFFFFFFFFFFFFF)]
def sc : State := oneWave ctl0
def scWith (f : Ctl → Ctl) : State := oneWave { ctl0 with ctl := f ctl0.ctl }

theorem meets_IntegerResultsOfTable82 : ∃ op r, integerRow (.div (F 5 1 2 0 9)) = some (F 5 1 2 0 9, op) ∧
    ctlReady sc (.div (F 5 1 2 0 9)) = true ∧ op 64 (valOf .i64 (srcX sc.me (F 5 1 2 0 9) .i64))
      (valOf .i64 (srcY sc.me (F 5 1 2 0 9) .i64)) = some r :=
  ⟨_, _, rfl, by decide +kernel, rfl⟩

theorem meets_BitResultsOfTable82 :
    (∃ op, bitwiseRow (.andn (F 5 1 2 0 15)) = some (F 5 1 2 0 15, op)) ∧ (Instr.andn (F 5 1 2 0 15)).wf = true ∧
    ctlReady sc (.andn (F 5 1 2 0 15)) = true ∧
    (∃ op, shiftRow (.shl (F 5 1 4 0 15)) = some (F 5 1 4 0 15, op)) ∧ (Instr.shl (F 5 1 4 0 15)).wf = true ∧
    ctlReady sc (.shl (F 5 1 4 0 15)) = true :=
  ⟨⟨_, rfl⟩, by decide +kernel, by decide +kernel, ⟨_, rfl⟩, by decide +kernel, by decide +kernel⟩

theorem meets_MovesFieldsAndMachineReads :
    (moveRow sc.me (.lea (F 5 1 2 3 0x200D))).isSome = true ∧ (Instr.lea (F 5 1 2 3 0x200D)).wf = true ∧
    ctlReady sc (.lea (F 5 1 2 3 0x200D)) = true ∧
    (fieldRow sc.me (.bfx (F 5 1 2 3 9))).isSome = true ∧ (Instr.bfx (F 5 1 2 3 9)).wf = true ∧
    ctlReady sc (.bfx (F 5 1 2 3 9)) = true ∧
    (systemRow sc (.csrr (F 5 0x17 0 0 0))).isSome = true ∧ ctlReady sc (.csrr (F 5 0x17 0 0 0)) = true := by decide +kernel

theorem meets_CompareWritesPredicatePair :
    ctlFree sc (.cmp (F 0x21 1 2 0 0x49)) = true ∧ ctlFree sc (.cmp (Gd 3 false 0x21 1 2 0 0x849)) = true ∧
    sc.me.guardTrue (.cmp (Gd 3 false 0x21 1 2 0 0x849)) = false := by decide +kernel

theorem meets_FalseGuardOnlyGoesOn : (Instr.sld (Gd 3 false 5 1 0 0 9)).form? = some (Gd 3 false 5 1 0 0 9) ∧
    (Instr.sld (Gd 3 false 5 1 0 0 9)).vec = false ∧ (∀ g, Instr.sld (Gd 3 false 5 1 0 0 9) ≠ .cmp g) ∧
    ctlFree sc (.sld (Gd 3 false 5 1 0 0 9)) = true ∧ sc.me.guardTrue (.sld (Gd 3 false 5 1 0 0 9)) = false ∧
    sc.me.ctl.brv = none ∧ (∀ g, Instr.brv (Gd 3 false 0 0 1 4 0x20) ≠ .cmp g) ∧
    (Instr.brv (Gd 3 false 0 0 1 4 0x20)).vec = false ∧ ctlFree sc (.brv (Gd 3 false 0 0 1 4 0x20)) = true ∧
    sc.me.guardTrue (.brv (Gd 3 false 0 0 1 4 0x20)) = false :=
  ⟨by decide +kernel, by decide +kernel, (by intro g h; cases h), by decide +kernel, by decide +kernel, by decide +kernel,
    (by intro g h; cases h), by decide +kernel, by decide +kernel, by decide +kernel⟩

theorem meets_ControlTransfers : (flowRow sc.me (.loopTo (L 0 2 0 0 0 8))).isSome = true ∧
    ctlReady sc (.loopTo (L 0 2 0 0 0 8)) = true ∧ (flowRow sc.me (.jr (F 5 1 0 0 0))).isSome = true ∧
    ctlReady sc (.jr (F 5 1 0 0 0)) = true ∧ (flowRow sc.me (.bc (L 0 1 2 0 0x49 8))).isSome = true ∧
    ctlReady sc (.bc (L 0 1 2 0 0x49 8)) = true := by decide +kernel

/-- A wave inside a handler. -/
def scNest : State := oneWave { ctl0 with trap := { ctl0.trap with handler := 0x80, cause := 0x40D, epc := 2 } }

theorem meets_ControlSideTraps :
    (ctlReady sc (.div (F 5 1 0 0 9)) = true ∧ valOf .i64 (srcY sc.me (F 5 1 0 0 9) .i64) = 0) ∧
    (ctlReady sc (.ret (F 0 2 0 0 0)) = true ∧ (sc.me.getS 2).toNat % 4 ≠ 0) ∧
    (ctlReady sc (.eret (F 0 0 0 0 0)) = true ∧ sc.me.ctl.faults = [] ∧ sc.me.nest = false) ∧
    (ctlReady scNest (.eret (F 0 0 0 0 0)) = true ∧ scNest.me.ctl.faults = [] ∧ scNest.me.trap.epc.toNat % 4 ≠ 0) ∧
    (let i := Instr.mpush (F 0 0 5 0 0)
     steers i = true ∧ scNest.me.nest = true ∧ scNest.me.ctl.skip = false ∧ scNest.me.breaksClause i = false ∧
      scNest.me.guardBusy i = false ∧ scNest.me.guardTrue i = true) ∧
    (let i := Instr.mpush (Cg ⟨0, 8, false, false⟩ 0 0 5 0 0)
     let o : PendingOp := { uid := 9, site := 0x40, instr := .sld (F 8 1 0 0 9), flag := 2, caps := {}, mark := 0, stamp := 0 }
     let s : State := scNest.modMe fun w => { w with ctl := { w.ctl with ops := [o] } }
     steers i = true ∧ s.me.nest = true ∧ s.me.ctl.skip = false ∧ s.me.breaksClause i = false ∧ s.me.guardBusy i = true) := by
  decide +kernel

theorem meets_ClauseHeaderOpensClause : ctlReady sc (.clauseHeader ⟨63, 15, 0, 0xFFF⟩) = true ∧
    sc.me.ctl.f &&& 0xFFF = 0 ∧ sc.me.firstFault (fun x => (0xFFF : BitVec 12).getLsbD x) = none := by decide +kernel

theorem meets_TokensEnterTheControlQueue : (tokenRow sc.me (.vrun (L 1 2 0 0 0x80 0x40))).isSome = true ∧
    ctlReady sc (.vrun (L 1 2 0 0 0x80 0x40)) = true ∧ (tokenRow sc.me (.bqrd (F 5 2 0 31 14))).isSome = true ∧
    ctlReady sc (.bqrd (F 5 2 0 31 14)) = true ∧ sc.me.ctl.queue.length < 64 ∧ sc.me.ctl.owed.length < 16 ∧
    (let s := scWith fun c => { c with depth := 255 }
     ctlReady s (.mpush (F 0 0 5 0 0)) = true ∧ s.me.ctl.depth = 255) ∧
    ctlReady sc (.melse (F 0 0 0 0 0)) = true ∧ ctlReady sc (.mpop (F 0 0 0 0 0)) = true ∧ sc.me.ctl.depth = 0 := by
  decide +kernel

def scBrv (t a same : W64) : State := scWith fun c => { c with brv := some (.answered t a same 0x40) }

theorem meets_BranchOnVector :
    (ctlReady sc (.brv (L 0 0 1 4 0x20 8)) = true ∧ sc.me.ctl.brv = none ∧ sc.me.ctl.queue.length < 64 ∧
      sc.me.ctl.owed.length < 16) ∧
    (ctlReady (scBrv 0 3 1) (.brv (L 0 0 1 4 0x20 8)) = true ∧ (scBrv 0 3 1).me.ctl.brv = some (.answered 0 3 1 0x40)) ∧
    (ctlReady (scBrv 3 3 3) (.brv (L 0 0 1 4 0x20 8)) = true ∧ (L 0 0 1 4 0x20 8).optBit 0 = true ∧
      (scBrv 3 3 3).me.ctl.brv = some (.answered 3 3 3 0x40)) ∧
    (ctlReady (scBrv 3 3 1) (.brv (L 0 0 1 4 0x20 8)) = true ∧ (scBrv 3 3 1).me.ctl.brv = some (.answered 3 3 1 0x40)) ∧
    ctlReady (scBrv 1 3 3) (.brv (L 0 0 1 0 0 8)) = true := by decide +kernel

def serial0 (lanes : W64) : Serial := { lanes, lane := 2, ret := 0x40, reg := 7, depth := 0 }
def scSerial (lanes : W64) : State := scWith fun c => { c with serial := some (serial0 lanes) }

theorem meets_SerialSections :
    (ctlReady sc (.lser (F 7 0 0 0 0)) = true ∧ sc.me.vecIdle = true ∧ sc.me.ctl.serial = none ∧ sc.me.act ≠ 0) ∧
    (oneWave { ctl0 with vec := { ctl0.vec with masks := [⟨0xF, 0⟩], depth := 1 } }).me.act = 0 ∧
    (ctlReady (scSerial 4) (.lsend (F 0 0 0 0 0)) = true ∧ (scSerial 4).me.ctl.serial = some (serial0 4) ∧
      (serial0 4).depth = (scSerial 4).me.ctl.depth ∧ (4 : W64) &&& ~~~(u64 (2 ^ 2)) = 0) ∧
    (scSerial 4).me.ctl.queue.length < 64 ∧ ctlReady (scSerial 0x24) (.lsend (F 0 0 0 0 0)) = true ∧
    (0x24 : W64) &&& ~~~(u64 (2 ^ 2)) ≠ 0 ∧
    (ctlReady (scSerial 4) (.lser (F 7 0 0 0 0)) = true ∧ (scSerial 4).me.vecIdle = true ∧ (scSerial 4).me.ctl.serial.isSome = true) ∧
    (ctlReady sc (.lsend (F 0 0 0 0 0)) = true ∧ sc.me.ctl.serial = none) ∧
    (let s := scWith fun c => { c with serial := some (serial0 4), depth := 1 }
     ctlReady s (.lsend (F 0 0 0 0 0)) = true ∧ (serial0 4).depth ≠ s.me.ctl.depth) := by decide +kernel

/-- The vector side with one token at hand. -/
def tok (k : Token) (f : Vec → Vec := id) : State := oneWave { ctl0 with ctl := { ctl0.ctl with queue := [k] }, vec := f ctl0.vec }
def level0 : MaskLevel := ⟨0xFF, 0x0F⟩

theorem meets_TokensTaken_vrun :
    let s (trip : Nat) (h : Nat) : State :=
      { tok (.vrun 0 0x1000 trip 0 false [] none) with mem := pageMem [(0x1000, 4, h)] }
    tokenFree (s 0 0x2B).me = true ∧ (s 0 0).me.ctl.queue = [.vrun 0 0x1000 0 0 false [] none] ∧
    okIs ((s 1 0x2B).fetchParcel ((s 1 0x2B).ctxOf (s 1 0x2B).me) 0x1000) 0x2B = true ∧
    (0x2B : W32).extractLsb' 0 2 = 3 ∧ (0x2B : W32).extractLsb' 14 18 = 0 ∧ ((0x2B : W32).extractLsb' 2 12).toNat ≠ 0 ∧
    okIs ((s 1 3).fetchParcel ((s 1 3).ctxOf (s 1 3).me) 0x1000) 3 = true ∧
    okIs ((s 1 4).fetchParcel ((s 1 4).ctxOf (s 1 4).me) 0x1000) 4 = true ∧ (4 : W32).extractLsb' 0 2 ≠ 3 := by decide +kernel

theorem meets_TokensTaken_masks :
    let deep (n : Nat) (v : Vec) : Vec := { v with masks := List.replicate (min n 16) level0, depth := n }
    (tokenFree (tok (.mpush 0 3)).me = true ∧ (tok (.mpush 0 3)).me.vec.masks.length < 16) ∧
    ((tok (.mpush 0 3) (deep 16)).me.vec.masks.length = 16 ∧ tokenFree (tok (.mpush 0 3) (deep 16)).me = true ∧
      (tok (.mpush 0 3) (deep 16)).me.stq = [] ∧ arrived (tok (.mpush 0 3) (deep 16)) = true ∧
      okAny ((tok (.mpush 0 3) (deep 16)).spillTargets { needStore with peer := false }
        ((tok (.mpush 0 3) (deep 16)).me.spillAddr 1)) (fun p => match p with
          | (.dev a, .dev b) => decide (a + 8 ≤ b)
          | _ => false) = true) ∧
    ((tok (.melse 0) (deep 1)).me.vec.masks = [level0] ∧ tokenFree (tok (.melse 0) (deep 1)).me = true) ∧
    ((tok (.mpop 0) (deep 1)).me.vec.depth ≤ 16 ∧ tokenFree (tok (.mpop 0) (deep 1)).me = true) ∧
    (16 < (tok (.mpop 0) (deep 17)).me.vec.depth ∧ (tok (.mpop 0) (deep 17)).me.stq = [] ∧
      arrived (tok (.mpop 0) (deep 17)) = true ∧
      okAny ((tok (.mpop 0) (deep 17)).spillTargets { needLoad with peer := false } ((tok (.mpop 0) (deep 17)).me.spillAddr 1))
        (fun p => isOk ((tok (.mpop 0) (deep 17)).readAt p.1 8) && isOk ((tok (.mpop 0) (deep 17)).readAt p.2 8)) = true) ∧
    tokenFree (tok (.serial 0 none)).me = true := by decide +kernel

theorem meets_TokensTaken_requests :
    tokenFree (tok (.vany 0 3)).me = true ∧ tokenFree (tok (.vall 0 3)).me = true ∧
    (tokenFree (tok (.bqrd 0 4 none .b64)).me = true ∧ (tok (.bqrd 0 4 none .b64)).ackPending [4] = false ∧
      regsIn (tok (.bqrd 0 4 none .b64)) [4, 5] = true ∧ (tok (.bqrd 0 4 none .b64)).dv.bad = []) ∧
    (tokenFree (tok (.brv 0 0x40 3 (some 63))).me = true ∧ (tok (.brv 0 0x40 3 (some 63))).ackPending [63] = false ∧
      regsIn (tok (.brv 0 0x40 3 (some 63))) [63] = true ∧ (tok (.brv 0 0x40 3 (some 63))).dv.bad = []) ∧
    (∀ a o, (a, o) ∈ [(Answer.pred true, Owed.pred 3), (.scalar 5, .scalar 9), (.brv 1 1 1 0x40, .brv)] →
      tokenFree (oneWave { ctl0 with ctl := { ctl0.ctl with owed := [o] }, vec := { ctl0.vec with back := [a] } }).me = true) :=
  ⟨by decide +kernel, by decide +kernel, by decide +kernel, by decide +kernel, fun _ _ _ => rfl⟩

def scHandler : State := oneWave { ctl0 with trap := { ctl0.trap with handler := 0x80 } }

theorem meets_TrapEntersHandler : (scHandler.waves.get 0).trap.handler ≠ 0 ∧ (scHandler.waves.get 0).nest = false ∧
    (rep divide 0 0).code < 256 ∧ (scHandler.waves.get 0).stq = [] := by decide +kernel

theorem meets_TrapWithoutHandlerAbortsKernel :
    ((sc.waves.get 0).trap.handler = 0 ∧ (sc.kernels.get (sc.waves.get 0).id.kern).st = .running) ∧
    ((scNest.waves.get 0).nest = true ∧ (scNest.kernels.get (scNest.waves.get 0).id.kern).st = .running) := by decide +kernel

theorem meets_TrapInstructionTakesTrap : ctlReady sc (.trapTo (F 0 1 0 0 0)) = true ∧
    ctlReady sc (.trapTo (F 0 0 0 0 0x3FE0)) = true := by decide +kernel

theorem meets_HandlerReturn :
    let s := oneWave { ctl0 with trap := { ctl0.trap with cause := 0x40D, epc := 0x40 } }
    ctlReady s (.eret (F 0 0 0 0 0)) = true ∧ s.me.nest = true ∧ s.me.ctl.faults = [] ∧ s.me.trap.epc.toNat % 4 = 0 ∧
      s.dv.bad = [] := by
  decide +kernel

theorem meets_StateRegisterAndCrewWrites :
    (ctlReady sc (.csrw (F 0 9 0 1 0)) = true ∧ (F 0 9 0 1 0).csr ∈ (csrRow sc).map Prod.fst) ∧
    ctlReady (oneWave (withS (wv 32) [(1, 1), (2, 7)])) (.crew (F 0 1 0 0 0)) = true ∧
    crewOk 0 1 0 = true ∧ crewOk 7 1 0 = false := by decide +kernel

theorem meets_GrantYieldFenceAndExit :
    let s : State := { sc with gangs := [(1, { sc.gangs.get 1 with st := .resident, granted := false })] }
    let big : State := { s with kernels := [(1, { s.kernels.get 1 with desc := { (s.kernels.get 1).desc with tiles := 300 } })] }
    (ctlReady sc (.acq (F 0 0 0 0 0)) = true ∧ (sc.gangOf sc.me).granted = true) ∧
    (ctlReady s (.acq (F 0 0 0 0 0)) = true ∧ (s.gangOf s.me).granted = false ∧
      (s.gangOf s.me).cores.findSome? (fun c => overPool (s.demand (s.gangOf s.me) c) grantable) = none) ∧
    (ctlReady big (.acq (F 0 0 0 0 0)) = true ∧ (big.gangOf big.me).granted = false ∧
      ((big.gangOf big.me).cores.findSome? (fun c => overPool (big.demand (big.gangOf big.me) c) grantable)).isSome = true) ∧
    (ctlReady sc (.yield (F 0 0 0 0 0)) = true ∧ sc.me.ctl.faults = []) ∧
    (ctlReady sc (.fenceCtrl (F 0 0 0 0 0x360)) = true ∧ sc.me.ctl.ops.any PendingOp.memory = false ∧ sc.me.ctl.faults = [] ∧
      settled sc = true ∧
      (F 0 0 0 0 0x360).releases = true ∧ sc.outstanding sc.cur = false) ∧
    ctlReady sc (.exitWave (F 0 0 0 0 0)) = true ∧ sc.me.vecIdle = true ∧ sc.me.ctl.ops = [] ∧ sc.me.losses = [] ∧
    sc.bufferOwes sc.cur = false := by decide +kernel

/-- Element 0 of an access, at a virtual and a device address. -/
def at0 (va pa : Nat) : Element := (0, va, .dev pa)

theorem meets_SemaphoreWords :
    let s : State := world (withS (wv 32) [(1, 0x40), (2, 3), (3, 9)]) [(0x40, 8, 5)]
    okIs (s.checkSem (F 0 1 2 0 0)) (at0 0x40 0x5040) = true ∧ s.dv.bad = [] ∧ scalarsDone s = true ∧
    s.outstanding s.cur = false ∧ ctlReady s (.sems (F 0 1 2 0 0)) = true ∧
    settled s = true ∧ ctlReady s (.semw (F 0 1 2 0 0)) = true ∧ s.sems.get 0x5040 = [] ∧
    s.me.semCount (F 0 1 2 0 0) ≤ s.mem.readNat 0x5040 8 ∧ okIs (s.checkSem (F 0 1 3 0 0)) (at0 0x40 0x5040) = true ∧
    ctlReady s (.semw (F 0 1 3 0 0)) = true ∧ s.mem.readNat 0x5040 8 < s.me.semCount (F 0 1 3 0 0) ∧ arrived s = true ∧
    (at0 0x40 0x5040).isPeer = false ∧ ctlReady s (.sems (F 0 1 2 0 0xA0)) = true ∧ (F 0 1 2 0 0xA0).optBits 2 0 = 5 ∧
    s.me.semCount (F 0 1 0 0 0) = 0 := by decide +kernel

/-- Page 0x3000 is the window of package 5's frame 0x8000; a port is up. -/
def withPeer (s : State) : State :=
  { s with
    mem := s.mem.putAll [(0x4018, 0x2F), (0x4019, 0x80), (0x401E, 0x50)]
    fab := { s.fab with set := true, pkg := 4, ports := [(0, { st := .up, enable := true })] } }

/-- The request of the control instruction at hand has been answered. -/
def answered (s : State) (pa : Nat) (a : PeerAnswer) : State := s.modMe fun w => { w with
  remote := [{ id := 3, owner := 0, lane := 0, site := w.ctl.pc, pkg := 5, pa, stamp := 0, answer := some a }] }

theorem meets_SemaphoreWords_peer :
    let s := withPeer (oneWave (withS (wv 32) [(1, 0x3040), (2, 3)]))
    let f := F 0 1 2 0 0
    let a := answered s 0x8040 .done
    okIs (s.checkSem f) (0, 0x3040, .peer 5 0x8040) = true ∧ s.dv.bad = [] ∧ scalarsDone s = true ∧ s.routed 5 = true ∧
    s.me.remote = [] ∧ settled s = true ∧ ctlReady s (.sems f) = true ∧ ctlReady s (.semw f) = true ∧
    s.outstanding s.cur = false ∧ okIs (a.checkSem f) (0, 0x3040, .peer 5 0x8040) = true ∧ a.dv.bad = [] ∧ scalarsDone a = true ∧
    (a.me.remote.find? (fun r => r.owner == 0 && r.lane == 0 && r.site == a.me.ctl.pc)).bind (·.answer) = some .done ∧
    ctlReady a (.sems f) = true ∧ ctlReady a (.semw f) = true := by decide +kernel

/-- The translation caches of context 0 hold the leaves of pages 0 and 1, readable and writable at frames 0x5000 and 0x7000. -/
def cachedPages (s : State) : State := { s with ctxs := [(0, { s.ctxs.get 0 with
  tlbOn := true, tlb := [{ page := 0, lvl := 0, entry := 0x4000, e := 0x500F }, { page := 1, lvl := 0, entry := 0x4008, e := 0x700F }] })] }

theorem walk_cached (s : State) (m : Mem) (c : Ctx) (va : Nat) (h : (c.cached va).isSome = true) :
    ({ s with mem := m } : State).walk c va = s.walk c va := by
  unfold State.walk
  split
  · rfl
  · cases hc : c.cached va with
    | none => simp [hc] at h
    | some l => rfl

/-- Each byte of a run is found in the caches, at its place from `pa`. -/
def cachedRun (s : State) (c : Ctx) (va n pa : Nat) : Bool := (List.range n).all fun k =>
  (c.cached (va + k)).isSome && match s.walk c (va + k) with
    | .leaf (.dev a) p _ => a == pa + k && p.r && p.w
    | _ => false

theorem cachedRun_walk {s : State} {c : Ctx} {va n pa : Nat} (h : cachedRun s c va n pa = true) (m : Mem) (k : Nat) (hk : k < n) :
    ∃ p e, ({ s with mem := m } : State).walk c (va + k) = .leaf (.dev (pa + k)) p e ∧ p.r = true ∧ p.w = true := by
  have h := List.all_eq_true.mp h k (List.mem_range.mpr hk)
  rw [Bool.and_eq_true] at h
  rw [walk_cached s m c (va + k) h.1]
  revert h
  split
  · rename_i a p e he
    rintro ⟨-, h⟩
    simp only [Bool.and_eq_true, beq_iff_eq] at h
    exact ⟨p, e, by rw [he, h.1.1], h.1.2, h.2⟩
  · rintro ⟨-, h⟩
    cases h

theorem deviceFixed_of {s : State} {va n pa : Nat} (h : cachedRun s (s.ctxOf s.me) va n pa = true) : deviceFixed s va n pa :=
  fun m _ k hk => cachedRun_walk h m k hk

theorem arrayAt_of {s : State} {g : Graph} {pa : Nat} (h0 : g.base.toNat + 64 * g.count ≤ 2 ^ 64)
    (h : cachedRun s (s.ctxs.get g.ctx) g.base.toNat (64 * g.count) pa = true) : arrayAt s g pa :=
  ⟨h0, fun m _ k hk => cachedRun_walk h m k hk⟩

/-- Node 0 of an array at 0x100 exists; a template at 0x40 names it, another at 0x200 no node. -/
theorem meets_GraphInstructions :
    let s : State := cachedPages <| world (withS (wv 32) [(1, 0x100), (2, 0x40), (3, 0x200), (5, 1), (6, 2)])
      [(0x40, 8, 4), (0x48, 8, 0xFFFFFFFFFFFF0000), (0x100, 8, 4), (0x208, 8, 2 ^ 64 - 1)]
    let f := F 5 1 2 0 0
    let node (a : Nat) : List Byte := (s.readNode { needLoad with peer := false } a).toOption.getD []
    (ctlReady s (.gnode f) = true ∧ scalarsDone s = true ∧ s.dv.bad = [] ∧ (s.me.getS 1).toNat = 0x100 ∧
      (s.me.getS 5).toNat = 1 ∧ isOk (s.readNode { needLoad with peer := false } (s.me.getS 2).toNat) = true ∧
      templatePreds (node 0x40) = [0] ∧
      (∀ e ∈ [0].zipIdx, e.1 < 1 ∧ okAny (s.readNode needNode (0x100 + 64 * e.1)) (fun b =>
        decide (ofBytesLE ((b.drop 1).take 1) + ([0].take e.2).count e.1 < 8)) = true) ∧
      (s.checkAccess s.cur false { needStore with peer := false } 8 (nodeWords (0x100 + 64 * 1))).toOption.isSome ∧
      0x100 + 64 * 1 + 64 ≤ 2 ^ 64) ∧
    (ctlReady s (.gnode (F 5 1 3 0 0)) = true ∧ isOk (s.readNode { needLoad with peer := false } (s.me.getS 3).toNat) = true ∧
      templatePreds (node 0x200) = []) ∧
    ctlReady s (.grun (F 0 1 6 0 0)) = true ∧ (s.me.getS 6).toNat = 2 ∧ s.outstanding s.cur = false ∧
    okAny (s.checkGlobals (s.ctxOf s.me) needNode 64 ((List.range 2).map fun i => (0, (0x100 + 64 * i) % 2 ^ 64)))
      (fun els => isOk (s.checkLinks (els.map fun e => (e.1, e.2.2)))) = true ∧
    s.lockTurn (lockAsker s.cur false) s.me.id.ctx [mkLock 8 false s.me.id.ctx 0x100 (64 * 2) true (s.uid + 1)] = true := by
  decide +kernel

/-- The array of that template lies in device memory from 0x5100. -/
theorem meets_GraphInstructions_array :
    deviceFixed (cachedPages (world (withS (wv 32) [(1, 0x100), (2, 0x40), (3, 0x200), (5, 1), (6, 2)])
      [(0x40, 8, 4), (0x48, 8, 0xFFFFFFFFFFFF0000), (0x100, 8, 4), (0x208, 8, 2 ^ 64 - 1)])) 0x100 (64 * 1 + 64) 0x5100 :=
  deviceFixed_of (by decide +kernel)

/-- Two waves of one gang; the first at work, members 0 and 1, with the state of one barrier instance. -/
def twoWaves (w : Wave) (key : Nat) (b : Bar) : State :=
  let s := oneWave w
  { s with
    waves := [(0, w), (1, { wv 32 with id := { (wv 32).id with member := 1 } })]
    kernels := [(1, { s.kernels.get 1 with desc := { (s.kernels.get 1).desc with wgwaves := 2 } })]
    gangs := [(1, { s.gangs.get 1 with waves := [0, 1], bars := [(key, b)] })] }

theorem meets_Barriers_gang :
    let w := withS (wv 32) [(1, 3), (2, 2)]
    let s0 := twoWaves w 16 {}
    let s1 := twoWaves w 16 { gen := 4, arrived := [1] }
    let s2 := twoWaves { w with arrival := some { kind := .gang, gen := 4, start := 0, limit := 0 } } 16 { gen := 5 }
    let g := Instr.barGang (F 0 0 0 0 0)
    (barRow s0 g = some (16, 0) ∧ ctlReady s0 g = true ∧ quiet s0 = true ∧ s0.me.arrival = none ∧
      lastToCome s0 16 0 = false) ∧
    (barRow s1 g = some (16, 0) ∧ ctlReady s1 g = true ∧ quiet s1 = true ∧ lastToCome s1 16 0 = true) ∧
    (barRow s2 g = some (16, 0) ∧ ctlReady s2 g = true ∧ quiet s2 = true ∧
      (s2.me.arrival.map (·.gen)) = some 4 ∧ ((s2.gangOf s2.me).bars.get 16).gen = 5) ∧
    (barRow s0 (.barWg (F 0 0 0 0 0))).isSome = true ∧ ctlReady s0 (.barWg (F 0 0 0 0 0)) = true ∧
    barRow (twoWaves w 35 {}) (.barM (F 0 1 0 0 0x60)) = some (35, 3) ∧
    ctlReady (twoWaves w 35 {}) (.barM (F 0 1 0 0 0x60)) = true := by decide +kernel

theorem meets_Barriers_traps :
    let w := withS (wv 32) [(1, 3), (2, 2), (3, 7)]
    let s := twoWaves w 35 { gen := 0, arrived := [1], mask := 2 }
    (∀ a : BitVec 8, a ∈ [1, 2, 3] → ctlReady s (.barM (F 0 a 0 0 0x60)) = true) ∧ quiet s = true ∧ s.me.arrival = none ∧
    (F 0 1 0 0 0x60).optBits 3 0 = 3 ∧ (s.me.getS 2).getLsbD s.me.id.member = false ∧
    s.me.getS 3 &&& memberMask (s.gangOf s.me).waves.length ≠ s.me.getS 3 ∧
    ((s.me.getS 1).getLsbD s.me.id.member = true ∧ s.me.getS 1 &&& memberMask (s.gangOf s.me).waves.length = s.me.getS 1 ∧
      ((s.gangOf s.me).bars.get 35).arrived ≠ [] ∧ ((s.gangOf s.me).bars.get 35).mask ≠ s.me.getS 1) := by decide +kernel

theorem meets_Barriers_dev :
    let w := withS (wv 32) [(1, 0x40)]
    let s (n : Nat) := world w [(0x40, 4, 0), (0x44, 4, 6), (0x48, 4, n)]
    let d := { s 2 with waves := [(0, { w with arrival := some { kind := .dev 0x40 0x5040, gen := 5, start := 0, limit := 0 } })] }
    d.objectNow d.me 0x40 = some 0x5040 ∧
    let i := Instr.barDev (F 5 1 0 0 0)
    (∀ n, n ∈ [1, 2] → ctlReady (s n) i = true ∧ quiet (s n) = true ∧ (s n).dv.bad = [] ∧ (s n).me.arrival = none ∧
      okIs ((s n).checkObject 0x40 false) (at0 0x40 0x5040) = true ∧ (s n).mem.readNat 0x5048 4 = n) ∧
    ((s 1).mem.readNat 0x5040 4 + 1) % 2 ^ 32 = 1 ∧ ((s 2).mem.readNat 0x5040 4 + 1) % 2 ^ 32 ≠ 2 ∧
    ctlReady d i = true ∧ quiet d = true ∧ d.mem.readNat 0x5044 4 ≠ 5 := by decide +kernel

/-- A fabric barrier of job 7 between packages 4 and 5, this one 4. -/
def fb0 (delivered : Nat) : FBar := {
  job := 7, id := 2, frac := 0, need := 0, members := [4, 5], deque := none, cone := [], counts := [], gen := delivered, times := [], releases := [], lags := [], stealable := [], delivered }
def inJob (s : State) (bars : List FBar) : State := { s with
  ctxs := [(0, { s.ctxs.get 0 with jobst := 2, lkjob := 7, job := { num := 7, mirror := [] } })]
  fab := { s.fab with set := true, pkg := 4, fbars := bars } }

def group3 : McGroup := { job := 7, id := 3, lines := 4, members := [
  { pkg := 4, bound := true, revoked := false, window := [0x5000], first := 0, ack := 0x5800 },
  { pkg := 5, bound := true, revoked := false, window := [0x5000], first := 0, ack := 0x5800 }] }

theorem meets_Barriers_fabric :
    let w := withS (wv 32) [(1, 2)]
    let s := inJob (oneWave w) [fb0 0]
    let d := inJob (oneWave { w with arrival := some { kind := .fabric 2, gen := 0, start := 0, limit := 0 } }) [fb0 1]
    (ctlReady s (.fbar (F 5 1 0 0 0)) = true ∧ quiet s = true ∧ s.me.arrival = none ∧ (s.me.getS 1).toNat % 4096 = 2 ∧
      s.fbarOf (s.ctxOf s.me) 2 = some (fb0 0, 0)) ∧
    ctlReady d (.fbar (F 5 1 0 0 0)) = true ∧ quiet d = true ∧ (d.ctxOf d.me).jobst = 2 ∧
    d.fab.fbars.find? (fun b => b.job == (d.ctxOf d.me).job.num && b.id == 2) = some (fb0 1) := by decide +kernel

theorem meets_Channels :
    let s (vs : List W64) : State :=
      { world (withS (wv 32) [(1, 0x40), (2, 9)]) [(0x40, 4, 1)] with chans := [(0x5040, { values := vs })] }
    (∀ vs : List W64, vs ∈ [[], [7]] → ∀ i, i ∈ [Instr.chanPush (F 0 1 2 6 0), .chanPush (F 0 1 2 6 0x20),
        .chanPop (F 5 1 0 6 0), .chanPop (F 5 1 0 6 0x20)] →
      ctlReady (s vs) i = true ∧ quiet (s vs) = true ∧ (s vs).dv.bad = [] ∧ (s vs).me.arrival = none) ∧
    okIs ((s []).checkPages 0x40 (64 + 8 * 1)) () = true ∧ okIs ((s [7]).checkPages 0x40 (64 + 8 * 1)) () = true ∧
    okIs ((s []).checkObject 0x40 false) (at0 0x40 0x5040) = true ∧ okIs ((s [7]).checkObject 0x40 false) (at0 0x40 0x5040) = true ∧
    (s []).mem.readNat 0x5040 4 = 1 ∧ ((s [7]).chans.get 0x5040).waiters = [] := by decide +kernel

/-- A deque of two slots, one filled: the instructions meet it. -/
theorem meets_DequeInstructions :
    let s := world (withS (wv 32) [(1, 0x40), (2, 9)]) [(0x40, 4, 2), (0x44, 4, 1), (0x80, 4, 3), (0x84, 1, 1)]
    let at_ := s.deqPages s.me.id.ctx 0x40 0x5040
    (∀ i, i ∈ [Instr.deqPush (F 5 1 2 0 0), .deqPushReset (F 5 1 0 0 0), .deqPop (F 5 1 0 0 0), .deqStealClaim (F 5 1 0 0 0),
        .deqStealRun (F 5 1 2 0 0), .deqStealDone (F 5 1 2 0 0)] → (dequeRow s.me i).isSome = true ∧ ctlReady s i = true) ∧
    quiet s = true ∧ s.dv.bad = [] ∧ s.me.arrival = none ∧ (∀ peer, okIs (s.checkObject 0x40 peer) (at0 0x40 0x5040) = true) ∧
    s.deqOk at_ = true ∧ okIs (s.checkPages 0x40 (0x40 + 16 * s.deqField at_ 0 4)) () = true := by decide +kernel

theorem meets_DequeInstructions_peer :
    let s := withPeer (oneWave (withS (wv 32) [(1, 0x3040), (2, 9)]))
    let a := answered s 0x8040 (.value 7)
    let i := Instr.deqStealRun (F 5 1 2 0 0)
    (dequeRow s.me i).isSome = true ∧ ctlReady s i = true ∧ quiet s = true ∧ s.me.arrival = none ∧ s.me.remote = [] ∧
    okIs (s.checkObject 0x3040 true) (0, 0x3040, .peer 5 0x8040) = true ∧ s.routed 5 = true ∧ ctlReady a i = true ∧
    quiet a = true ∧ a.me.arrival = none ∧ okIs (a.checkObject 0x3040 true) (0, 0x3040, .peer 5 0x8040) = true ∧
    (a.me.remote.find? (fun r => r.owner == 0 && r.lane == 0 && r.site == a.me.ctl.pc)).bind (·.answer) = some (.value 7) := by
  decide +kernel

/-- A deque at 0x5040 with one slot of three in a state, of thief 5 where it has one, stealable or not, `bottom` given. -/
def deqWith (st bottom stealable : Nat) : State := world (wv 32) [(0x40, 4, 3), (0x44, 4, bottom), (0x4C, 1, stealable),
  (0x84, 1, st), (0x86, 2, if 2 ≤ st then 5 else 0), (0x88, 8, if 2 ≤ st then 99 else 0)]

/-- Each event of Table 13.5 at a slot of the state it needs, and where its condition fails. -/
theorem meets_DequeInstructions_slots :
    let at_ : DeqAt := fun off => 0x5040 + off
    (∀ s, s ∈ [deqWith 0 0 1, deqWith 1 1 1, deqWith 1 3 0, deqWith 2 1 1, deqWith 3 1 1, deqWith 5 3 0] →
      s.deqField at_ 0 4 = 3 ∧ s.deqField at_ 4 4 ≤ 3 ∧ (∀ i, i < 3 → s.leaseOver at_ i = false) ∧
      s.fab.tick + ceilDiv (2 * 20000) (max 1 s.fab.ticklen) < 2 ^ 64) ∧
    (deqWith 1 1 1).deqField at_ 4 4 < 3 ∧ (deqWith 1 3 0).deqField at_ 4 4 = 3 ∧ (slotRow (deqWith 2 1 1) at_ 0).2.1 = 2 ∧
    (slotRow (deqWith 1 1 1) at_ 0).2.1 = 1 ∧ (slotRow (deqWith 3 1 1) at_ 0).2.1 = 3 ∧ (slotRow (deqWith 0 0 1) at_ 0).2.1 = 0 ∧
    ((deqWith 1 3 0).deqField at_ 0x0C 1).testBit 0 = false ∧ ((deqWith 1 1 1).deqField at_ 0x0C 1).testBit 0 = true ∧
    (∀ j, j < 3 → 0 < j → (slotRow (deqWith 1 1 1) at_ j).2.1 ≠ 1) ∧ (slotRow (deqWith 2 1 1) at_ 0).2.2.1 = 4 + 1 ∧
    (slotRow (deqWith 3 1 1) at_ 0).2.2.1 = 4 + 1 ∧ (slotRow (deqWith 5 3 0) at_ 0).2.1 ≠ 3 := by decide +kernel

/-- A vector side with registers set, over four lanes. -/
def vs (l : List (Nat × List W32)) : State := oneWave (inBlock (withV (wv 16) l) 0xF)
def vsNf (l : List (Nat × List W32)) : State :=
  let w := inBlock (withV (wv 16) l) 0xF
  oneWave { w with trap := { w.trap with trapen := 1 } }

/-- An instruction of one result a lane may take effect. -/
def rowReady (s : State) (i : Instr) (r : LaneRow) : Bool :=
  i.wf && vecReady s i r.f && regsIn s (dstRegs r.dt r.f.d.toNat ++ r.srcs)

theorem meets_VectorIntegerAndBitResults :
    (intLaneRow (.imad (F 20 2 4 6 8))).any (rowReady (vs []) (.imad (F 20 2 4 6 8))) = true ∧
    (bitLaneRow (.ishl (F 20 2 4 0 14))).any (rowReady (vs []) (.ishl (F 20 2 4 0 14))) = true := by decide +kernel

theorem meets_VectorFloatResults :
    (floatLaneRow (.fadd (F 20 2 4 0 0))).any (fun r => rowReady (vs []) (.fadd (F 20 2 4 0 0)) r && r.dt.isFloat &&
      finiteOk (vs []) r.dt (active (vs []) r.f) (r.val (vs []).me)) = true ∧
    (floatLaneRow (.fdiv (F 20 2 4 0 0))).any (fun r =>
      let s := vsNf [(4, [0x3F800000, 0x40000000, 0x3F800000, 0x3F800000])]
      rowReady s (.fdiv (F 20 2 4 0 0)) r && r.dt.isFloat && finiteOk s r.dt (active s r.f) (r.val s.me)) = true := by
  decide +kernel

theorem meets_VectorSideTraps :
    (floatLaneRow (.fdiv (F 20 2 4 0 0))).any (fun r =>
      let s := vsNf [(2, [0, 0x3F800000]), (4, [0x3F800000, 0, 0x3F800000, 0x3F800000])]
      rowReady s (.fdiv (F 20 2 4 0 0)) r && r.dt.isFloat &&
        (lanesOf (active s r.f)).find? (fun l => (fmtOf r.dt).nonFinite (r.val s.me l)) == some 1) = true ∧
    (intLaneRow (.imad (F 20 200 4 6 8))).any (fun r => (Instr.imad (F 20 200 4 6 8)).wf &&
      vecReady (vs []) (.imad (F 20 200 4 6 8)) r.f &&
      (dstRegs r.dt r.f.d.toNat ++ r.srcs).find? (fun x => decide ((vs []).vregs (vs []).me ≤ x)) == some 200) = true ∧
    (let s := vs [(4, [1, 1, 2, 1])]
     let f := F 20 2 4 0 14
     (∀ i, i ∈ [Instr.bcast f, .slideup f, .slidedn f] → vecReady s i f = true) ∧
     regsIn s (dstRegs f.type 20 ++ formRegs1 f f.type ++ srcRegs .n32 (f.srcB true)) = true ∧
     maskWhere (active s f) (fun l => laneN f s.me l == laneN f s.me (lowest (active s f))) ≠ active s f) := by decide +kernel

theorem meets_PredicatesAndCompares :
    (∀ i, i ∈ [Instr.pand (F 3 1 2 0 0), .por (F 3 1 2 0 0), .pxor (F 3 1 2 0 0)] → vecReady (vs []) i (F 3 1 2 0 0) = true) ∧
    vecReady (vs []) (.pnot (F 3 1 0 0 0)) (F 3 1 0 0 0) = true ∧
    (let f := F 0x21 2 4 0 0x48
     vecReady (vs []) (.icmp f) f = true ∧ regsIn (vs []) (srcRegs f.type (f.csrcA true) ++ srcRegs f.type (f.csrcB true)) = true) ∧
    (let f := F 0x21 2 4 0 0x40
     vecReady (vs []) (.fcmp f) f = true ∧ regsIn (vs []) (srcRegs f.type (f.csrcA true) ++ srcRegs f.type (f.csrcB true)) = true) := by
  decide +kernel

theorem meets_ConversionsAndPackedElements :
    (let f := F 20 2 0 8 0
     vecReady (vs []) (.cvt f) f = true ∧ regsIn (vs []) (dstRegs f.type 20 ++ srcRegs f.stype (f.srcA true)) = true ∧
       (vs []).me.trap.trapen.getLsbD 0 = false) ∧
    (let f := F 20 2 0 1 2
     vecReady (vs []) (.unpack f) f = true ∧ regsIn (vs []) (f.d.toNat :: srcRegs .b32 (f.srcA true)) = true) ∧
    (let f := F 20 2 0 6 5
     vecReady (vs []) (.dqnt f) f = true ∧ vecReady (vs []) (.qnt f) f = true ∧ f.variant % 2 = 0 ∧ f.type = .q4 ∧
       regsIn (vs []) (f.d.toNat :: (srcRegs .b32 (f.srcA true) ++ srcRegs .b32 (f.srcC true))) = true) ∧
    (let f := F 20 2 0 6 3
     let s := vs [(6, [7, 63, 0, 1])]
     vecReady s (.dqnt f) f = true ∧ ∀ l, l < 64 → (active s f).getLsbD l = true → s.me.vsrc .b32 l (f.srcC true) % 256 < 64) ∧
    (let f := F 20 2 4 0 1
     vecReady (vs []) (.pack f) f = true ∧ f.type.width = 16 ∧
       regsIn (vs []) (f.d.toNat :: (srcRegs .b32 (f.srcA true) ++ srcRegs .b32 (f.srcB true))) = true) := by decide +kernel

/-- A smoothed `qnt`, its factor 1 at local 0xC40. -/
theorem meets_ConversionsAndPackedElements_smooth :
    let f := F 20 2 6 8 0x1002
    let s := (vs [(6, [0xC40, 0xC40, 0xC40, 0xC40]), (8, [32, 33, 34, 35])]).modMe fun w =>
      { w with prol := [(0xC42, 0x80), (0xC43, 0x3F)] }
    let offs := (lanesOf (active s f)).map fun l => (l, (s.me.getV f.b.toNat l).toNat)
    vecReady s (.qnt f) f = true ∧ f.variant % 2 = 1 ∧
    regsIn s (f.d.toNat :: (srcRegs .b32 (f.srcA true) ++ [f.b.toNat] ++ srcRegs .b32 (f.srcC true))) = true ∧ s.me.stq = [] ∧ arrived s = true ∧
    okIs (s.checkLocals s.cur { needLoad with kind := .smooth } 4 offs) () = true ∧
    okIs (s.checkLocks true s.cur 4 false offs) () = true ∧
    (∀ l ∈ lanesOf (active s f), s.me.vsrc .b32 l (f.srcC true) % 256 < 64 ∧
      badScale (s.readLocal s.cur (s.me.getV f.b.toNat l).toNat 4) = false) ∧
    s.me.trap.trapen.getLsbD 0 = false := by decide +kernel

theorem meets_LaneMoves :
    let s := vs [(4, [1, 1, 1, 1])]
    let f := F 20 2 4 0 14
    let p := F 20 2 1 0 14
    ∀ i, i ∈ [Instr.laneRank p, .perm f, .bcast f, .compress p, .expand p, .slideup f, .slidedn f, .matchLanes (F 20 2 0 0 14),
        .ballot p] →
      (laneMove s i).any (fun m => vecReady s i m.1 && regsIn s (dstRegs m.2.1 m.1.d.toNat ++ m.2.2.1)) = true := by
  decide +kernel

theorem meets_ReductionsAndScans :
    (let s := vs []
     let f := F 20 2 0 0 8
     vecReady s (.redLanes f) f = true ∧ vecReady s (.scanLanes f) f = true ∧
       regsIn s (dstRegs f.type f.d.toNat ++ formRegs1 f f.type) = true ∧ f.type.isFloat = false) ∧
    [1, 2, 3, 4].length = 2 ^ 2 := by decide +kernel

theorem meets_AdamwStep :
    let f := F 2 4 6 8 0
    vecReady (vs []) (.adamw f) f = true ∧ regsIn (vs []) (f.d.toNat :: (srcRegs .f32 (f.srcA true) ++ [f.b.toNat, f.c.toNat])) = true ∧
    (vs []).me.trap.trapen.getLsbD 0 = false ∧ f.d ≠ f.b ∧ f.d ≠ f.c ∧ f.b ≠ f.c := by decide +kernel

/-- A clause is open whose first slot sets flag 2; an operation holds flag 2. -/
def inClause (w : Wave) : Wave := { w with ctl := { w.ctl with clause := some { rem := 3, slot := 0, set1 := 2, set2 := 5 } } }
def withOp (w : Wave) (i : Instr) (caps : Caps) : Wave := { w with ctl := { w.ctl with
  f := 4
  ops := [{ uid := 9, site := 0x40, instr := i, flag := 2, caps, mark := 0, stamp := 0 }] } }

/-- A wave with tile 0 at physical tile 2, tile 3 of the core pinned under number 5. -/
def tileWorld (w : Wave) : State :=
  { oneWave { w with tiles := [(0, 3)] } with
    cores := [(0, { owner := [(2, .wave 0), (3, .pinned 5)], shadow := { type := .bf16, loaded := true } })] }

/-- An operation may issue: its flag is free, its checks pass, and its ranges may enter the table. -/
def issues (s : State) (i : Instr) : Bool :=
  (longOpOf i).any fun p => ctlReady s i && mayIssueOp s i && okAny (started s p.1 i p.2) fun c => unlocked s p.1 c.1

theorem meets_LongLatencyOperations_issue :
    let s := oneWave (inClause (withS (wv 32) [(1, 0x40)]))
    s.me.setFlagOf = 2 ∧ s.me.firstFault (fun x => x == s.me.setFlagOf) = none ∧ s.me.flag s.me.setFlagOf = false ∧
    ∀ i, i ∈ [Instr.sld (F 5 1 0 0 9), .sst (F 5 1 0 0 9), .satomAdd (F 5 1 0 6 9), .satomMin (F 5 1 0 6 9),
        .satomMax (F 5 1 0 6 9), .satomAnd (F 5 1 0 6 15), .satomOr (F 5 1 0 6 15), .satomXor (F 5 1 0 6 15),
        .satomXchg (F 5 1 0 6 15), .satomCas (F 5 1 0 6 15), .satomInc (F 5 1 0 6 13), .ldw (F 0 10 20 0 2),
        .mma (F 2 10 20 0 2), .mmaSp (F 2 10 20 0 2), .mmaSr (F 2 10 20 0 2), .scac (F 2 10 20 0 0), .mgrpDef (F 5 1 2 0 0),
        .mgrpBind (F 5 1 2 0 0), .mgrpRevoke (F 5 1 0 0 0), .mgrpFree (F 5 1 0 0 0)] →
      issues s i = true := by decide +kernel

def engineWave : Wave :=
  inClause (withS (wv 32) [(1, 0x40), (7, 0x300), (8, 0x800), (9, 1), (10, 0x900), (11, 0x10003), (12, 0xC40)])
def engines : State :=
  world engineWave [(0x44, 4, 1), (0x50, 1, 4), (0x58, 8, 0x200), (0x200, 4, 4), (0x300, 8, 0x400), (0x308, 4, 1), (0x314, 2, 4),
    (0x316, 2, 4)]
def enginesJob : State :=
  let j := inJob engines []
  { j with fab := { j.fab with groups := [group3] } }

/-- An `evict` of an empty sequence; a `rast` of one triangle; an `allred` of one element in group 3. -/
theorem meets_LongLatencyOperations_engines : issues engines (.evict (F 0 1 2 0 0)) = true ∧
    issues engines (.rast (F 5 7 8 9 0)) = true ∧ issues enginesJob (.allred (F 5 8 10 11 0)) = true := by decide +kernel

/-- A `zdrain` of tile 0 to the prologue area, every row over the one before. -/
theorem meets_LongLatencyOperations_zdrain :
    issues (tileWorld engineWave) (.zdrain (F 0 0 12 13 0x40)) = true := by decide +kernel

/-- An `sld` whose address is good, and one whose address is not aligned. -/
theorem meets_LongLatencyOperations_completion :
    let i := Instr.sld (F 5 1 0 0 9)
    let s := oneWave (withOp (wv 32) i { a := 0x40 })
    let b := oneWave (withOp (wv 32) i { a := 0x41 })
    let acts (s : State) : Option (Eff State) :=
      (s.opOf 9).bind fun x => (longOpOf x.2.instr).map fun p => p.1.act (x.2.ctx x.1 p.2) s
    (s.opOf 9).any (fun x => decide (x.2.flag < 12)) = true ∧ (acts s).any isOk = true ∧
    (acts b).any (fun r => match r with
      | .error (.trap _) => true
      | _ => false) = true := by decide +kernel

def ctxOf (i : Instr) (f : Form) (caps : Caps) : OpCtx := { wi := 0, uid := 9, site := 0x40, i, f, caps, mark := 0 }

/-- Thirty-two factors of 1 from local 0xC40 on. -/
def smoothing : State := (tileWorld engineWave).modMe fun w => { w with
  prol := (List.range 32).flatMap fun k => [(0xC42 + 4 * k, 0x80), (0xC43 + 4 * k, 0x3F)] }

/-- An `ldw` plain, smoothed, and of both scale layouts, from local 0xC40 on. -/
theorem meets_LongLatencyOperations_ldw :
    ∀ f, f ∈ [F 0 10 0 0 2, F 0 10 0 30 0x102, F 0 10 0 0 0x43, F 0 10 0 0 0x85] → (Instr.ldw f).wf = true ∧
      isOk (opLdw.finish (ctxOf (.ldw f) f { a := 0xC40, a1 := 0xC80, c := 0xC40 }) smoothing) = true := by
  decide +kernel

/-- A `scac` of pinned tile 5 into tile 0. -/
theorem meets_LongLatencyOperations_scac :
    let f := F 0 5 10 11 0x1000
    let s := tileWorld engineWave
    isOk (opScac.finish (ctxOf (.scac f) f { b := 0xC40, c := 0xC60 }) s) = true ∧
    okIs (s.tileOf (s.destWave 0 0) (f.optBit 6) f.d.toNat) 2 = true ∧ okIs (s.tileOf 0 (f.optBit 7) f.a.toNat) 3 = true := by
  decide +kernel

/-- A `zdrain` to local memory. -/
theorem meets_LongLatencyOperations_drained :
    let f := F 0 0 12 13 0x40
    let s := tileWorld engineWave
    let c := ctxOf (.zdrain f) f { b := 0xC40, c := 0 }
    isOk (opZdrain.finish c s) = true ∧ isOk (s.checkDrain c) = true ∧ s.cur = c.wi ∧ membersDistinct s := by
  unfold membersDistinct
  decide +kernel

/-- A `zdrain` to the device memory of one leaf of 1 GiB, which the translation caches hold, of a kernel of a level. -/
def drainDev (level : Nat) : State :=
  let s := tileWorld engineWave
  let k := s.kernels.get 1
  { s with
    mem := bigPage
    ctxs := [(0, { s.ctxs.get 0 with tlbOn := true, tlb := [{ page := 0, lvl := 2, entry := 0x2000, e := 0x0F }] })]
    kernels := [(1, { k with desc := { k.desc with level } })] }
def drainCtx (mod : BitVec 14) : OpCtx := ctxOf (.zdrain (F 0 0 12 0 mod)) (F 0 0 12 0 mod) { b := 0x40000 }
def drainsTo (level : Nat) (mod : BitVec 14) : Bool :=
  isOk (opZdrain.finish (drainCtx mod) (drainDev level)) && isOk ((drainDev level).checkDrain (drainCtx mod)) &&
    decide ((drainDev level).levelOf ((drainDev level).waves.get 0) = level)

/-- It stores; it adds at level 0; it is one ordered add at level 1. -/
theorem meets_LongLatencyOperations_drained_dev :
    drainsTo 0 0 = true ∧ drainsTo 0 0x20 = true ∧ drainsTo 1 0x20 = true := by decide +kernel

theorem meets_ScalarLoadsStoresAtomics :
    let s := oneWave (withS (wv 32) [(1, 0x40), (2, 0x1000)])
    let f := F 5 1 0 0 9
    let k : State := s.modMe fun w => { w with keep := true }
    let slow : State := s.modCore 0 fun c => { c with slow := true }
    (∀ i, i ∈ [Instr.sld f, .sst f, .satomCas (F 5 1 0 6 15), .sld (F 5 2 0 0 0x1009)] → ctlReady s i = true) ∧
    unflagged s = true ∧ s.dv.bad = [] ∧ scalarsDone s = true ∧ (s.gangOf s.me).waves.Nodup ∧ s.me.stq = [] ∧
    readsHome s = true ∧ localBit f = false ∧ (at0 0x40 0x5040).isPeer = false ∧
    (∀ need, need ∈ [needLoad, needStore, needAtomic] →
      okIs (s.checkAccess s.cur false need 8 [(0, 0x40)]) [at0 0x40 0x5040] = true) ∧
    inTurn s false f.pastL1 f = true ∧ inTurn s false false f = true ∧ inTurn s false true f = true ∧
    orderReady s false f [at0 0x40 0x5040] = true ∧ storesNow s f false = true ∧
    (∀ x, x ∈ [k, slow] → ctlReady x (.sst f) = true ∧ unflagged x = true ∧ x.dv.bad = [] ∧ scalarsDone x = true ∧
      (x.gangOf x.me).waves.Nodup ∧ okIs (x.checkAccess x.cur false needStore 8 [(0, 0x40)]) [at0 0x40 0x5040] = true ∧
      orderReady x false f [at0 0x40 0x5040] = true ∧ inTurn x false false f = true) ∧
    keepsStores k f = true ∧ storesLater slow f false = true := by decide +kernel

theorem meets_ScalarLoadsStoresAtomics_peer :
    let s := withPeer (oneWave (withS (wv 32) [(1, 0x3040)]))
    let f := F 5 1 0 6 9
    let e : Element := (0, 0x3040, .peer 5 0x8040)
    ctlReady s (.sld f) = true ∧ ctlReady s (.sst f) = true ∧ ctlReady s (.satomAdd f) = true ∧ unflagged s = true ∧
    s.dv.bad = [] ∧ scalarsDone s = true ∧ (s.gangOf s.me).waves.Nodup ∧ s.me.stq = [] ∧ arrived s = true ∧ settled s = true ∧
    readsHome s = true ∧ s.routed 5 = true ∧ keepsStores s f = false ∧ f.releases = false ∧ orderReady s false f [e] = true ∧
    inTurn s false false f = true ∧ 0x8040 % f.type.bytes = 0 ∧
    ∀ need, need ∈ [needLoad, needStore, needAtomic] → okIs (s.checkAccess s.cur false need 8 [(0, 0x3040)]) [e] = true := by
  decide +kernel

theorem meets_ScalarLoadsStoresAtomics_answered :
    ∀ i, i ∈ [Instr.sld (F 5 1 0 6 9), .satomAdd (F 5 1 0 6 9)] →
      let o : PendingOp := { uid := 9, site := 0, instr := i, flag := 15, caps := { a := 0x3040 }, mark := 0, stamp := 0 }
      let s := withPeer (oneWave (withS (wv 32) [(1, 0x3040)])) |>.modMe fun w => { w with
        ctl := { w.ctl with ops := [o] }
        remote := [{ id := 3, owner := 9, lane := 0, site := 0, pkg := 5, pa := 0x8040, stamp := 0, answer := some (.value 7) }] }
      ctlReady s i = true ∧ 12 ≤ s.me.setFlagOf ∧ readsHome s = true ∧
      s.me.ctl.ops.find? (fun x => x.flag == 15 && x.site == s.me.ctl.pc) = some o ∧ o.uid ≠ 0 ∧
      (∀ x ∈ s.me.ctl.ops, x.uid < o.uid → scalarMemory x.instr = false) ∧
      (s.me.remote.find? (fun r => r.owner == o.uid && r.lane == 0 && r.site == 0)).any (fun r =>
        r.pkg == 5 && r.pa == 0x8040 && r.answer == some (.value 7)) = true := by decide +kernel

/-- Four lanes with addresses 0x100, 0x104, … in v4 and the prologue area's 0x40, … in v6. -/
def vm : State := vs [(4, [0x100, 0x104, 0x108, 0x10C]), (6, [0xC40, 0xC44, 0xC48, 0xC4C]), (8, [1, 2, 3, 4])]

theorem meets_VectorLoadsAndStores_loads :
    let g := F 20 4 0 0 12
    let l := F 20 6 0 0 12
    (∀ p, p ∈ [(Instr.ldG g, g, false), (.ldL l, l, true)] →
      vecReady vm p.1 p.2.1 = true ∧ regsIn vm (dstRegs p.2.1.type 20 ++ addrRegs p.2.1 p.2.2) = true ∧
      okAny (vm.vecElements p.2.2 needLoad 4 (vm.me.vecEls p.2.1 p.2.2 true (active vm p.2.1))) (fun els =>
        decide (els.map (fun e => e.1) = lanesOf (active vm p.2.1)) &&
        els.all fun e => isOk (vm.laneValue p.2.2 p.2.1.pastL1 4 e) && !e.isPeer) = true) ∧
    vm.me.split = false ∧ vm.me.vec.access = none ∧ arrived vm = true ∧ readsHome vm = true := by decide +kernel

/-- Lane 0 here, lanes 1 to 3 at package 5. -/
def vmPeer : State := withPeer (vs [(4, [0x100, 0x3104, 0x3108, 0x310C]), (8, [1, 2, 3, 4])])

/-- Their requests: not yet out; the first answered; all answered, the access in progress. -/
def answeredLanes (lanes : List Nat) (a : PeerAnswer) (els : List Element) : State := vmPeer.modMe fun w => { w with
  remote := lanes.map fun l =>
    { id := 3 + l, owner := 0, lane := l + 1, site := 0, pkg := 5, pa := 0x8100 + 4 * l, stamp := 0, answer := some a }
  vec := { w.vec with access := some { n := 4, els } } }

def elsPeer : List Element := [at0 0x100 0x5100, (1, 0x3104, .peer 5 0x8104), (2, 0x3108, .peer 5 0x8108), (3, 0x310C, .peer 5 0x810C)]

theorem meets_VectorLoadsAndStores_peer :
    let g := F 20 4 0 0 12
    let far := elsPeer.filter Element.isPeer
    let t := answeredLanes [1, 2, 3] (.value 7) elsPeer
    (vecReady vmPeer (.ldG g) g = true ∧ regsIn vmPeer (dstRegs g.type 20 ++ addrRegs g false) = true ∧
      okIs (vmPeer.vecElements false needLoad 4 (vmPeer.me.vecEls g false true (active vmPeer g))) elsPeer = true ∧
      elsPeer.map (fun e => e.1) = lanesOf (active vmPeer g) ∧ vmPeer.me.vec.access = none ∧ far ≠ [] ∧ vmPeer.routed 5 = true ∧
      vmPeer.me.remote = []) ∧
    (vecReady t (.ldG g) g = true ∧
      okIs (t.vecElements false needLoad 4 (t.me.vecEls g false true (active t g))) elsPeer = true ∧
      t.me.vec.access.isSome = true ∧ elsPeer.all (fun e => isOk (t.laneValue false g.pastL1 4 e)) = true ∧
      (t.peerAnswers far).any (fun as => laneTrap .load as == none) = true ∧ arrived t = true) ∧
    (∀ i, i ∈ [Instr.stG g, .stg g] → vecReady vmPeer i g = true) ∧
    (∀ k, k ∈ [AKind.store, .scatter] → okIs (vmPeer.checkAccess vmPeer.cur false { needStore with kind := k } 4
      (vmPeer.me.vecEls g false true (active vmPeer g))) elsPeer = true) ∧
    orderReady vmPeer false g elsPeer = true ∧ keepsStores vmPeer g = false ∧ (vmPeer.gangOf vmPeer.me).waves.Nodup ∧
    (∀ e ∈ far, ∀ x ∈ elsPeer, x ≠ e → x.2.2.key + 4 ≤ e.2.2.key ∨ e.2.2.key + 4 ≤ x.2.2.key) := by decide +kernel

theorem meets_VectorLoadsAndStores_stores :
    let g := F 20 4 0 0 12
    let l := F 20 6 0 0 12
    let keeps : State := vm.modMe fun w => { w with keep := true }
    let slow : State := vm.modCore 0 fun c => { c with slow := true }
    (∀ k, k ∈ [AKind.store, .scatter] →
      (vm.checkAccess vm.cur false { needStore with kind := k } 4 (vm.me.vecEls g false true (active vm g))).toOption.any
        (orderReady vm false g) = true) ∧
    (vm.checkAccess vm.cur true needStore 4 (vm.me.vecEls l true true (active vm l))).toOption.any (orderReady vm true l) = true ∧
    (∀ i, i ∈ [Instr.stG g, .stg g, .pref g] → vecReady vm i g = true) ∧ vecReady vm (.stL l) l = true ∧
    storesNow vm g false = true ∧ storesNow vm l true = true ∧ keepsStores keeps g = true ∧ storesLater slow g false = true ∧
    (∀ x, x ∈ [keeps, slow] → vecReady x (.stG g) g = true ∧
      (x.checkAccess x.cur false needStore 4 (x.me.vecEls g false true (active x g))).toOption.any (orderReady x false g) = true) ∧
    (vm.gangOf vm.me).waves.Nodup ∧ regsIn vm (addrRegs g false) = true ∧
    vecReady vm (.fenceVec (F 0 0 0 0 0)) (F 0 0 0 0 0) = true ∧ settled vm = true ∧ vm.outstanding vm.cur = false := by
  decide +kernel

theorem meets_VectorLoadsAndStores_queues :
    let q : QStore := { loc := false, off := 0x100, t := .dev 0x5100, n := 4, v := 7, stamp := 0 }
    (∀ slow : Bool, let s : State := { oneWave { ctl0 with stq := [q] } with cores := [(0, { slow })] }
      s.me.stq = [q] ∧ arrived s = true ∧ (s.cores.get (coreOf s.cur)).slow = slow) ∧
    ({ sc with cores := [(0, { out := [(0, q)] })] } : State).cores.get 0 = { out := [(0, q)] } := by decide +kernel

def gathering (g : Gather) : State := vm.modMe fun w => w.setGather (some g)

theorem meets_Gathers :
    let f := F 20 4 0 0 12
    let g : Gather := { site := 0x100, size := 4, arrived := [(0, 7)], awaited := [(1, .dev 0x5104)], stamp := 0 }
    let e : Gather := { g with awaited := [] }
    (vecReady vm (.ldg f) f = true ∧ vm.me.vec.gather = none ∧ regsIn vm (dstRegs f.type 20 ++ addrRegs f false) = true ∧
      (vm.checkAccess vm.cur false { needLoad with kind := .gather } 4 (vm.me.vecEls f false true (active vm f))).toOption.any
        (fun els => !els.isEmpty && !els.any fun e => vm.buffered vm.cur e) = true) ∧
    (okIs (vmPeer.checkAccess vmPeer.cur false { needLoad with kind := .gather } 4
        (vmPeer.me.vecEls f false true (active vmPeer f))) elsPeer = true ∧ vecReady vmPeer (.ldg f) f = true ∧
      vmPeer.me.vec.gather = none ∧ (elsPeer.any fun e => vmPeer.buffered vmPeer.cur e) = false ∧ vmPeer.routed 5 = true ∧
      vmPeer.me.remote = []) ∧
    (let z := oneWave (inBlock (wv 16) 0)
     vecReady z (.ldg f) f = true ∧ z.me.vec.gather = none ∧ z.me.vecEls f false true (active z f) = []) ∧
    ((gathering g).me.vec.gather = some g ∧ g.awaited.find? (fun e => e.1 == 1) = some (1, .dev 0x5104) ∧
      (gathering g).me.stq = [] ∧ ((gathering g).cores.get (coreOf 0)).out = [] ∧ (gathering g).dv.bad = []) ∧
    (let p : Gather := { g with awaited := [(1, .peer 5 0x8104)] }
     let s := (gathering p).modMe fun w => { w with remote :=
       [{ id := 3, owner := 0, lane := 2, site := 0, pkg := 5, pa := 0x8104, stamp := 0, answer := some (.value 7) }] }
     s.me.vec.gather = some p ∧ s.laneAnswer 0 1 5 = some (.value 7)) ∧
    vecReady (gathering e) (.ldg f) f = true ∧ (gathering e).me.vec.gather = some e ∧ (e.arrived.map Prod.fst).Nodup ∧
    ∀ x ∈ e.arrived, x.1 < 64 := by decide +kernel

theorem meets_VectorAtomics :
    let f := F 20 4 0 8 0
    (∀ i, i ∈ [Instr.atomAdd f, .atomXchg f, .atomCas f] → (atomRow i).isSome = true ∧ vecReady vm i f = true) ∧
    (vm.gangOf vm.me).waves.Nodup ∧ vm.me.vec.access = none ∧
    regsIn vm (dstRegs f.type 20 ++ addrRegs f false ++ dstRegs f.type 8 ++ dstRegs f.type 9) = true ∧ localBit f = false ∧
    okAny (vm.vecElements false needAtomic 4 (vm.me.vecEls f false false (active vm f))) (fun els =>
      decide (els.map (fun e => e.1) = lanesOf (active vm f)) && !els.any (fun e => vm.buffered vm.cur e) &&
        els.all fun e => !e.isPeer) = true ∧
    orderReady vm false f [] = true ∧ arrived vm = true ∧
    okIs (vmPeer.vecElements false needAtomic 4 (vmPeer.me.vecEls f false false (active vmPeer f))) elsPeer = true ∧
    vecReady vmPeer (.atomAdd f) f = true ∧ orderReady vmPeer false f [] = true ∧ arrived vmPeer = true ∧
    vmPeer.me.remote = [] ∧ vmPeer.routed 5 = true ∧
    (∀ ls : List Nat, ls ∈ [[1], [1, 2, 3]] → let t := answeredLanes ls (.value 7) elsPeer
      vecReady t (.atomAdd f) f = true ∧ t.me.vec.access.isSome = true ∧ arrived t = true ∧
      okIs (t.vecElements false needAtomic 4 (t.me.vecEls f false false (active t f))) elsPeer = true ∧
      (∀ l ∈ ls, (t.me.remote.find? fun r => r.owner == 0 && r.lane == l + 1 && r.site == 0).bind (·.answer) = some (.value 7)) ∧
      t.routed 5 = true) := by decide +kernel

def add0 (tile : List W48) : HeldAdd :=
  { uid := 9, kern := 1, pa := 0x5100, key := 0, value := 0x3F800000, tile, home := false, bytes := 16, wave := 0, stamp := 0 }

/-- The same state in a job with a group of two, a port up, and group 3 named in v10. -/
def vmGroup : State :=
  let s := inJob vm []
  { s with
    waves := [(0, withV (s.waves.get 0) [(4, [0, 4, 8, 12]), (10, [3, 3, 3, 3])])]
    fab := { s.fab with
      ports := [(0, { st := .up, enable := true })]
      groups := [{ job := 7, id := 3, lines := 4, members := [
        { pkg := 4, bound := true, revoked := false, window := [0x5000], first := 0, ack := 0x5800 },
        { pkg := 5, bound := true, revoked := false, window := [0x5000], first := 0, ack := 0x5800 }] }] } }

theorem meets_OrderedAddsAndMulticastStores :
    (let f := F 8 4 0 0 0
     vecReady vm (.redO f) f = true ∧ regsIn vm (f.d.toNat :: addrRegs f false) = true ∧
       (vm.checkAccess vm.cur false needAdd 4 (vm.me.vecEls f false true (active vm f))
         (vm.checkAdds vm.cur 16 (lanesOf (active vm f)))).toOption.isSome = true) ∧
    (∀ t, t ∈ [[], [0, 1]] → ∀ level, level ∈ [0, 1] →
      let s : State := { vm with
        adds := [add0 t]
        kernels := [(1, { vm.kernels.get 1 with desc := { (vm.kernels.get 1).desc with level } })] }
      s.adds.find? (fun a => a.uid == 9 && !a.home) = some (add0 t) ∧
      (s.adds.any fun b => !b.home && b.ahead (add0 t)) = false) ∧
    (let f := F 8 4 12 10 12
     let A := active vmGroup f
     let els := vmGroup.me.vecEls f false false A
     vecReady vmGroup (.mcastSt f) f = true ∧
       regsIn vmGroup (dstRegs f.type f.d.toNat ++ addrRegs f false ++ [f.b.toNat, f.b.toNat + 1] ++ [f.c.toNat]) = true ∧
       (F 8 4 12 10 0x20C).order = .rel ∧ vmGroup.outstanding vmGroup.cur = false ∧
       okIs (vmGroup.uniform A (.reg f.c.toNat)) 3 = true ∧ els = [(0, 0), (1, 4), (2, 8), (3, 12)] ∧
       (∀ e ∈ els, e.2 % f.type.bytes = 0 ∧ e.2 / 256 = 0 / 256) ∧ (vmGroup.groupFor (vmGroup.ctxOf vmGroup.me) 3).isSome = true ∧
       vmGroup.ported = true ∧ settled vmGroup = true) ∧
    arrived vm = true ∧
    (let f := F 8 4 12 10 12
     let z := oneWave (inBlock (wv 16) 0)
     vecReady z (.mcastSt f) f = true ∧ active z f = 0) := by decide +kernel

theorem meets_TilesAndPageCounters :
    let s := tileWorld (wv 32)
    let v := tileWorld (inBlock (wv 32) 0xFFFFFFFF)
    (ctlReady s (.zclr (F 0 0 0 0 0)) = true ∧ okIs (s.tileReady false 0) 2 = true) ∧
    (ctlReady s (.zclr (F 5 0 0 0 0x800)) = true ∧ (F 5 0 0 0 0x800).optBit 6 = true ∧ okIs (s.tileReady true 5) 3 = true) ∧
    (ctlReady s (.zclrPin (F 0 0 0 6 0)) = true ∧ s.tileBusy s.cur s.me.issued [256 + 6] = false ∧ (s.cores.get 0).owner.any (fun e => e.2 == .pinned 6) = false) ∧
    ctlReady s (.zclrUnpin (F 5 0 0 0 0)) = true ∧ ctlReady s (.pgq (F 5 0 0 0 0)) = true ∧
    ctlReady s (.pgq (F 5 0 0 0 0x20)) = true ∧
    ∀ f, f ∈ [F 20 0 2 1 0x20, F 20 0 2 1 0, F 20 0 30 2 0x12] → vecReady v (.zcopy f) f = true ∧
      (f.b.toNat + f.c.toNat) * v.me.id.width ≤ 1024 ∧
      (∀ l, l < 64 → (active v f).getLsbD l = true → l < v.me.id.width) ∧
      regsIn v ((List.range ((if f.type = .ax48 then 2 else 1) * f.c.toNat)).map (· + f.d.toNat)) = true ∧
      okIs (v.tileOf v.cur (f.optBit 6) f.a.toNat) 2 = true ∧ v.tileBusy v.cur v.me.taken (v.tileKeys v.cur (f.optBit 6) f.a.toNat) = false := by decide +kernel

theorem meets_ProductEntries :
    let s := tileWorld (wv 32)
    let f := F 0 16 0 0 0x102
    let c : OpCtx := { wi := 0, uid := 9, site := 0, i := .mma f, f, caps := {}, mark := 0 }
    isOk (s.product .plain c [(0, 16)]) = true ∧ okIs (s.tileOf (s.destWave 0 0) (f.optBit 6) 0) 2 = true ∧
    (s.activations .plain c [(0, 16)]).toOption.any (fun a =>
      isOk (planeColumns .plain (f.optBits 8 7) (s.cores.get 0).shadow a.meta_)) = true := by decide +kernel

/-- Finite operands of a product: 1 and −3, 2 and 1/4. -/
theorem meets_ProductEntries_finite :
    [FV.fin false 1 0, .fin true 3 0].map ratOf = [(1 : ℚ), -3].map some ∧
    [FV.fin false 1 1, .fin false 1 (-2)].map ratOf = [(2 : ℚ), 1 / 4].map some ∧ ratOf (ax 0) = some 0 := by
  refine ⟨by norm_num [ratOf], by norm_num [ratOf], ?_⟩
  have h : (match ax 0 with | .fin _ m _ => decide (m = 0) | _ => false) = true := by decide +kernel
  revert h
  cases ax 0 with
  | fin n m e => intro h; simp only [decide_eq_true_eq] at h; simp [ratOf, h]
  | inf n => intro h; cases h
  | nan => intro h; cases h

/-- A wave with a share of the tape store and a tape. -/
def taped (w : Wave) (t : Tape) : State :=
  let s := oneWave { w with tape := t }
  { s with kernels := [(1, { s.kernels.get 1 with desc := { (s.kernels.get 1).desc with tape := 4096 } })] }
def rec0 (kind : Nat) : Record := { kind, words := [7, 8, 9, 10], bytes := 80, start := 16 }
def span0 (st : SpanSt) (records : List Record) : Tape :=
  { spans := [{ num := 0, recompute := false, refill := false, st, records, written := 96, share := [0], spill := [] }]
    open_ := if st = .open_ then some 0 else none, count := 1 }
def inSpan (w : Wave) : Wave :=
  { w with vec := { w.vec with block := w.vec.block.map fun b => { b with span := some 0 } } }

theorem meets_TapeInstructions :
    let b := inBlock (wv 16) 0xF
    let f := F 20 0 0 0 14
    let g := F 0 4 0 0 14
    (let s := taped (wv 32) {}
     (∀ i, i ∈ [Instr.tspan (F 5 0 0 0 0), .tspan (F 5 0 0 0 0x20), .tspanRefill (F 5 0 0 0 0), .tstat (F 5 0 0 0 0x60)] →
       ctlReady s i = true) ∧ s.hasShare s.me = true ∧ s.me.tape.open_ = none) ∧
    (let s := taped (wv 32) (span0 .open_ [])
     ctlReady s (.tspend (F 0 0 0 0 0)) = true ∧ s.hasShare s.me = true ∧ s.me.tape.open_.isSome = true) ∧
    (let s := taped (inSpan b) (span0 .open_ [rec0 2])
     (∀ i, i ∈ [Instr.trec g, .tckpt g] → vecReady s i g = true) ∧ s.changed s.me = [] ∧ regsIn s (dstRegs g.type 4) = true ∧
       s.hasShare s.me = true ∧
       (s.me.vec.block.bind fun b => b.span).isSome = true ∧ (s.me.seen.top.any fun x => decide (x.ckpts.length < 16)) = true ∧
       (match s.me.seen.append (s.shareChunks s.me) s.me.spillRoom 2 16 4 (List.replicate 16 0) with
         | .ok t => isOk (s.moveTape t)
         | .error _ => false) = true) ∧
    (∀ st, st ∈ [SpanSt.resident, .dropped] →
      let s := taped b (span0 st [rec0 0])
      vecReady s (.tpop f) f = true ∧ s.changed s.me = [] ∧ regsIn s (dstRegs f.type 20) = true ∧ s.hasShare s.me = true ∧
        (s.me.seen.top.any fun x => x.st != .open_ && x.data.getLast? == some (rec0 0) &&
          match s.me.seen.fill (s.shareChunks s.me) x (rec0 0) with
          | .ok x' => isOk (s.moveTape (s.me.seen.pop x' (rec0 0)))
          | .error _ => false) = true) ∧
    (let s := taped b (span0 .resident [rec0 2])
     vecReady s (.tckptGet f) f = true ∧ s.changed s.me = [] ∧ (s.me.seen.top.any fun x => x.ckpts[f.c.toNat]? == some (rec0 2)) = true) := by
  decide +kernel

/-- A chunk moves to the tape spill at 0x1000, which lies at 0x7000; with a range in force there, it waits. -/
def spills : State := cachedPages (taped (wv 16) (span0 .resident [rec0 0]))
def spilled : Tape := { spills.me.tape with spans := spills.me.tape.spans.map fun x => { x with share := [], spill := [0] } }

theorem meets_TapeInstructions_moves :
    let l := mkLock 2 false 0 0x1000 256 true 0
    let b : State := { spills with locks := [mkLock 1 false 0 0x1000 64 false 9] }
    spilled.places ≠ spills.me.tape.places ∧ commonFoot spills.me.tape.places spilled.places = 0 ∧ spilled.places.length = 1 ∧
    spills.me.tape.places.length = 0 ∧ spills.me.placeAt 0 = 0x1000 ∧ spills.lockTurn (lockAsker 0 true) 0 [l] = true ∧
    spills.feHeld (spills.ctxOf spills.me) 0x1000 256 = false ∧ b.lockTurn (lockAsker 0 true) 0 [l] = false := by decide +kernel

theorem meets_TapeInstructions_spill : deviceFixed spills 0x1000 256 0x7000 := deviceFixed_of (by decide +kernel)

/-- A render world: a triangle at 0x100 with one attribute, a texture descriptor at 0x500, a scene of one triangle at 0x800,
and the operands of one lane. -/
def rends : State :=
  let w := inBlock (withV (wv 16) [(2, [0x000A000A]), (4, [0x100]), (6, [0]), (8, [0x3F000000]), (10, [0x3E800000]),
    (11, [0x3E800000]), (12, [0]), (14, [0x500]), (16, [0x3E800000]), (17, [0x3E800000]), (18, [0]), (19, [0]), (20, [0]),
    (21, [0x3F800000]), (22, [0]), (23, [0x41200000]), (24, [0x800]), (30, [0x3F800000]), (31, [0]), (32, [0])]) 1
  { oneWave w with mem := [(0, 1), (1, 0x10), (0x10A, 0x80), (0x10B, 0x3F), (0x112, 0x80), (0x113, 0x42), (0x11A, 0x80),
    (0x11B, 0x3F), (0x11C, 1), (0x126, 0x80), (0x127, 0x42), (0x12A, 0x80), (0x12B, 0x3F), (0x131, 2), (0x139, 3),
    (0x202, 0x80), (0x203, 0x3F), (0x331, 4), (0x501, 6), (0x509, 7), (0x510, 2), (0x512, 2), (0x514, 1), (0x602, 0x80),
    (0x603, 0x3F), (0x800, 0x40), (0x801, 8), (0x808, 0x80), (0x809, 8), (0x811, 9), (0x818, 1), (0x81C, 1), (0x84E, 0x80),
    (0x84F, 0x3F), (0x852, 0x80), (0x853, 0x3F), (0x856, 0x80), (0x857, 0x3F), (0x85B, 0x81), (0x88A, 0x80), (0x88B, 0x3F),
    (0x88E, 0x80), (0x88F, 0x3F), (0x896, 0x80), (0x897, 0x3F), (0x89E, 0x80), (0x89F, 0x3F), (0x8A2, 0x80), (0x8A3, 0x3F),
    (0x1000, 1), (0x1001, 0x20), (0x2000, 0xF)] }

theorem meets_RenderResults_planes :
    lanesOf (active rends (F 40 10 14 12 0x20)) = [0] ∧
    (let f := F 40 10 14 12 0x20
     vecReady rends (.tex f) f = true ∧ regsIn rends (f.d.toNat :: texRegs f) = true ∧
       okAny (rends.checkChannels f false (active rends f)) (fun regs => !rends.me.fragHeld regs) = true ∧
       (rends.texLane f 0).toOption.any (fun v => decide (v.2 = [0x3F800000]) && regsIn rends (regRange f.d.toNat v.2.length)) = true) ∧
    (let f := F 40 2 4 6 0x600
     vecReady rends (.bary f) f = true ∧ vecReady rends (.bary (F 40 2 4 6 0x200)) (F 40 2 4 6 0x200) = true ∧
      regsIn rends (regRange f.d.toNat (if f.optBit 5 then f.optBits 8 6 + 1 else 3) ++
        [f.a.toNat, f.b.toNat, f.b.toNat + 1, f.c.toNat]) = true ∧ isOk (rends.baryLane f 0) = true) ∧
    (let f := F 40 8 4 6 0
     vecReady rends (.esmp f) f = true ∧ f.optBit 0 = false ∧
       regsIn rends (regRange f.d.toNat 4 ++ [f.a.toNat, f.b.toNat, f.b.toNat + 1, f.c.toNat]) = true ∧
       isOk (rends.esmpLane f 0) = true) ∧ rends.nfOn = false := by decide +kernel

theorem meets_RenderResults_rays :
    (let f := F 40 16 24 6 0x20
     vecReady rends (.isect f) f = true ∧
       regsIn rends (regRange f.d.toNat 3 ++ regRange f.a.toNat 8 ++ [f.b.toNat, f.b.toNat + 1, f.c.toNat]) = true ∧
       (rends.scene f 0).toOption.any (fun sc => decide ((rends.me.getV f.c.toNat 0).toNat < sc.ntris) &&
         (rends.me.ray f 0).any fun r => (rends.triVerts 0 sc 0).toOption.any fun v => (triHit r v).isSome) = true) ∧
    (let f := F 40 16 24 0 0x220
     vecReady rends (.trav f) f = true ∧ vecReady rends (.trav (F 40 16 24 0 0x20)) (F 40 16 24 0 0x20) = true ∧
       regsIn rends (regRange f.d.toNat 4 ++ regRange f.a.toNat 8 ++ [f.b.toNat, f.b.toNat + 1]) = true ∧
       (rends.travLane f 0).toOption.any (·.isSome) = true) ∧
    (F 40 16 24 0 0x220).optBit 4 = true ∧
    (taped (inSpan rends.me) (span0 .open_ [])).changed (taped (inSpan rends.me) (span0 .open_ [])).me = [] ∧
    isOk ((taped (inSpan rends.me) (span0 .open_ [])).travRecords [(0, [0, 0x3F800000, 0x3E800000, 0x3E800000])]) = true := by
  decide +kernel

/-- The same lane after a traversal has left its four records. -/
def traced (st : SpanSt) : State :=
  let r (k : Nat) (x : W64) : Record := { kind := 4, words := [x], bytes := 80, start := 16 + 80 * k }
  let s := taped rends.me (span0 st [r 0 0, r 1 0x3F800000, r 2 0x3E800000, r 3 0x3E800000])
  { s with mem := rends.mem }

theorem meets_RenderAdjoints :
    (let f := F 30 10 14 12 0x20
     vecReady rends (.texadj f) f = true ∧ regsIn rends (f.d.toNat :: (f.d.toNat + 1) :: texRegs f) = true ∧
       okAny (rends.checkChannels f true (active rends f)) (fun regs => !rends.ackPending regs) = true ∧
       (rends.texadjLane f 0).toOption.any (fun v => regsIn rends (regRange f.d.toNat v.1) && !v.2.1.isEmpty &&
         isOk (rends.renderAdds (v.2.1.map fun a => (0, a.1, a.2)))) = true) ∧
    (let f := F 30 2 4 6 0x200
     vecReady rends (.baryadj f) f = true ∧
       regsIn rends (regRange f.d.toNat (f.optBits 8 6 + 1) ++ [f.a.toNat, f.b.toNat, f.b.toNat + 1, f.c.toNat]) = true ∧
       (rends.baryadjLane f 0).toOption.any (fun v => !v.isEmpty &&
         isOk (rends.renderAdds (v.map fun a => (0, a.1, a.2)))) = true) ∧
    (let f := F 30 8 4 6 0x20
     vecReady rends (.esmp f) f = true ∧ f.optBit 0 = true ∧
       regsIn rends [f.d.toNat, f.a.toNat, f.b.toNat, f.b.toNat + 1, f.c.toNat] = true ∧
       (rends.esmpLane f 0).toOption.any (fun v => okIs (renderAligned 0 v.t.grad 64) () &&
         isOk (rends.renderAdds ((v.term (f32X (rends.me.getV f.d.toNat 0).toNat)).map fun a => (0, a.1, a.2)))) = true) ∧
    (let f := F 40 16 24 30 0x20
     let s := traced .resident
     vecReady s (.isectadj f) f = true ∧ s.changed s.me = [] ∧ arrived s = true ∧ arrived rends = true ∧
       regsIn s (regRange f.d.toNat 6 ++ regRange f.a.toNat 8 ++ [f.b.toNat, f.b.toNat + 1] ++ regRange f.c.toNat 3) = true ∧
       s.popFour.toOption.any (fun p => p.any fun p => isOk (s.moveTape p.2) && (s.isectadjLane f p.1 0).toOption.any fun v => !v.2.isEmpty &&
         isOk (s.renderAdds (v.2.map fun a => (0, a.1, a.2)))) = true ∧
       okIs (traced .dropped).popFour none = true ∧ s.nfOn = false) := by decide +kernel

/-- A page of a sequence: its table at 0x100 (one page of rows of four f32), its data at 0x4000, its counts at 0x200 with slot 0
valid or none, one lane per element. -/
def attn (m l : W32) (valid : Byte) : State :=
  let four (x : W32) : List W32 := List.replicate 4 x
  let w := inBlock (withV (wv 16) [(4, four 0x3F800000), (6, four 0x100), (9, four 5), (21, four m), (22, four l)]) 0xF
  { oneWave w with mem := bigPage ++ [(0x100, 1), (0x104, 1), (0x110, 4), (0x141, 0x40), (0x149, 2), (0x280, valid)] }

theorem meets_AttentionSteps :
    let f := F 20 4 6 8 0
    let one : W32 := 0x3F800000
    (∀ s, s ∈ [attn 0xFF800000 0 0, attn 0xFF800000 0 1, attn one one 1] →
      regsIn s (attnRegs f) = true ∧ active s f ≠ 0 ∧ vecReady s (.attnStep f) f = true ∧ vecReady s (.attnMass f) f = true ∧
        arrived s = true) ∧
    (let z := oneWave (inBlock (wv 16) 0)
     active z f = 0 ∧ vecReady z (.attnStep f) f = true ∧ vecReady z (.attnMass f) f = true) ∧
    ((attn 0xFF800000 0 0).attnReads f 0xF).toOption.any (fun x => x.slots.isEmpty && x.m == 0xFF800000) = true ∧
    (let s := attn one one 1
     s.nfOn = false ∧ (s.attnReads f 0xF).toOption.any (fun x => !x.slots.isEmpty && x.m == one && x.l == one &&
       x.slots.foldl (fun m e => f32Max m (s.me.score f x e.k)) x.m != 0xFF800000 &&
       isOk (s.checkAccess s.cur false needAdd 4 (x.slots.map fun e => (e.t, x.info + 4 * e.t))
          (s.checkAdds s.cur 16 (x.slots.map Slot.t)))) = true) := by decide +kernel

/-- A package whose partitions and front end are ready, with context 0 as given; kernels, gangs and waves as in `sc`. -/
def cx (f : Ctx → Ctx) : State := { sc with
  dv := { sc.dv with pg := true, fe := true, sb := true, fw := true, hbm := 0xFFFF, die := 0xFFF }
  ctxs := [(0, f { sc.ctxs.get 0 with pcgroups := [1], pairs := [1], ways := [1] })] }

/-- The same with nothing running. -/
def still (f : Ctx → Ctx) : State := { cx f with waves := [], gangs := [], kernels := [] }

theorem meets_ContextCommands_refused :
    commandRow (.suspend 0) = some (0, [.ready, .running]) ∧ sc.dv.pg = false ∧
    (cx id).dv.pg = true ∧ ((cx fun c => { c with busy := true }).ctxs.get 0).busy = true ∧
    ((cx fun c => { c with st := .halted }).ctxs.get 0).st ∉ [CtxSt.ready, .running] := by decide +kernel

/-- A context descriptor for pair, way-group and pseudo-channel group 0; it stands at 0x5000. -/
def desc0 : List Byte := 1 :: List.replicate 31 0 ++ 1 :: List.replicate 95 0 ++ 1 :: List.replicate 47 0 ++ 1 :: List.replicate 79 0

theorem meets_ContextCommands_create :
    let s : State := { still id with mem := [(0x5000, 1), (0x5020, 1), (0x5080, 1), (0x50B0, 1)] }
    s.dv.pg = true ∧ (s.ctxs.get 1).busy = false ∧ (s.ctxs.get 1).st = .empty ∧ s.sysRead 0x5000 256 = some desc0 ∧
    (s.describe desc0).2 = true ∧ (∀ e ∈ s.ctxs, (s.describe desc0).1.overlaps e.2 = false) ∧
    s.sysRead 0x6000 256 = some (List.replicate 256 0) ∧ (s.describe (List.replicate 256 0)).2 = false := by decide +kernel

theorem meets_ContextCommands_others :
    ((cx id).ctxs.get 0).st = .running ∧ ((cx id).ctxs.get 0).busy = false ∧
    (let s := cx fun c => { c with st := .suspended }
     (s.ctxs.get 0).st = .suspended ∧ (s.ctxs.get 0).pairs ≠ []) ∧
    (let s := cx fun c => { c with st := .suspended, pairs := [] }
     (s.ctxs.get 0).st = .suspended ∧ (s.ctxs.get 0).pairs = [] ∧ (s.sysRead 0 96).isSome = true ∧
       s.sysRead (4096 * (2 ^ 51 : BitVec 52).toNat) 96 = none) ∧
    (let s : State := { cx fun c => { c with st := .suspended, pairs := [], light := true } with mem := [(0x5000, 0xFF), (0x5001, 1)] }
     (s.ctxs.get 0).light = true ∧ (s.sysRead 0x5000 96).any (fun b => decide (8 < (bitmapOf b).length)) = true) ∧
    ∀ p : List Nat, p ∈ [[], [1]] → let s := still fun c => { c with st := .halted, pairs := p }
      (s.ctxs.get 0).st = .halted ∧ (s.ctxs.get 0).levelQ = none ∧ (s.ctxs.get 0).pairs = p := by decide +kernel

theorem meets_ContextEvents_freeze :
    let s := cx fun c => { c with st := .suspending, pairs := [0] }
    let q : State := s.modMe fun w => { w with stq := [{ loc := false, off := 0x40, t := .dev 0x5040, n := 4, v := 7, stamp := 0 }] }
    (0 ∈ q.wavesIn 0 ∧ (q.waves.get 0).stq ≠ [] ∧ (∀ e ∈ q.gangs, q.frozenGang e.2 = true)) ∧
    let b : State := { s with cores := [(0, { wcb := [{ peer := 5, line := 0, cells := [(0, 1)], since := 0, waves := [0], stamp := 0 }] })] }
    (s.ctxs.get 0).st = .suspending ∧ (∀ e ∈ s.gangs, s.frozenGang e.2 = true) ∧ (∀ w ∈ s.wavesIn 0, (s.waves.get w).stq = [] ∧ (s.cores.get (coreOf w)).out = []) ∧
    (∀ k ∈ coresOf [0], (s.cores.get k).wcb = [] ∧ s.drainsOut k = false) ∧
    (∀ e ∈ b.gangs, b.frozenGang e.2 = true) ∧ ∃ k ∈ coresOf [0], (b.cores.get k).wcb ≠ [] := by decide +kernel

theorem meets_ContextEvents_restore :
    (let s := cx fun c => { c with st := .restoring }
     (s.ctxs.get 0).levelQ = none ∧ (s.ctxs.get 0).pairs ≠ []) ∧
    (let s := still fun c => { c with st := .restoring, pairs := [], place := [] }
     (s.ctxs.get 0).pairs = [] ∧ (s.misfit 0).isSome = true) ∧
    (let x : Save := { waves := [(1, ctl0)], gangs := [], cores := [], pairs := 1 }
     let s := still fun c => { c with st := .restoring, pairs := [], place := [3], save := some x }
     (s.ctxs.get 0).save = some x ∧ s.misfit 0 = none ∧ (s.ctxs.get 0).place.Nodup ∧ (x.waves.map Prod.fst).Nodup ∧
       (∀ e ∈ x.waves, e.1 / 64 < 1) ∧ (sortNat [3])[1 / 64]? = some 3) := by decide +kernel

theorem meets_ContextEvents_others :
    (let s : State := { still fun c => { c with st := .destroying } with epoch := 5 }
     (s.ctxs.get 0).st = .destroying ∧ (∀ e ∈ s.gangs, ¬ e.2.ctx = 0) ∧ s.late = [] ∧ (s.ctxs.get 0).dieAt < s.quiet (s.ctxs.get 0)) ∧
    (let s : State := { cx fun c => { c with st := .suspending } with
       kernels := [(1, { sc.kernels.get 1 with desc := { (sc.kernels.get 1).desc with level := 1, maxgc := 4 } })], own := 8 }
     let g := s.gangs.get 1
     let d := (s.kernels.get g.kern).desc
     g.ctx = 0 ∧ g.st ∈ [GangSt.resident, .granted] ∧ d.level ≠ 0 ∧ (s.ctxs.get 0).st = .suspending ∧ 0 < d.gangwg ∧
       0 < g.starts.get 0 ∧ 0 ∉ g.stops ∧ g.starts.get 0 + d.maxgc ≤ s.own + 1 ∧ g.wgMembers d.wgwaves 0 = [0] ∧ 0 ∉ g.exited ∧
       (s.waves.get 0).stq = [] ∧ (s.cores.get (coreOf 0)).out = []) ∧
    (let s : State := { cx id with
       waves := [(0, { ctl0 with wait := .sem })], own := 2 ^ 26, idleSince := [(0, 1)]
       sems := [(0x5040, [{ wave := 0, peer := none, value := 3, push := false }])] }
     (s.waves.get 0).st = .running ∧ (s.waves.get 0).id.ctx = 0 ∧ s.goesOn (s.waves.get 0) = true ∧ (s.waitOf 0).code ≠ 0 ∧
       s.idle 0 = true) ∧
    (let s : State := { cx fun c => { c with pairs := [0] } with
       waves := [(0, withOp ctl0 (.mma (F 2 10 20 0 2)) {})], own := 2 ^ 24 }
     s.ctxs.find (fun _ x => x.pairs.contains (pairOfCore 0)) = some (0, s.ctxs.get 0) ∧
       ∃ o ∈ (s.waves.get (32 * 0 + 0)).ctl.ops, o.site = 0x40 ∧ s.atEngine (32 * 0 + 0) o = true ∧
         max o.since (s.cores.get 0).opened + 2 ^ 24 ≤ s.own) ∧
    (let s := still fun c => { c with st := .ready, levelQ := some (2, 1) }
     (s.ctxs.get 0).levelQ = some (2, 1) ∧ (s.ctxs.get 0).st ∈ [CtxSt.ready, .running] ∧ s.gangs = [] ∧ s.kernels = [] ∧
       s.graphs = []) := by decide +kernel

/-- Queue 3 of context 0 as given, over the page at virtual 0. -/
def qs (q : Queue) (cells : List (Nat × Nat × Nat)) : State := { world ctl0 cells with queues := [(3, q)] }

theorem meets_QueueControls :
    let q (head tail : W64) : Queue := { st := .idle, enable := true, head, tail }
    let tail (s : State) : Option Nat :=
      (s.feRead (s.ctxs.get 0) (s.queues.get (16 * 0 + 3)).tail.toNat 8).map ofBytesLE
    (∀ s, s ∈ [qs (q 0x100 0x40) [(0x40, 8, 1)], qs (q 0x100 0x5000) [], qs (q 0x100 0x40) [(0x40, 8, 2 ^ 33)],
        qs (q 0x5000 0x40) [(0x40, 8, 1)]] → (s.queues.get (16 * 0 + 3)).line = none ∧ (s.ctxs.get 0).admits = true ∧
        (s.queues.get (16 * 0 + 3)).seen ≤ (s.queues.get (16 * 0 + 3)).headseq ∧
        s.feHeld (s.ctxs.get 0) (s.queues.get (16 * 0 + 3)).tail.toNat 8 = false ∧
        s.feHeld (s.ctxs.get 0) (s.queues.get (16 * 0 + 3)).head.toNat 256 = false) ∧
    (let s := qs (q 0x100 0x40) [(0x40, 8, 1)]
     let h : State := { s with mem := s.mem.putAll [(0x4000, 0x8F)] }
     h.feHeld (h.ctxs.get 0) 0x40 8 = true) ∧
    (∀ b : Bool, ({ q 0 0 with errpend := b } : Queue).errpend = b) ∧
    tail (qs (q 0x100 0x5000) []) = none ∧ tail (qs (q 0x100 0x40) [(0x40, 8, 2 ^ 33)]) = some (2 ^ 33) ∧
    tail (qs (q 0x100 0x40) [(0x40, 8, 1)]) = some 1 := by decide +kernel

/-- A line of a type whose body names an address, a value and an operation; and a queue at whose head it stands. -/
def lineOf (type va v op : Nat) : Line :=
  { type, seq := 1, body := List.replicate 24 0 ++ bytesLE 8 va ++ bytesLE 8 v ++ bytesLE 8 op ++ bytesLE 4 0 ++ bytesLE 4 1 }
def atHead (l : Line) : Queue := { st := .active, enable := true, line := some l, seen := 1 }

theorem meets_PacketsStart_steps : PacketStep 0 3 1 (.launchPkt 0 3) ∧ PacketStep 0 3 2 (.graphPkt 0 3) ∧
    PacketStep 0 3 3 (.signalPkt 0 3) ∧ PacketStep 0 3 4 (.waitPkt 0 3) ∧ PacketStep 0 3 5 (.fencePkt 0 3) ∧
    PacketStep 0 3 6 (.levelPkt 0 3) := by simp [PacketStep]

theorem meets_PacketsStart :
    (∀ t, t ∈ [1, 2, 3, 4, 5, 6] → let l := lineOf t 0x40 5 1
      let s := qs (atHead l) []
      let x := s.queues.get (16 * 0 + 3)
      x.line = some l ∧ (s.ctxs.get 0).admits = true ∧ x.st = .active ∧ x.free l = true ∧ (s.ctxs.get 0).levelQ = none ∧
        (l.abortst && x.failed) = false ∧ l.cmpl = 0 ∧ s.headHeld 0 l = false) ∧
    (let l := lineOf 3 0x40 5 1
     let s : State := { qs (atHead l) [] with mem := pageTable.putAll [(0x4000, 0x8F)] }
     s.headHeld 0 l = true) ∧
    (let l := lineOf 5 0 0 0
     let x := { atHead l with packets := [{ seq := 0, type := 1, done := false, counted := true, cmpl := 0 }] }
     x.free l = false) ∧
    (let l := { lineOf 1 0 0 0 with abortst := true }
     let x := { atHead l with failed := true }
     x.free l = true ∧ (l.abortst && x.failed) = true) ∧
    (let s := qs (atHead (lineOf 2 0x100 1 0)) []
     let l := lineOf 2 0x100 1 0
     let b : State := { s with locks := [mkLock 1 false 0 0x100 16 true 9] }
     s.lockTurn (graphAsker 3) 0 (graphLocks 0 (s.uid + 1) l) = true ∧
     b.lockTurn (graphAsker 3) 0 (graphLocks 0 (b.uid + 1) l) = false) := by
  decide +kernel

theorem meets_PacketsStart_words :
    let s : State := { qs (atHead (lineOf 3 0x40 5 1)) [] with
      fab := { sc.fab with host := .up, ports := [(0, { st := .up, enable := true })] }
      mem := pageTable ++ [(0x4010, 0x4F), (0x4011, 0x70), (0x4018, 0x2F), (0x4019, 0x80), (0x401E, 0x50), (0x5040, 5)] }
    s.dv.bad = [] ∧ s.signalTarget 0 0x40 = some (.dev 0x5040) ∧ s.signalTarget 0 0x2040 = some (.host 0x7040) ∧
    s.signalTarget 0 0x3040 = some (.peer 5 0x8040) ∧ s.signalTarget 0 0x6000 = none ∧
    s.waitHolds 0 (lineOf 4 0x40 5 (2 ^ 64 - 1)) = some true ∧ s.waitHolds 0 (lineOf 4 0x40 6 (2 ^ 64 - 1)) = some false ∧
    s.waitHolds 0 (lineOf 4 0x6000 5 0) = none ∧
    (let l := lineOf 4 0x40 5 0
     let t : State := { s with queues := [(3, { atHead l with st := .waiting, since := 1 })], own := 2400 }
     let x := t.queues.get (16 * 0 + 3)
     x.line = some l ∧ x.st = .waiting ∧ x.free l = true ∧ fieldOf l.body 0x34 4 ≠ 0 ∧ l.cmpl = 0 ∧ x.since ≠ 0 ∧
       x.since + fieldOf l.body 0x34 4 * tickCycles s.fab.ticklen ≤ t.own + 1) ∧
    (let p : Packet := { seq := 5 * 2 ^ 32 + 1, type := 5, done := false, counted := false, cmpl := 0 }
     let t := { s with queues := [(3, { st := .idle, packets := [p] })] }
     (t.queues.get 3).packets.find? (fun p => decide (p.type = 5) && !p.done) = some p ∧ p.cmpl = 0 ∧
       (t.ctxs.get 0).posts = [] ∧
       let u : State := { t with ctxs := [(0, { t.ctxs.get 0 with posts := [(3, 0)] })] }
       ∃ y ∈ (u.ctxs.get 0).posts, y.1 < p.seq / 2 ^ 32) := by
  decide +kernel

theorem meets_GangsPlacedGrantedDrained :
    (let s : State := { cx fun c => { c with pairs := [0] } with
       kernels := (sc.kernels ++ [(2, { st := .admitted, desc := { width := 32 } })]), uid := 4 }
     let k := s.kernels.get 2
     k.unplaced = true ∧ (s.ctxs.get k.ctx).admits = true ∧ s.placesNext 2 = true ∧
       (s.ctxs.get k.ctx).pairs.contains (pairOfCore 0) = true ∧ k.desc.level ≠ 2 ∧ s.slotsFor k.desc 0 1 = some [1]) ∧
    (let s : State := { sc with
       gangs := [(1, { sc.gangs.get 1 with st := .resident, granted := false, request := true })]
       kernels := [(1, { sc.kernels.get 1 with desc := { (sc.kernels.get 1).desc with tiles := 2 } })] }
     let g := s.gangs.get 1
     g.st = .resident ∧ g.request = true ∧ s.requestAhead g = false ∧ s.fits g = true ∧ g.waves.Nodup) ∧
    (let s : State := { sc with gangs := [(1, { sc.gangs.get 1 with st := .draining })] }
     (s.gangs.get 1).st = .draining ∧ s.gangQuiet (s.gangs.get 1) = true ∧ (s.kernels.get 1).st ≠ .aborting ∧
       (s.cores.get (coreOf 0)).out = []) ∧
    (let s : State := { sc with
       gangs := [(1, { sc.gangs.get 1 with st := .draining })], kernels := [(1, { sc.kernels.get 1 with st := .aborting })] }
     s.gangQuiet (s.gangs.get 1) = true ∧ (s.kernels.get 1).st = .aborting ∧ ∀ e ∈ s.gangs, e.2.kern = 1 → e.1 = 1) := by
  decide +kernel

/-- Kernel 1 in COMMITTING, its gang gone, its context with a mirror of the page at 0x5000 at the buddy, package 5: header at
0x3000, lines from 0x4000. -/
def mirroring (f : Ctx → Ctx) : State :=
  let s := withPeer { sc with
    gangs := [], kernels := [(1, { sc.kernels.get 1 with
      st := .committing, source := .packet 0 3 5, desc := { (sc.kernels.get 1).desc with nphases := 2 } })]
    ctxs := [(0, f { sc.ctxs.get 0 with jobst := 2, job := {
      num := 7, buddy := 5, mirrors := true, mirbase := 0x3000, mirror := [(0x5000, 0x1000)] } })] }
  { s with mem := s.mem.putAll [(0x4020, 0x2F), (0x4021, 0x90), (0x4026, 0x50)] }

/-- What an address of context 0 maps to. -/
def mapsTo (s : State) (va : Nat) (t : Target) : Bool :=
  match s.walk (s.ctxs.get 0) va with
  | .leaf x _ _ => x == t
  | _ => false

theorem meets_PhaseCommits :
    let k (p n : Nat) : Kernel := { (sc.kernels.get 1) with st := .committing, phase := p, desc := { (sc.kernels.get 1).desc with nphases := n } }
    let s (p n : Nat) : State := { sc with kernels := [(1, k p n)], gangs := [], adds := [{ add0 [] with home := true }] }
    (∀ p, p ∈ [0, 1] → ((s p 2).kernels.get 1).st = .committing ∧ (∀ a ∈ (s p 2).adds.filter (ofKernel 1), a.home = true) ∧
      (∀ e ∈ (s p 2).gangs, e.2.kern ≠ 1) ∧ ((s p 2).ctxs.get 0).job.mirrors = false ∧ ((s p 2).kernels.get 1).launch.cmpl = 0) ∧
    (∀ a ∈ (s 0 2).adds.filter (ofKernel 1), a.tile = [] ∧ a.note = none) ∧
    ((s 0 2).adds.filter (ofKernel 1)).Pairwise (fun a b => a.key < b.key) := by decide +kernel

theorem meets_PhaseCommits_mirrors :
    (∀ m : Nat, m ∈ [0, 1, 2] → ∀ out : List Nat, out ∈ [[], [9]] →
      let t := mirroring fun c => { c with mirStep := m, mirKern := 1, mirOut := out, mirrored := [0x50] }
      let c := t.ctxs.get 0
      (t.kernels.get 1).st = .committing ∧ c.job.mirrors = true ∧ t.adds.filter (ofKernel 1) = [] ∧ t.mirrorHeld c = false ∧
        c.mirStep = m ∧ c.mirKern = 1 ∧ c.mirOut = out ∧ (t.kernels.get 1).source = .packet 0 3 5) ∧
    (let t := mirroring fun c => { c with mirrored := [0x50] }
     (t.ctxs.get 0).job.mirrorOff (256 * 0x50) = some 0 ∧ mapsTo t 0x3000 (.peer 5 0x8000) = true ∧
       mapsTo t ((t.ctxs.get 0).job.mirbase.toNat + 4096 + 256 * (0 / 256)) (.peer 5 0x9000) = true) := by decide +kernel

/-- Graph 1 of one launchable node, at 0x3000, over the leaf of 1 GiB. -/
def graphOf (cells : Mem) (launched : Bool) : State := { oneWave ctl0 with
  mem := bigPage ++ cells
  graphs := [(1, { base := 0x3000, count := 1, live := true, ready := if launched then [] else [0],
                   launched := if launched then [0] else [] })] }

/-- Graph 1 of two nodes at 0x100, which lie at 0x5100; node 0 is launched, node 1 waits for it. The page at 0x2000 is the
host's, the page at 0x3000 package 5's. -/
def twoNodes (cells : List (Nat × Nat × Nat)) (f : Graph → Graph) : State :=
  let s := cachedPages (withPeer (world ctl0 cells))
  { s with
    mem := s.mem.putAll [(0x4010, 0x4F), (0x4011, 0x70)]
    fab := { s.fab with host := .up }
    graphs := [(1, f { base := 0x100, count := 2, live := true, launched := [0] })] }
def chained : State := twoNodes [(0x101, 1, 1), (0x108, 2, 1), (0x144, 2, 1)] id

theorem meets_GraphNodes_finish : arrayAt chained (chained.graphs.get 1) 0x5100 :=
  arrayAt_of (by decide +kernel) (by decide +kernel)

theorem meets_GraphNodes_succs :
    let h := chained.graphs.get 1
    h.live = true ∧ chained.dv.bad = [] ∧ 0 < h.count ∧ chained.mem.readNat (0x5100 + 64 * 0 + 0x18) 8 = 0 ∧
    chained.nodeSuccs h 0 = [1] ∧ (∀ j ∈ [1], j < h.count ∧ j ≠ 0) ∧ [1].Nodup ∧ h.sem = 0 ∧
    (∀ j ∈ [1], chained.nodeSuccs h j = []) ∧
    [1].filter (fun j => decide (chained.mem.readNat (0x5100 + 64 * j + 4) 2 = 1) && chained.mem.get (0x5100 + 64 * j + 6) == 0) = [1] ∧
    h.launched.filter (· ≠ 0) ++ h.ready ++ [1] ≠ [] ∧ h.launched.filter (· ≠ 0) ++ h.ready ++ [] = [] := by decide +kernel

/-- The SIGNAL node's word at an address. -/
def signals (at_ : Nat) : State := twoNodes [(0x100, 1, 3), (0x120, 8, at_), (0x128, 8, 9)] fun g =>
  { g with launched := [], ready := [0] }

theorem meets_GraphNodes_signal :
    ∀ p : Nat × Option Target, p ∈ [(0x40, some (.dev 0x5040)), (0x2040, some (.host 0x7040)), (0x3040, some (.peer 5 0x8040)), (0x6000, none)] →
      let s := launchedNode (signals p.1) 1 0
      let g := s.graphs.get 1
      nodeReady (signals p.1) 1 0 3 = true ∧ s.nodeBody g 0 0 % 8 = 0 ∧ s.nodeField g.ctx g.base.toNat 0 0x30 1 ≤ 1 ∧
        s.feHeld (s.ctxs.get g.ctx) (s.nodeBody g 0 0) 8 = false ∧ s.signalTarget g.ctx (s.nodeBody g 0 0) = p.2 ∧ s.dv.bad = [] := by
  decide +kernel

theorem meets_GraphNodes :
    let copy (dst : Byte) : Mem := [(0x3000, 1), (0x3021, 0x50), (0x3029, dst), (0x3030, 0x10)]
    (nodeReady (graphOf (copy 0x60) false) 1 0 1 = true ∧
      (let s := launchedNode (graphOf (copy 0x60) false) 1 0
       let g := s.graphs.get 1
       s.nodeBody g 0 0 = 0x5000 ∧ s.nodeBody g 0 8 = 0x6000 ∧ s.nodeBody g 0 16 = 16 ∧
       let ls := [mkLock 1 false 0 0x5000 16 false (nodeLock 1 0), mkLock 1 false 0 0x6000 16 true (nodeLock 1 0)]
       s.lockTurn (nodeLock 1 0) 0 ls = true ∧
         ({ s with locks := [mkLock 1 false 0 0x5000 16 true 9] } : State).lockTurn (nodeLock 1 0) 0 ls = false)) ∧
    (nodeReady (graphOf (copy 0x50) false) 1 0 1 = true ∧
      (let s := launchedNode (graphOf (copy 0x50) false) 1 0
       s.nodeBody (s.graphs.get 1) 0 8 = 0x5000)) ∧
    nodeReady (graphOf [(0x3000, 2)] false) 1 0 2 = true ∧ nodeReady (graphOf [(0x3000, 4)] false) 1 0 4 = true ∧
    (let s := launchedNode (graphOf [(0x3000, 3), (0x3020, 1)] false) 1 0
     nodeReady (graphOf [(0x3000, 3), (0x3020, 1)] false) 1 0 3 = true ∧ s.nodeBody (s.graphs.get 1) 0 0 % 8 ≠ 0) := by
  decide +kernel

theorem meets_GraphNodes_complete :
    (let s := (graphOf [(0x3000, 1), (0x3021, 0x50), (0x3029, 0x60), (0x3030, 4)] true).modGraph 1 fun g => { g with copies := [(0, 0, 0)] }
     let g := s.graphs.get 1
     g.live = true ∧ 0 ∈ g.launched ∧ s.graphHeld g 0 = false ∧ (∃ a ∈ g.copies, a.1 = 0) ∧ (s.ctxs.get 0).migrates = false ∧
       (s.ctxs.get 0).lifted = none ∧
       s.copyHeld g 0 = false ∧ s.nodeKind g 0 = 1 ∧ (s.feRead (s.ctxs.get g.ctx) (s.nodeBody g 0 0) 4).any (fun bs =>
       (s.feWrite (s.ctxs.get g.ctx) (s.nodeBody g 0 8) bs).any fun u => !u.graphHeld g 0) = true) ∧
    (let s := graphOf [(0x3000, 1), (0x3026, 1), (0x3029, 0x60), (0x3030, 4)] true
     s.nodeKind (s.graphs.get 1) 0 = 1 ∧ (s.copyBytes (s.graphs.get 1) 0).isNone = true) ∧
    (let s : State := { graphOf [(0x3000, 2)] true with kernels := [(4, { st := .complete, source := .node 1 0 })] }
     s.nodeKind (s.graphs.get 1) 0 = 2 ∧ s.copying (s.graphs.get 1) 0 = false ∧
       s.kernels.find (fun _ k => k.source == .node 1 0 && !k.live) = some (4, s.kernels.get 4)) ∧
    (let s := graphOf [(0x3000, 3)] true
     s.nodeKind (s.graphs.get 1) 0 = 3 ∧ s.copying (s.graphs.get 1) 0 = false ∧ (s.graphs.get 1).asked = [] ∧
       ∀ a : Option Bool, a ∈ [none, some true, some false] →
         (s.modGraph 1 fun g => { g with asked := [(0, 3, a)] }).graphs.get 1 = { s.graphs.get 1 with asked := [(0, 3, a)] } ∧
         s.copying { s.graphs.get 1 with asked := [(0, 3, a)] } 0 = false) ∧
    (let s := (graphOf [(0x3000, 1), (0x3021, 0x50), (0x3029, 0x60), (0x3030, 4)] true).modGraph 1 fun g => { g with asked := [(0, 0, some true)] }
     s.nodeKind (s.graphs.get 1) 0 = 1 ∧ s.copying (s.graphs.get 1) 0 = false) := by
  decide +kernel

/-- A LAUNCH node whose packet at 0x4000 names a kernel descriptor at 0x5000. -/
theorem meets_GraphNodes_launch :
    let s := launchedNode (graphOf [(0x3000, 2), (0x3021, 0x40), (0x4000, 1), (0x4019, 0x50), (0x4028, 1), (0x402C, 1), (0x4030, 1),
      (0x4049, 0x10), (0x5000, 2), (0x5002, 1), (0x5003, 32), (0x5006, 1), (0x5007, 1), (0x5008, 1), (0x5020, 16)] false) 1 0
    let c := s.ctxs.get 0
    let b : List Byte := 1 :: List.replicate 24 0 ++ 0x50 :: List.replicate 14 0 ++ [1, 0, 0, 0, 1, 0, 0, 0, 1] ++
      List.replicate 24 0 ++ 0x10 :: List.replicate 182 0
    s.nodeBody (s.graphs.get 1) 0 0 = 0x4000 ∧ s.feHeld c 0x4000 256 = false ∧ s.feHeld c (fieldOf b 0x18 8) 64 = false ∧ s.feRead c 0x4000 256 = some b ∧ fieldOf b 0 1 = 1 ∧ fieldOf b 0x10 8 % 64 = 0 ∧
    (s.checkLaunch c b).toOption.isSome = true := by decide +kernel

def waits (kind : BarKind) : Wave := { ctl0 with
  arrival := some { kind, gen := 0, start := 0, limit := 5 }, trap := { ctl0.trap with handler := 0x80 } }
def lateTwo (kind : BarKind) (key : Nat) : State := { twoWaves (waits kind) key { arrived := [0], mask := 3 } with own := 9 }

theorem meets_TimersRunOut_waits :
    (∀ p : BarKind × Nat × Nat, p ∈ [(.wg, 0, 0x100), (.gang, 16, 0x200), (.masked 3, 35, 3)] → let s := lateTwo p.1 p.2.1
      s.me.arrival = some { kind := p.1, gen := 0, start := 0, limit := 5 } ∧ 0 + 5 ≤ s.own ∧ s.mayIssue 0 = true ∧ s.me.stq = [] ∧
        s.me.trap.handler ≠ 0 ∧ s.me.nest = false ∧ instanceKey s s.me p.1 = some (p.2.1, p.2.2) ∧
        ((s.gangOf s.me).bars.get p.2.1).gen ≤ 0 ∧ absentees s s.me p.2.1 = [1]) ∧
    (let late (va : Nat) (m : Mem) : State := { oneWave (waits (.dev va 0x5040)) with own := 9, mem := pageTable.putAll m }
     mapsTo (late 0x40 []) 0x40 (.dev 0x5040) = true ∧ (late 0x40 []).mem.readNat (0x5040 + 4) 4 = 0 ∧
       (late 0x40 [(0x5044, 1)]).mem.readNat (0x5040 + 4) 4 ≠ 0 ∧ (late 0x40 [(0x4000, 0x8F)]).walk (sc.ctxs.get 0) 0x40 = .hold ∧
       (late 0x6000 []).walk (sc.ctxs.get 0) 0x6000 = .fault 0) ∧
    (let s := inJob { oneWave (waits (.fabric 2)) with own := 9 } [fb0 0]
     s.fbarOf (s.ctxs.get s.me.id.ctx) 2 = some (fb0 0, 0) ∧ (fb0 0).gen ≤ 0 ∧ s.fbarOf (s.ctxs.get s.me.id.ctx) 3 = none) ∧
    (waits (.chan 0x40 0x5040)).arrival.map (·.kind) = some (.chan 0x40 0x5040) := by decide +kernel

theorem meets_TimersRunOut_others :
    (∀ e : Nat, e ∈ [0, 9] → let s := world ctl0 [(0x40, 4, 2), (0x44, 4, 1), (0x84, 1, 2), (0x88, 8, e)]
     let at_ := s.deqFrames 0x5040
     s.deqOk at_ = true ∧ 0 < s.deqField at_ 0 4 ∧ (∀ k, k < 16 → at_ (0x40 + 16 * 0 + k) = 0x5080 + k) ∧
       s.mem.readNat (0x5080 + 4) 1 ∈ [2, 3] ∧ s.mem.readNat (0x5080 + 8) 8 = e ∧ s.fab.tick = 0) ∧
    (let s : State := { sc with leases := [(4, 100)], cycle := 200 }
     (4, 100) ∈ s.leases ∧ 100 ≤ s.cycle) ∧
    ∀ up : Bool, let e : WcbEntry := { peer := 5, line := 0, cells := [(0, 1)], since := 0, waves := [0], stamp := 0 }
      let s : State := { sc with cores := [(0, { wcb := [e] })], cycle := 2400
                                 fab := { sc.fab with ports := if up then [(0, { st := .up, enable := true })] else [] } }
      (s.cores.get 0).wcb[0]? = some e ∧ e.since + 2400 ≤ s.cycle ∧ s.routed e.peer = up := by decide +kernel

/-- Context 0 bound to job 7 at a level, its page frames in pseudo-channel group 0; package 4, one port up. -/
def bound (level : Nat) : State :=
  let s := inJob sc []
  { s with ctxs := [(0, { s.ctxs.get 0 with level })], fab := { s.fab with ports := [(0, { st := .up, enable := true })] } }
def req (op : PeerOp) : PeerReq := { sender := 5, job := some 7, id := 3, pa := 0x5040, op }

theorem meets_RequestsAndResponses :
    (∀ level : Nat, level ∈ [0, 2] → (bound level).onFabric = true ∧ (bound level).isSelf 5 = false ∧ (bound level).isSelf 4 = true ∧
      (req (.load 8)).job.any (bound level).tickwise = decide (level = 2)) ∧ sc.onFabric = false ∧
    (∀ op, op ∈ [PeerOp.load 8, .store [(0x5040, 1)], .atomic .add .n32 1 0, .sems 1, .semw 0, .semw 1] →
      (bound 0).accepts (req op) = true) ∧ (bound 0).dv.bad = [] ∧ (bound 0).sems.get 0x5040 = [] ∧
    (0 : W64).toNat ≤ (bound 0).mem.readNat 0x5040 8 ∧ (bound 0).mem.readNat 0x5040 8 < (1 : W64).toNat ∧
    (∀ op, op ∈ [PeerOp.load 8, .deque .claim] → (bound 0).accepts { req op with job := none } = false) ∧
    (req (.foreign 5)).op = .foreign 5 ∧
    ∀ level : Nat, level ∈ [0, 2] → ∀ up : Bool, let q : PeerReq := { sender := 4, job := some 7, id := 3, pa := 0x40, op := .load 8 }
      let s : State := { bound level with fab := { (bound level).fab with
        outbox := [{ dest := 5, tick := 0, body := .req q }], ports := if up then [(0, { st := .up, enable := true })] else [] } }
      s.requestOf 3 = some (5, 0, q) ∧ q.job.any s.tickwise = decide (level = 2) ∧ s.ported = up := by decide +kernel

def line9 (sent : Bool) (lanes : W64) : McLine := {
  wave := 0, site := 0, ctx := 0, job := 7, group := 3, off := 0, cells := [(0, 1)], tick := 0, sent, answers := if sent then [(0, some 0xFF), (1, some 0xFF)] else [], remote := [], dest := 12, lanes }
def atSwitch (f : Fabric → Fabric) : State :=
  let s := bound 0
  { s with fab := f { s.fab with groups := [group3], fbars := [fb0 0] } }

/-- A barrier of packages 4 and 5, with a deque at 0x5900 and its cone record from 0x5A00, whose generation g has come. -/
def fbCome (g : Nat) : FBar := { fb0 g with
  gen := g + 1, counts := [(0, g + 1), (1, g + 1)], need := 1, deque := some 0x5900, cone := [(0x5A00, 0x100)]
  times := [[(10, 1), (30, 3)].take (g + 1), [(12, 2), (35, 4)].take (g + 1)], releases := [20, 40].take (g + 1) }

theorem meets_SwitchMessages_barriers :
    (let s := atSwitch id
     s.fbar? 7 2 = some (fb0 0) ∧ (fb0 0).members[1]? = some 5 ∧ s.isSelf 5 = false ∧ s.tickwise 7 = false ∧ s.onFabric = true) ∧
    (let s := atSwitch fun f => { f with outbox := [{ dest := 0xFFFF, tick := 0, body := .fbarArrive 7 2 0 (some 9) }] }
     (fb0 0).members[0]? = some 4 ∧ s.isSelf 4 = true ∧ s.ported = true ∧ ∃ x ∈ s.fab.outbox, x.body = .fbarArrive 7 2 0 (some 9)) ∧
    (∀ g : Nat, g ∈ [0, 1] → let b := fbCome g
      let s := atSwitch fun f => { f with fbars := [b] }
      let T (i : Nat) : Nat := ((b.timeAt i g).map Prod.fst).getD 0
      let places := b.cone.flatMap fun p => (List.range p.2).map (p.1 + ·)
      s.fbar? 7 2 = some b ∧ s.tickwise 7 = false ∧ s.onFabric = true ∧ b.delivered = g ∧ b.delivered < b.gen ∧
        b.members.findIdx? (fun p => s.isSelf p) = some 0 ∧ (∀ i, i < b.members.length → T 0 ≤ T i) ∧ places.Nodup ∧
        (∀ j, j < 8 → places[128 * 1 + 8 * 15 + j]? = some (0x5AF8 + j)) ∧ b.deque = some 0x5900 ∧ 0x5900 + 12 ∉ places) ∧
    (let s : State := { bound 0 with fab := { (bound 0).fab with tick := 3 } }
     s.fab.bound < s.fab.tick ∧ s.tickOpen = false ∧ s.switchCut = false ∧ s.isSelf 5 = false ∧ s.isSelf 4 = true) ∧
    (bound 0).fab.tick ≤ (bound 0).fab.bound ∧
    (let s : State := { bound 0 with fab := { (bound 0).fab with
       tick := 3, ports := [], held := [{ sender := 0xFFFF, tick := 0, msg := .release 7 2 0 }] } }
     s.switchCut = true ∧ s.onFabric = false) := by decide +kernel

theorem meets_SwitchMessages_multicast :
    (let l := line9 false 1
     let s := atSwitch fun f => { f with lines := [(9, some l)] }
     s.lineOf 9 = some l ∧ l.sent = false ∧ s.tickwise l.job = false ∧ s.ported = true ∧
       s.groupOf l.job l.group = some group3 ∧ (group3.members.map McMember.pkg).Nodup ∧
       (group3.members[0]?).any (fun m => !s.lineLocked group3 m l.off l.cells) = true) ∧
    (let l := line9 false 1
     let s : State := { atSwitch id with locks := [mkLock 1 false 0 0 256 false 9] }
     (group3.members[0]?).any (fun m => s.lineLocked group3 m l.off l.cells) = true) ∧
    (∀ n : Nat, n ∈ [0, 1] → let l := line9 true (u64 n)
      let s := atSwitch fun f => { f with lines := [(9, some l)] }
      let off : State := { s with fab := { s.fab with ports := [] }, waves := [(0, waits .gang)] }
      let w := off.waves.get l.wave
      let r := rep 6 0 0
      s.lineOf 9 = some l ∧ s.ported = true ∧ s.tickwise l.job = false ∧ s.lineDone 9 l = true ∧ off.lineOf 9 = some l ∧
        off.ported = false ∧ w.trap.handler ≠ 0 ∧ w.nest = false ∧ w.st = .running ∧ w.midVec = false ∧ w.vec.pend = none ∧
        off.mayTrap l.wave = true ∧ (off.modMe fun w => { w with vec := { w.vec with held := true } }).mayTrap l.wave = false ∧
        (w.setGather (some { site := 0, size := 4, arrived := [], awaited := [], stamp := 0 })).midVec = true ∧
        ({ w with vec := { w.vec with pend := some r } }).midVec = false ∧
        group3.members.find? (fun m => s.isSelf m.pkg) = group3.members[0]? ∧ ∀ a ∈ l.answers, a.2 = some 0xFF) := by decide +kernel

theorem meets_SwitchMessages_collectives :
    let c : Contribution := { job := 7, group := 3, member := 1, op := .add, t := .f32, elems := [0x3F800000] }
    let x (size : Nat) (r : Option (List W64)) : Coll :=
      { job := 7, group := 3, k := 0, op := .add, t := .f32, count := 1, size, parts := [(0, [0])], result := r }
    (∀ size : Nat, size ∈ [2, 3] → let s := atSwitch fun f => { f with colls := [x size none] }
      s.groupOf c.job c.group = some group3 ∧ (group3.members[1]?).any (fun m => !s.isSelf m.pkg) = true ∧ s.tickwise 7 = false ∧
        s.onFabric = true ∧ s.fab.colls = [x size none] ∧
        (∀ p ∈ (x size none).parts, p.1 ≠ c.member)) ∧
    (atSwitch id).fab.colls = [] ∧
    (let r : OwnRed := { uid := 9, job := 7, group := 3, k := 0, st := 2, dst := [(0x5040, 4)] }
     let s := atSwitch fun f => { f with colls := [x 2 (some [7])], reds := [r] }
     s.tickwise 7 = false ∧ s.onFabric = true ∧ s.fab.colls.find? (fun x => x.names 7 3 0) = some (x 2 (some [7])) ∧
       s.fab.reds.find? (fun r => r.job == 7 && r.group == 3 && r.k == 0 && r.st == 2) = some r) := by decide +kernel

theorem meets_LinksAndJobs :
    (∀ st : PortSt, st ∈ [.disabled, .training, .up, .degraded, .lost] → ∀ fw : Bool,
      let s : State := { bound 0 with dv := { sc.dv with fw }, fab := { (bound 0).fab with ports := [(2, { st })] } }
      (s.port 2).st = st ∧ s.fab.set = true ∧ s.dv.fw = fw ∧ ∀ e ∈ s.fab.ports, e.2.enable = false) ∧ sc.fab.set = false ∧
    (∃ e ∈ (bound 0).fab.ports, e.2.enable = true) ∧ ((bound 0).ctxs.get 0).jobst = 2 ∧ ((bound 0).ctxs.get 0).st.haltable = true ∧
    (∀ lines : List Nat, lines ∈ [[0], [0, 1]] →
      let s := mirroring fun c => { c with
        st := .halted, mirrored := if lines = [0] then [0x50] else [], mirCopy := if lines = [0] then [(0, List.replicate 256 1)] else []
        job := { c.job with mirror := [(0x5000, 0x200)] } }
      let c := s.ctxs.get 0
      let cells := (lines.flatMap fun l => (List.range 256).map (256 * l + ·)).map fun a => (a, (1 : BitVec 8))
      cells.map (fun e => e.1) = lines.flatMap (fun l => (List.range 256).map (256 * l + ·)) ∧
        (cells.mapM fun e => (c.job.mirrorAt e.1).map fun pa => (pa, e.2)).isSome = true ∧
        (∀ m ∈ c.mirCopy, m.1 = 0 → m.2 = ((cells.drop (256 * 0)).take 256).map fun e => e.2) ∧ c.jobst = 2 ∧
        c.st ∈ [CtxSt.halted, .ready, .suspended] ∧ s.routed c.job.buddy = true ∧
        if lines = [0] then (c.mirrored.filterMap fun l => (c.job.mirrorOff (256 * l)).map (· / 256)) = lines
        else c.mirCopy = [] ∧ c.mirrored = [] ∧ c.mirHead = [] ∧
          List.range ((c.job.mirror.foldl (fun n p => n + p.2) 0) / 256) = lines) ∧
    (bound 0).routed 0 = true ∧ sc.routed 5 = false ∧
    (let s := mirroring fun c => { c with mirFull := true }
     let c := s.ctxs.get 0
     c.jobst = 2 ∧ c.job.mirrors = true ∧ c.mirFull = true ∧ c.mirStep = 0 ∧ s.routed c.job.buddy = true ∧
       c.job.mirrorAt (256 * 0) = some 0x5000 ∧ c.job.mirrorOff 0x5000 = some (256 * 0) ∧ 0x5000 % 256 = 0 ∧
       mapsTo s (c.job.mirbase.toNat + 4096 + 256 * 0) (.peer 5 0x9000) = true) := by decide +kernel

/-- The job of context 0 with a grace period of 1 ms; package 5 lost at cycle 7, and the own ports at cycle 9. -/
def lostPeer (cycle : Nat) : State :=
  let s := inJob sc [fb0 0]
  { s with
    cycle, ctxs := [(0, { s.ctxs.get 0 with job := { num := 7, grace := 1 } })]
    fab := { s.fab with lost := [(5, 3, 7)], cut := some (4, 9) } }

/-- A lost package of the job that context 0 is bound to. -/
theorem meets_LinksAndJobs_lost (cycle : Nat) : ∀ pkg ∈ [4, 5],
    (lostPeer cycle).jobMember ((lostPeer cycle).ctxs.get 0).job.num pkg = true := by
  have h : ∀ pkg ∈ [4, 5], ((inJob sc [fb0 0]).fab.fbars.any fun b => b.job == 7 && b.members.contains pkg) = true := by decide +kernel
  intro pkg hp
  have e : (lostPeer cycle).jobMember ((lostPeer cycle).ctxs.get 0).job.num pkg =
      ((lostPeer cycle).boundTo 7 pkg || ((inJob sc [fb0 0]).fab.fbars.any fun b => b.job == 7 && b.members.contains pkg) ||
        (lostPeer cycle).fab.groups.any fun g => g.job == 7 && g.members.any fun m => m.pkg == pkg) := rfl
  rw [e, h pkg hp]
  simp

theorem meets_LinksAndJobs_due :
    (∀ p : Nat × Nat × Nat, p ∈ [(5, 3, 7), (4, 4, 9)] → (lostPeer 2400009).lostAt p.1 = some p.2 ∧ (0, p.1) ∉ (lostPeer 2400009).fab.downs ∧
      p.2.2 + 2400000 * ((lostPeer 2400009).ctxs.get 0).job.grace ≤ (lostPeer 2400009).cycle ∧
      (lostPeer 2400006).cycle < p.2.2 + 2400000 * ((lostPeer 2400006).ctxs.get 0).job.grace) ∧
    ((lostPeer 0).ctxs.get 0).jobst = 2 ∧ ((lostPeer 0).ctxs.get 0).st.haltable = true := by decide +kernel

/-- A binding to a job whose barrier, among packages 4 and 5, stands at the switch already; its descriptor is at 0x3000, the
barrier's entry at 0x3100, the members at 0x3200. Another descriptor lies nowhere. -/
theorem meets_LinksAndJobs_bind :
    let s : State := { inJob sc [{ fb0 0 with frac := 50, need := 6 }] with
      mem := bigPage ++ [(0x3002, 1), (0x3009, 0x31), (0x3100, 2), (0x3106, 2), (0x3109, 0x32), (0x3200, 4), (0x3210, 5)]
      ctxs := [(0, { st := .ready, pairs := [0], ways := [0], pcgroups := [0] })] }
    let u := s.unbindCtx 0
    let d (v : BitVec 64) := u.jobDesc (u.ctxs.get 0) (v.toNat % 4096) (v.toNat / 4096 * 4096)
    (s.ctxs.get 0).st ∈ [CtxSt.ready, CtxSt.suspended] ∧ (s.ctxs.get 0).migrates = false ∧
    ({ s.ctxs.get 0 with page := { doing := .migrate 0 0x4000 0x5000 0x7000 9 } } : Ctx).migrates = true ∧
    ((d 0x3007).any fun y => decide (u.bindError (u.ctxs.get 0) 7 (some y) = 0)) = true ∧
    (d (2 ^ 46 + 7)).isNone = true ∧ u.bindError (u.ctxs.get 0) 7 none = 1 := by decide +kernel

def cooling (b : PageBlock) (frames : Tab FrameSt) : State := { oneWave ctl0 with
  dv := { sc.dv with pg := true }, epoch := 5, cycle := 6 * 1024
  ctxs := [(0, { sc.ctxs.get 0 with page := b, frames })] }

theorem meets_PagesCoolAndMigrate :
    (let e : Trimmed := { uid := 9, index := 0, data := 0, info := 0, list := 0 }
     let s := cooling {} [(2, .cooling 1 0 none), (3, .cooling 1 0 (some e)), (4, .cooling 1 0 (some { e with index := 1 }))]
     s.epoch < s.cycle / 1024 ∧ (s.ctxs.get 0).frames.get 2 = .cooling 1 0 none ∧
       (s.ctxs.get 0).frames.get 3 = .cooling 1 0 (some e) ∧ s.listHeld (s.ctxs.get 0) e = false ∧ 0 < s.quiet (s.ctxs.get 0) ∧
       ∀ y ∈ (s.ctxs.get 0).frames, ∀ x ∈ [e, { e with index := 1 }], y.2 = .cooling 1 0 (some x) → x.uid = e.uid → e.index ≤ x.index) ∧
    sc.dv.pg = false ∧
    (let s := cooling { doing := .inv 0 0 0x1000 } []
     s.dv.pg = true ∧ (s.ctxs.get 0).page.doing ≠ .none ∧ 0 < s.quiet (s.ctxs.get 0) ∧
       (∀ l ∈ (s.ctxs.get 0).tlb, l.covers 0 0x1000 = false)) ∧
    ({ page := 0, lvl := 0, entry := 0x4000, e := 0x500F } : CachedLeaf).covers 0 0x1000 = true ∧
    (∀ a : Nat × Nat, a ∈ [(0, 0x1000), (1, 0x1000), (0, 1)] → let s := cooling { arg0 := u64 a.1, arg1 := u64 a.2 } []
      (s.ctxs.get 0).page.doing = .none ∧ (s.ctxs.get 0).page.arg0.toNat = a.1 ∧ (s.ctxs.get 0).page.arg1.toNat = a.2) ∧
    (let s := cooling { arg0 := 0, arg1 := 0x7000 } []
     (s.ctxs.get 0).holds 0x7000 = true ∧ s.migratable (s.ctxs.get 0) 0 = some (0x4000, 0x5000) ∧
       (s.ctxs.get 0).holds (2 ^ 33) = false) ∧
    (cooling {} []).migratable ((cooling {} []).ctxs.get 0) 0x5000 = none ∧
    (∀ fs : FrameSt, fs ∈ [.plain, .held 7, .cooling 1 0 none] → let s := cooling { doing := .migrate 0 0x4000 0x5000 0x7000 9 } [(5, fs)]
     0 < s.quiet (s.ctxs.get 0) ∧ 0x4000 + 8 ≤ 0x7000 ∧ (s.ctxs.get 0).frames.get (0x5000 / 4096) = fs) := by decide +kernel

/-- A page of frames 5 to 8 was known, of which frame 5 is still mapped, and one of frames 0x300 on, which is mapped no more;
both lie in what an INV took. -/
theorem meets_PagesCoolAndMigrate_cools :
    let s := (cooling { doing := .inv 0 0 0x400000 } []).modCtx 0 fun c => { c with mapped := [(0, 5, 4), (0x200000, 0x300, 512)] }
    let now := s.mappedNow (s.ctxs.get 0)
    0 < s.quiet (s.ctxs.get 0) ∧ (∀ l ∈ (s.ctxs.get 0).tlb, l.covers 0 0x400000 = false) ∧
      (∃ x ∈ now, x.2.1 ≤ 5 ∧ 5 < x.2.1 + x.2.2) ∧ (∀ x ∈ now, ¬ (x.2.1 ≤ 7 ∧ 7 < x.2.1 + x.2.2)) ∧
      ∀ x ∈ now, x.2.1 + x.2.2 ≤ 0x300 ∨ 0x300 + 512 ≤ x.2.1 := by decide +kernel

theorem meets_DeviceSteps :
    State.reset.dv.ready.getLsbD 0 = false ∧ ({ fw := true } : Device).ready.getLsbD 4 = false ∧ (cx id).dv.fw = true ∧
    sc.dv.fw = false ∧ (sc.queues.get 4095).st = .disabled ∧ sc.dv.staged = none ∧ sc.dv.ready.getLsbD 3 = false ∧
    (∀ off : Nat, off ∈ [0x1_0000, 0xF_FFF8, 0x24_0000, 0x200_0000] →
      ∀ e : Nat × Nat, e ∈ [(0, 2 ^ 16), (0x10_0000, 2 ^ 20), (0x20_0000, 2 ^ 18), (0x30_0000, 2 ^ 16), (0x40_0000, 2 ^ 16),
          (0x100_0000, 2 ^ 24)] → off < e.1 ∨ e.1 + e.2 ≤ off) ∧
    0x40 % 8 = 0 ∧ 0x40 < 2 ^ 24 ∧ regionOk 5 0x41 = false ∧ regionOk 5 0x40 = true ∧ regionOk 2 0x40 = true ∧ regionOk 0 7 = false ∧
    (sc.dv.sb && sc.dv.standby) = false ∧ ((cx id).dv.sb && (cx id).dv.standby) = true ∧
    (cx id).dv.leaf < 2 ^ 20 ∧
    (∀ v : Bool, let d : Device := { (cx id).dv with bad := [(.hbm, 3)], errValid := v }
     (MemArray.hbm, 3) ∈ d.bad ∧ d.errValid = v) ∧
    (let s : State := { cx id with fab := { sc.fab with host := .up } }
     s.dv.fw = true ∧ s.fab.host = .up ∧ s.dv.bad = [] ∧ s.inDevice 0x5000 8 = true ∧
       [(0x5000, (1 : BitVec 8))].all (fun c => s.inDevice c.1 1) = true) ∧
    sc.fab.host ≠ .up ∧ sc.dv.hbm.getLsbD (0x5000 / 2 ^ 36) = false := by
  decide +kernel

/-- `add.i64` and `fma.f32` at hand in the page at 0x1000; a token; an event. -/
theorem meets_StepRunsDecodedInstruction :
    let code : Mem := pageTable ++ (cellsOf 0x6000 8 0x2420280400000000).filter fun c => c.2 ≠ 0
    let at_ (w : Wave) (r : List Act) : State := { oneWave w with mem := code, sched := r }
    let c := at_ { ctl0 with ctl := { ctl0.ctl with pc := 0x1004 } } [.ctl 0]
    let ps : List W32 := [0x24202804]
    let va : W64 := 0x1004
    let v := at_ (inBlock ctl0 0xF) [.vec 0]
    (c.dv.shut = false ∧ c.mayIssue 0 = true ∧ c.me.vec.pend = none ∧ c.me.vec.back = [] ∧ va.toNat % 4 = 0 ∧ c.dv.bad = [] ∧
      (match c.walk (c.ctxOf c.me) va.toNat with
        | .leaf (.dev pa) perm _ => perm.x && c.mem.readNat pa 4 == 0x24202804
        | _ => false) = true ∧ (decode false ps).toOption.any (fun x => x.2 == 1) = true) ∧
    (v.mayIssue 0 = true ∧ v.me.vec.pend = none ∧ v.me.vec.held = false ∧ v.me.vec.block.any (fun b => decide (b.at_ + 1 ≤ b.len)) = true) ∧
    (let t := at_ { ctl0 with ctl := { ctl0.ctl with queue := [.melse 0] } } [.vec 0]
     t.mayIssue 0 = true ∧ t.me.vec.pend = none ∧ t.me.vec.held = false ∧ t.me.vec.block = none ∧ t.me.ctl.queue.head? = some (.melse 0)) ∧
    (let b := at_ { ctl0 with ctl := { ctl0.ctl with owed := [.pred 1] }, vec := { ctl0.vec with back := [.pred true] } } [.ctl 0]
     b.mayIssue 0 = true ∧ b.me.vec.pend = none ∧ b.me.vec.back ≠ [] ∧ b.me.ctl.owed ≠ []) ∧
    (at_ ctl0 [.choose (.keep 0 true)]).dv.shut = false ∧ (Act.choose (.keep 0 true)).held = false ∧
    Instr.epochAdvance.isEvent = true ∧ Instr.epochAdvance.eventOk = true ∧ (Act.ev .epochAdvance).held = false ∧
    Instr.epochAdvance ∉ [Instr.vrunToken, .maskToken, .requestToken, .backQueueAnswer] ∧
    Sys2Proof.Machine.Instr.onStandby .logReq = true ∧ Instr.logReq.isEvent = true ∧ Instr.logReq.eventOk = true ∧
    (let s : State := { at_ ctl0 [.ev (.operationComplete 9)] with dv := { sc.dv with stopped := true } }
     s.dv.shut = false ∧ s.heldBack = true ∧ (Act.ev (.operationComplete 9)).held = true) ∧
    (let s : State := { sc with dv := { sc.dv with shut := true } }
     s.dv.shut = true ∧ s.onStandby = false) ∧ sc.sched = [] ∧
    sc.sems = [] ∧ sc.late = [] ∧ sc.lockq = [] ∧ (∀ e ∈ sc.ctxs, e.2.jobst ≠ 1 ∧ e.2.frames = []) ∧ sc.fab.outbox = [] := by
  decide +kernel

/-- The digest of "abc", as FIPS 180-4 gives it. -/
theorem test_sha : sha256 [0x61, 0x62, 0x63] = 0xBA7816BF8F01CFEA414140DE5DAE2223B00361A396177A9CB410FF61F20015AD := by
  decide +kernel

theorem meets_EveryStepKeepsMachineInv :
    let s : State := { State.reset with cycle := 1024, sched := [.ev .epochAdvance] }
    (Memory.wf s.mem ∧ Memory.wf s.hostMem ∧ (s.fab.ticklen ≠ 0 → s.fab.sub < 1200 * s.fab.ticklen)) ∧
    gives (step s) (·.epoch) 1 = true := by decide +kernel

theorem meets_DecodeUndoesEncode : (Instr.fma (Gd 3 false 10 2 3 4 0x20)).wf = true ∧
    encode (.fma (Gd 3 false 10 2 3 4 0x20)) = some [0x04143811, 0x00400806] := by decide +kernel

end Sys2Proof.Tests
end

/-!
PROOFS. Reductions and scans (R42, R43, R227, R228): what a vector instruction of one result a lane leaves of its wave,
and the tree and the scan network over sums.
-/
namespace Sys2Proof.Machine

open Sys2Proof.Claim

/-! ### The v registers -/

@[simp] theorem Wave.getV_setV (w : Wave) (r l : Nat) (x : W32) : (w.setV r l x).getV r l = x :=
  Tab.get_put_same _ _ _

/-- A write to one lane of a register leaves every other lane and every other register alone. -/
theorem Wave.getV_setV_ne (w : Wave) {r l r' l' : Nat} (x : W32) (hl : l < 64) (hl' : l' < 64)
    (h : l' ≠ l ∨ r' ≠ r) : (w.setV r l x).getV r' l' = w.getV r' l' :=
  Tab.get_put_ne _ _ (by omega)

@[simp] theorem Wave.getV64_setV64 (w : Wave) (r : Nat) {l : Nat} (x : W64) (hl : l < 64) :
    (w.setV64 r l x).getV64 r l = x := by
  unfold Wave.getV64 Wave.setV64
  rw [Wave.getV_setV, Wave.getV_setV_ne _ _ hl hl (.inr (by omega)), Wave.getV_setV]
  refine BitVec.eq_of_getLsbD_eq fun j hj => BitVec.getLsbD_append.trans ?_
  by_cases h : j < 32
  · simp [h]
  · simp [h, show j - 32 < 32 by omega, show 32 + (j - 32) = j by omega]

/-- A write to one lane of a pair leaves every other lane and every other register alone. -/
theorem Wave.getV_setV64_ne (w : Wave) {r l r' l' : Nat} (x : W64) (hl : l < 64) (hl' : l' < 64)
    (h : l' ≠ l ∨ r' ∉ [r, r + 1]) : (w.setV64 r l x).getV r' l' = w.getV r' l' := by
  simp only [List.mem_cons, List.not_mem_nil, or_false, not_or] at h
  unfold Wave.setV64
  rw [Wave.getV_setV_ne _ _ hl hl' (h.imp_right And.right), Wave.getV_setV_ne _ _ hl hl' (h.imp_right And.left)]

/-! ### Results written by lane (R202) -/

/-- Lane l of register d, or of the pair from d, holds a result of a type. -/
def Wave.HoldsResult (w : Wave) (t : ElemType) (d l x : Nat) : Prop :=
  if t.is64 then w.getV64 d l = u64 x else w.getV d l = i32 (valOf t x)

/-- Whether a lane holds a result rests on its registers alone. -/
theorem Wave.HoldsResult.of_getV {w w' : Wave} {t : ElemType} {d l x : Nat} (h : w.HoldsResult t d l x)
    (hv : ∀ r, w'.getV r l = w.getV r l) : w'.HoldsResult t d l x := by
  unfold Wave.HoldsResult Wave.getV64 at h ⊢
  rwa [hv, hv]

/-- A result is read back where it was written. -/
theorem Wave.holdsResult_vput (w : Wave) (t : ElemType) (d : Nat) {l : Nat} (x : Nat) (hl : l < 64) :
    (w.vput t d l x).HoldsResult t d l x := by
  unfold Wave.HoldsResult Wave.vput
  split_ifs
  · exact Wave.getV64_setV64 w d _ hl
  · exact Wave.getV_setV w d l _

/-- A result leaves every other lane, and every register but its own, alone. -/
theorem Wave.getV_vput_ne (w : Wave) {t : ElemType} {d l r l' : Nat} (x : Nat) (hl : l < 64) (hl' : l' < 64)
    (h : l' ≠ l ∨ r ∉ dstRegs t d) : (w.vput t d l x).getV r l' = w.getV r l' := by
  unfold Wave.vput
  unfold dstRegs at h
  split_ifs at h ⊢
  · exact Wave.getV_setV64_ne w _ hl hl' h
  · exact Wave.getV_setV_ne w _ hl hl' (h.imp_right (by simp))

/-- Results by lane leave every lane they do not name, and every register but their own, alone. -/
theorem Wave.getV_vputs_ne {t : ElemType} {d r l : Nat} (hl : l < 64) (rs : Lanes) :
    ∀ w : Wave, (∀ e ∈ rs, e.1 < 64) → ((∀ e ∈ rs, l ≠ e.1) ∨ r ∉ dstRegs t d) →
      (w.vputs t d rs).getV r l = w.getV r l := by
  induction rs with
  | nil => exact fun _ _ _ => rfl
  | cons e rs ih =>
    intro w hrs h
    rw [List.forall_mem_cons] at hrs
    rw [List.forall_mem_cons] at h
    calc ((w.vput t d e.1 e.2).vputs t d rs).getV r l
        = (w.vput t d e.1 e.2).getV r l := ih _ hrs.2 (h.imp_left And.right)
      _ = w.getV r l := Wave.getV_vput_ne w _ hrs.1 hl (h.imp_left And.left)

/-- Each lane of a list holds its result. -/
theorem Wave.holdsResult_vputs {t : ElemType} {d l : Nat} (g : Nat → Nat) (ls : List Nat) (hls : ∀ k ∈ ls, k < 64) :
    ∀ w : Wave, l ∈ ls → (w.vputs t d (ls.map fun k => (k, g k))).HoldsResult t d l (g l) := by
  induction ls with
  | nil => exact fun _ h => absurd h List.not_mem_nil
  | cons k ls ih =>
    intro w h
    rw [List.forall_mem_cons] at hls
    by_cases hr : l ∈ ls
    · exact ih hls.2 _ hr
    · obtain rfl : l = k := (List.mem_cons.1 h).resolve_right hr
      have hv : ∀ r, ((w.vput t d l (g l)).vputs t d (ls.map fun k => (k, g k))).getV r l =
          (w.vput t d l (g l)).getV r l := fun r =>
        Wave.getV_vputs_ne hls.1 _ _ (List.forall_mem_map.2 hls.2)
          (.inl (List.forall_mem_map.2 fun k hk hlk => hr (hlk ▸ hk)))
      exact (Wave.holdsResult_vput w t d (g l) hls.1).of_getV hv

/-- Results by lane change nothing of the wave but its v registers. -/
theorem Wave.vputs_eq (t : ElemType) (d : Nat) (rs : Lanes) :
    ∀ w : Wave, w.vputs t d rs = { w with vec := { w.vec with v := (w.vputs t d rs).vec.v } } := by
  induction rs with
  | nil => exact fun _ => rfl
  | cons e rs ih =>
    intro w
    have hput : w.vput t d e.1 e.2 = { w with vec := { w.vec with v := (w.vput t d e.1 e.2).vec.v } } := by
      unfold Wave.vput; split_ifs <;> rfl
    calc (w.vput t d e.1 e.2).vputs t d rs
        = { w.vput t d e.1 e.2 with vec := { (w.vput t d e.1 e.2).vec with
            v := ((w.vput t d e.1 e.2).vputs t d rs).vec.v } } := ih _
      _ = { w with vec := { w.vec with v := ((w.vput t d e.1 e.2).vputs t d rs).vec.v } } := by rw [hput]

theorem mem_lanesOf {A : W64} {l : Nat} : l ∈ lanesOf A ↔ l < 64 ∧ A.getLsbD l = true := by
  simp [lanesOf]

/-! ### A vector instruction that changes registers of its wave (R165, R202) -/

/-- The state after a vector instruction whose effect is a change of its wave. -/
def State.vran (s : State) (i : Instr) (g : Wave → Wave) : State :=
  ((s.modMe g).endOwn s.cur true).modMe fun w => w.vadvance (parcelsOfInstr i)

variable {s : State} {i : Instr} {f : Form}

theorem State.me_vran (s : State) (i : Instr) (g : Wave → Wave) :
    (s.vran i g).me = ((g s.me).over true).vadvance (parcelsOfInstr i) := by
  have hend : ((s.modMe g).endOwn s.cur true).me = (g s.me).over true := by
    rw [← State.me_modMe g]; exact State.me_endOwn (s.modMe g) true
  rw [State.vran, State.me_modMe, hend]

theorem State.onlyMe_vran (s : State) (i : Instr) (g : Wave → Wave) : OnlyMe s (s.vran i g) := by
  constructor
  · unfold State.vran
    rw [State.eq_endOwn]
    rfl
  · intro w hw
    calc (s.vran i g).waves.get w
        = ((s.modMe g).endOwn s.cur true).waves.get w := State.get_modMe_ne _ (by simpa using hw)
      _ = (s.modMe g).waves.get w := State.get_endOwn_ne (s.modMe g) true hw
      _ = s.waves.get w := State.get_modMe_ne _ hw

/-- The vector side moves past an instruction that has changed registers of it as it does past any other. -/
theorem Wave.vadvance_over (w : Wave) (n : Nat) (v : Tab W32) (p : Tab W64) (sr : Tab W32) :
    (Wave.over { w with vec := { w.vec with v := v, p := p, sr := sr } } true).vadvance n =
      { w.vadvance n with
        remote := (w.over true).remote
        vec := { (w.vadvance n).vec with v := v, p := p, sr := sr, access := none } } := by
  cases hb : w.vec.block with
  | none => simp [Wave.vadvance, Wave.over, hb]
  | some b =>
    simp only [Wave.vadvance, Wave.over, hb, if_true]
    split_ifs <;> rfl

theorem State.held_of_vecReady (h : vecReady s i f = true) : s.me.st ≠ .free := by
  simp only [vecReady, Bool.and_eq_true, decide_eq_true_eq] at h
  obtain ⟨⟨⟨⟨⟨⟨hrun, _⟩, _⟩, _⟩, _⟩, _⟩, _⟩ := h
  rw [hrun]; decide

/-- A ready vector instruction whose effect is a change of the v and p registers and rounding states of its wave. -/
theorem runVec_wave {body : W64 → State → Eff State} {g : Wave → Wave} {v : Tab W32} {p : Tab W64} {sr : Tab W32}
    (h : vecReady s i f = true) (hb : body (active s f) s = .ok (s.modMe g))
    (hg : g s.me = { s.me with vec := { s.me.vec with v := v, p := p, sr := sr } }) :
    ∃ t, runVec i f body s = .next t ∧ VecDone s t i ∧ t.me.vec.v = v ∧ t.me.vec.p = p ∧ t.me.vec.sr = sr := by
  have hme := State.me_vran s i g
  rw [hg, Wave.vadvance_over] at hme
  refine ⟨s.vran i g, ?_, ⟨State.onlyMe_vran s i g, ?_⟩, by rw [hme], by rw [hme], by rw [hme]⟩
  · have hheld : ((s.modMe g).endOwn s.cur true).me.st ≠ .free := by
      have hend := State.me_endOwn (s.modMe g) true
      rw [State.cur_modMe, State.me_modMe] at hend
      rw [hend, Wave.st_over, hg]
      exact State.held_of_vecReady h
    rw [runVec_done h hb, vleave, State.onMe_of_held hheld]
    rfl
  · rw [VecPast, hme]

/-- A ready vector instruction whose effect is one result for each active lane. -/
theorem runVec_lanes {body : W64 → State → Eff State} {dt : ElemType} {d : Nat} {g : Nat → Nat}
    (h : vecReady s i f = true) (hb : body (active s f) s = .ok (s.vputs dt d (lanesMap (active s f) g))) :
    ∃ t, runVec i f body s = .next t ∧ VecDone s t i ∧ t.me.vec.p = s.me.vec.p ∧ t.me.vec.sr = s.me.vec.sr ∧
      LanesHold s t dt d (active s f) g := by
  obtain ⟨t, hrun, hdone, hv, hp, hsr⟩ := runVec_wave h hb (Wave.vputs_eq dt d _ s.me)
  have hget : ∀ l r, t.me.getV r l = (s.me.vputs dt d (lanesMap (active s f) g)).getV r l :=
    fun l r => congrArg (fun v : Tab W32 => v.get (64 * r + l)) hv
  have hlanes : ∀ k ∈ lanesOf (active s f), k < 64 := fun k hk => (mem_lanesOf.1 hk).1
  refine ⟨t, hrun, hdone, hp, hsr, fun l hl => ⟨fun hA => ?_, fun r hr => ?_⟩⟩
  · exact (Wave.holdsResult_vputs g _ hlanes s.me (mem_lanesOf.2 ⟨hl, hA⟩)).of_getV (hget l)
  · rw [hget]
    refine Wave.getV_vputs_ne hl _ s.me (List.forall_mem_map.2 hlanes)
      (hr.imp_left fun hA => List.forall_mem_map.2 fun k hk hlk => ?_)
    obtain rfl : l = k := hlk
    exact Bool.eq_false_iff.1 hA (mem_lanesOf.1 hk).2

/-- Results that are finite where NONFINITE is on, or of no floating type, pass its check (R48). -/
theorem State.checkFinite_lanesMap {t : ElemType} {A : W64} {g : Nat → Nat} (info : Nat → Report)
    (h : s.me.trap.trapen.getLsbD 0 = false ∨ t.isFloat = false ∨ finiteOk s t A g = true) :
    s.checkFinite t info (lanesMap A g) = .ok () := by
  unfold State.checkFinite State.nfOn
  rcases h with h | h | h
  · rw [h]; rfl
  · rw [h, Bool.not_false, Bool.or_true]; rfl
  · rcases Bool.or_eq_true_iff.1 h with hoff | hfin
    · rw [hoff]; rfl
    · have hnone : (lanesMap A g).find? (fun e => (fmtOf t).nonFinite e.2) = none := by
        simpa [lanesMap] using hfin
      split_ifs
      · rfl
      · rw [hnone]; rfl

/-! ### Reductions and scans (R227, R228) -/

/-- A ready reduction or scan gives every active lane its result, a NaN as the canonical one (R23). -/
theorem runReduce_done {g : Nat → List Nat → Nat → Nat} (h : vecReady s i f = true)
    (hr : regsIn s (dstRegs f.type f.d.toNat ++ formRegs1 f f.type) = true) {r : Nat → Nat}
    (hg : r = fun l => canonNan f.type (g (Nat.log2 s.me.id.width) (s.me.redSources f (active s f)) l))
    (hfin : s.me.trap.trapen.getLsbD 0 = false ∨ f.type.isFloat = false ∨
      finiteOk s f.type (active s f) r = true) :
    ∃ t, runReduce i f g s = .next t ∧ VecDone s t i ∧ t.me.vec.p = s.me.vec.p ∧ t.me.vec.sr = s.me.vec.sr ∧
      LanesHold s t f.type f.d.toNat (active s f) r := by
  refine runVec_lanes h ?_
  subst hg
  simp only [State.checkRegs_of_in hr, State.checkFinite_lanesMap _ hfin, bind, Except.bind, pure, Except.pure]

theorem exec_redLanes (f : Form) (s : State) : exec (.redLanes f) s = execRedLanes f s := rfl
theorem exec_scanLanes (f : Form) (s : State) : exec (.scanLanes f) s = execScanLanes f s := rfl

/-! ### The tree of R42 over sums -/

@[simp] theorem sum_treeLevel : ∀ x : List Nat, (treeLevel (· + ·) x).sum = x.sum
  | [] => rfl
  | [_] => rfl
  | a :: b :: r => by simp [treeLevel, sum_treeLevel r, Nat.add_assoc]

theorem length_treeLevel (op : Nat → Nat → Nat) : ∀ x : List Nat, (treeLevel op x).length = (x.length + 1) / 2
  | [] => rfl
  | [_] => by simp [treeLevel]
  | a :: b :: r => by
    simp only [treeLevel, List.length_cons, length_treeLevel op r]
    omega

/-- The tree over 2^n numbers leaves their sum. -/
theorem treeRed_add (n : Nat) : ∀ x : List Nat, x.length = 2 ^ n → treeRed (· + ·) n x = [x.sum] := by
  induction n with
  | zero =>
    intro x hx
    obtain ⟨a, rfl⟩ := List.length_eq_one_iff.1 hx
    simp [treeRed]
  | succ n ih =>
    intro x hx
    have hlen : (treeLevel (· + ·) x).length = 2 ^ n := by rw [length_treeLevel, hx, Nat.pow_succ]; omega
    rw [treeRed, ih _ hlen, sum_treeLevel]

/-! ### The network of R43 over sums -/

theorem getElem?_scanStep_lt (op : Nat → Nat → Nat) {d l : Nat} {y : List Nat} (hl : l < d) (hy : l < y.length) :
    (scanStep op d y)[l]? = y[l]? := by
  rw [scanStep, List.getElem?_append_left (by simp; omega), List.getElem?_take_of_lt hl]

theorem getElem?_scanStep_ge (op : Nat → Nat → Nat) {d l a b : Nat} {y : List Nat} (hl : d ≤ l)
    (ha : y[l - d]? = some a) (hb : y[l]? = some b) : (scanStep op d y)[l]? = some (op a b) := by
  have hlen : (y.take d).length = d := by
    have := (List.getElem?_eq_some_iff.1 hb).1
    simp; omega
  rw [scanStep, List.getElem?_append_right (by omega), hlen, List.getElem?_map, List.zip, List.getElem?_zipWith, ha,
    List.getElem?_drop, Nat.add_sub_cancel' hl, hb]
  rfl

/-- Before the step at distance d of a scan of sums, lane l holds the sum of the d lanes up to l, or of all of them where
there are fewer (R43). -/
def WindowSums (x y : List Nat) (d : Nat) : Prop :=
  ∀ l, l < x.length → ∃ v, y[l]? = some v ∧ v + (x.take (l + 1 - d)).sum = (x.take (l + 1)).sum

theorem WindowSums.self (x : List Nat) : WindowSums x x 1 := fun l hl =>
  ⟨x[l], List.getElem?_eq_getElem hl, by
    rw [Nat.add_sub_cancel, List.take_add_one, List.sum_append, List.getElem?_eq_getElem hl]
    simp [Nat.add_comm]⟩

/-- A step doubles the windows. -/
theorem WindowSums.scanStep {x y : List Nat} {d : Nat} (h : WindowSums x y d) :
    WindowSums x (scanStep (· + ·) d y) (2 * d) := by
  intro l hl
  obtain ⟨b, hb, hbsum⟩ := h l hl
  by_cases hd : l < d
  · refine ⟨b, by rw [getElem?_scanStep_lt _ hd (List.getElem?_eq_some_iff.1 hb).1, hb], ?_⟩
    rwa [show l + 1 - 2 * d = l + 1 - d by omega]
  · obtain ⟨a, ha, hasum⟩ := h (l - d) (by omega)
    refine ⟨a + b, getElem?_scanStep_ge _ (by omega) ha hb, ?_⟩
    rw [show l - d + 1 = l + 1 - d by omega] at hasum
    rw [show l + 1 - 2 * d = l + 1 - d - d by omega]
    omega

theorem WindowSums.scanAll {x : List Nat} (n : Nat) :
    ∀ {y : List Nat} {d : Nat}, WindowSums x y d → WindowSums x (scanAll (· + ·) n d y) (2 ^ n * d) := by
  induction n with
  | zero => intro y d h; simpa [Machine.scanAll] using h
  | succ n ih =>
    intro y d h
    rw [Nat.pow_succ, Nat.mul_assoc]
    exact ih h.scanStep

/-- The network over 2^n numbers leaves their running sums. -/
theorem scanAll_add (n : Nat) (x : List Nat) (hx : x.length = 2 ^ n) {l : Nat} (hl : l < 2 ^ n) :
    (scanAll (· + ·) n 1 x)[l]? = some (x.take (l + 1)).sum := by
  obtain ⟨v, hv, hsum⟩ := (WindowSums.self x).scanAll n l (by omega)
  rw [show l + 1 - 2 ^ n * 1 = 0 by omega, List.take_zero, List.sum_nil, Nat.add_zero] at hsum
  rw [hv, hsum]

/-- Settles O29: the instructions by the lemma for results of one lane each; the sums by induction on the levels of the
tree, and by the windows that each step of the scan doubles. -/
theorem reductionsAndScans : Obligations.ReductionsAndScans := by
  unfold Obligations.ReductionsAndScans
  constructor
  · rintro i f s g x n (⟨rfl, hg⟩ | ⟨rfl, hg⟩) hready hregs hfin
    · rw [exec_redLanes]
      exact runReduce_done hready hregs hg hfin
    · rw [exec_scanLanes]
      exact runReduce_done hready hregs hg hfin
  · exact fun n x hx => ⟨treeRed_add n x hx, fun l hl => scanAll_add n x hx hl⟩

end Sys2Proof.Machine

/-!
PROOFS. Gangs (R128, R142–R144, R153–R159): a wave at its entry, the tiles a grant gives, and what a drained gang leaves.
-/
namespace Sys2Proof.Machine

open Sys2Proof.Claim

/-! ### Tables written entry by entry -/

section
variable {α : Type} [Inhabited α] [DecidableEq α]

/-- Of several writes to different keys, each stands. -/
theorem Tab.get_putAll_of_mem {e : Nat × α} (l : List (Nat × α)) :
    ∀ t : Tab α, (l.map Prod.fst).Nodup → e ∈ l → (t.putAll l).get e.1 = e.2 := by
  induction l with
  | nil => exact fun _ _ h => absurd h List.not_mem_nil
  | cons x r ih =>
    intro t hnd he
    obtain ⟨hx, hr⟩ := List.nodup_cons.1 hnd
    rcases List.mem_cons.1 he with rfl | he
    · exact (Tab.get_putAll_ne r _ fun y hy hxy => hx (List.mem_map.2 ⟨y, hy, hxy.symm⟩)).trans (Tab.get_put_same t e.1 e.2)
    · exact ih _ hr he

/-- Values written to the keys below n. -/
theorem Tab.get_putAll_range (f : Nat → α) {n k : Nat} (hk : k < n) :
    Tab.get (Tab.putAll [] ((List.range n).map fun i => (i, f i))) k = f k :=
  Tab.get_putAll_of_mem (e := (k, f k)) _ [] (by simpa [Function.comp_def] using List.nodup_range)
    (List.mem_map_of_mem (List.mem_range.2 hk))

theorem Tab.foldl_put_eq_putAll {β : Type} (f : β → Nat) (g : β → α) (l : List β) :
    ∀ t : Tab α, l.foldl (fun t e => t.put (f e) (g e)) t = t.putAll (l.map fun e => (f e, g e)) := by
  induction l with
  | nil => exact fun _ => rfl
  | cons e r ih => exact fun t => ih _

omit [DecidableEq α] in
/-- A table without the entries whose key fails a test. -/
theorem Tab.get_filter_keys (p : Nat → Bool) (k : Nat) :
    ∀ t : Tab α, Tab.get (t.filter fun e => p e.1) k = if p k then t.get k else default
  | [] => by simp [Tab.get]
  | (j, x) :: r => by
    rw [List.filter_cons]
    by_cases hk : j = k
    · subst hk
      by_cases hj : p j = true
      · simp [hj, Tab.get]
      · simp [hj, Tab.get_filter_keys p j r]
    · split_ifs <;> simp [Tab.get, Tab.get_filter_keys p k r, *]

omit [Inhabited α] [DecidableEq α] in
theorem Tab.mem_erase {e : Nat × α} {k : Nat} : ∀ {t : Tab α}, e ∈ t.erase k → e ∈ t ∧ e.1 ≠ k
  | [], h => absurd h List.not_mem_nil
  | (j, x) :: r, h => by
    unfold Tab.erase at h
    split_ifs at h with hj
    · exact (Tab.mem_erase h).imp_left (List.mem_cons_of_mem _)
    · rcases List.mem_cons.1 h with rfl | h
      · exact ⟨List.mem_cons_self, hj⟩
      · exact (Tab.mem_erase h).imp_left (List.mem_cons_of_mem _)

/-- An entry left after the default is written to a key was there, at another key. -/
theorem Tab.mem_put_default {e : Nat × α} {k : Nat} {t : Tab α} (h : e ∈ t.put k default) : e ∈ t ∧ e.1 ≠ k := by
  rw [Tab.put, if_pos rfl] at h
  exact Tab.mem_erase h

end

/-! ### A wave at its entry (R142, R167) -/

/-- The s registers a wave starts with (R142). -/
def startReg (k : Kernel) (task wave : Nat) : Nat → W64
  | 1 => k.launch.args
  | 2 => u64 task
  | 3 => u64 k.phase
  | 4 => u64 wave
  | 5 => u64 (task % k.launch.gx)
  | 6 => u64 (task / k.launch.gx % k.launch.gy)
  | 7 => u64 (task / (k.launch.gx * k.launch.gy))
  | 8 => spillBase k task wave
  | 62 => 0x0D80
  | _ => 0

theorem ctl_s_startWave (kid gid : Nat) (k : Kernel) (g m : Nat) : (startWave kid gid k g m).ctl.s =
    Tab.putAll [] ((List.range 64).map fun n =>
      (n, startReg k (g * k.desc.gangwg + m / k.desc.wgwaves) (m % k.desc.wgwaves) n)) := by
  unfold startWave
  dsimp only
  congr 2

theorem startReg_other {k : Kernel} {task wave n : Nat} (h : n = 0 ∨ 9 ≤ n ∧ n ≠ 62) : startReg k task wave n = 0 := by
  unfold startReg
  split <;> simp_all

theorem getS_startWave (kid gid : Nat) (k : Kernel) (g m : Nat) {n : Nat} (h0 : n ≠ 0) (hn : n < 64) :
    (startWave kid gid k g m).getS n =
      startReg k (g * k.desc.gangwg + m / k.desc.wgwaves) (m % k.desc.wgwaves) n := by
  rw [Wave.getS, if_neg h0, ctl_s_startWave]
  exact Tab.get_putAll_range _ hn

theorem getS_startWave_other (kid gid : Nat) (k : Kernel) (g m : Nat) {n : Nat} (h : n = 0 ∨ 9 ≤ n ∧ n ≠ 62) :
    (startWave kid gid k g m).getS n = 0 := by
  by_cases h0 : n = 0
  · rw [h0, Wave.getS_zero]
  by_cases hn : n < 64
  · rw [getS_startWave _ _ _ _ _ h0 hn, startReg_other h]
  · rw [Wave.getS, if_neg h0, ctl_s_startWave]
    exact Tab.get_putAll_ne _ _ (by simp; omega)

/-- The start state of a lane mixes the two halves of the seed with the logical ids (R36). -/
theorem srStart_eq (seed : W64) (task wave lane : Nat) : srStart seed task wave lane =
    let r := seed.setWidth 32 ^^^ (seed >>> 32).setWidth 32 ^^^ BitVec.ofNat 32 (task * 0x9E3779B1) ^^^
      BitVec.ofNat 32 (wave * 0x85EBCA77) ^^^ BitVec.ofNat 32 (lane * 0xC2B2AE3D)
    if r = 0 then 1 else r := by
  have hlo : seed.extractLsb' 0 32 = seed.setWidth 32 := by ext; simp
  have hhi : seed.extractLsb' 32 32 = (seed >>> 32).setWidth 32 := by ext; simp
  rw [← hlo, ← hhi]
  rfl

/-- The wave that PLACE puts in a slot is at its entry (R142). -/
theorem startsAs_startWave (kid gid : Nat) (k : Kernel) (m : Nat) :
    StartsAs (startWave kid gid k k.placed m) kid gid k m := by
  have hs {n : Nat} (h0 : n ≠ 0) (hn : n < 64) := getS_startWave kid gid k k.placed m h0 hn
  refine ⟨rfl, rfl, rfl, rfl, rfl, rfl, rfl, rfl, rfl, rfl, rfl, rfl, rfl, rfl, hs (by decide) (by decide),
    hs (by decide) (by decide), hs (by decide) (by decide), hs (by decide) (by decide), hs (by decide) (by decide),
    hs (by decide) (by decide), hs (by decide) (by decide), hs (by decide) (by decide), hs (by decide) (by decide),
    fun n => getS_startWave_other kid gid k k.placed m, ?_, ?_, ?_, ?_, fun r x => rfl,
    fun n hn => by rw [Wave.getP, if_neg (by omega)]; rfl, rfl, rfl, rfl,
    fun x hx => (Tab.get_putAll_range _ hx).trans (srStart_eq _ _ _ _)⟩
  all_goals simp [startWave, Tab.putAll, Tab.get_put]

/-! ### Placement (R153) -/

theorem State.freeSlots_nodup (s : State) (core : Nat) : (s.freeSlots core).Nodup := by
  refine List.Nodup.filterMap (fun a b w ha hb => ?_) List.nodup_range
  simp only [Option.mem_def, Option.ite_none_right_eq_some, Option.some.injEq] at ha hb
  omega

theorem State.mem_freeSlots {s : State} {core w : Nat} (h : w ∈ s.freeSlots core) :
    (s.waves.get w).st = .free ∧ coreOf w = core := by
  simp only [State.freeSlots, List.mem_filterMap, List.mem_range] at h
  obtain ⟨k, hk, hw⟩ := h
  split_ifs at hw with hf
  cases hw
  exact ⟨hf, by unfold coreOf; omega⟩

theorem partner_ne (core : Nat) : partner core ≠ core := by
  unfold partner; split_ifs <;> omega

/-- The slots a gang takes are free and different, one for each of its waves. -/
theorem State.slotsFor_spec {s : State} {d : KDesc} {core split : Nat} {slots : List Nat}
    (h : s.slotsFor d core split = some slots) :
    slots.length = d.gangwg * d.wgwaves ∧ slots.Nodup ∧ ∀ w ∈ slots, (s.waves.get w).st = .free := by
  unfold State.slotsFor at h
  dsimp only at h
  split_ifs at h with hwhole hlen hsplit
  · cases h
    exact ⟨by simpa using hlen, (s.freeSlots_nodup core).sublist (List.take_sublist _ _),
      fun w hw => (State.mem_freeSlots (List.mem_of_mem_take hw)).1⟩
  · cases h
    simp only [Bool.and_eq_true, decide_eq_true_eq] at hsplit
    obtain ⟨⟨⟨⟨⟨-, -⟩, hlt⟩, -⟩, hhere⟩, hthere⟩ := hsplit
    have ha : split * d.wgwaves ≤ d.gangwg * d.wgwaves := Nat.mul_le_mul_right _ hlt.le
    refine ⟨by simp; omega, ?_, ?_⟩
    · refine List.Nodup.append ((s.freeSlots_nodup core).sublist (List.take_sublist _ _))
        ((s.freeSlots_nodup (partner core)).sublist (List.take_sublist _ _)) fun w h1 h2 => partner_ne core ?_
      have hthere := (State.mem_freeSlots (List.mem_of_mem_take h2)).2
      exact hthere.symm.trans (State.mem_freeSlots (List.mem_of_mem_take h1)).2
    · intro w hw
      rcases List.mem_append.1 hw with hw | hw <;> exact (State.mem_freeSlots (List.mem_of_mem_take hw)).1

theorem State.eq_occupy (s : State) (wi : Nat) (w : Wave) :
    s.occupy wi w = { s with waves := s.waves.put wi w, dv := (s.occupy wi w).dv } := by
  unfold State.occupy
  dsimp only
  split <;> rfl

/-- Filling the slots of a gang writes their waves, and in the device at most its marks of bad granules. -/
theorem State.eq_foldl_occupy (g : Nat → Wave) (l : List (Nat × Nat)) : ∀ s : State, ∃ d,
    l.foldl (fun s e => s.occupy e.1 (s.inSlot e.1 (g e.2))) s =
      { s with waves := s.waves.putAll (l.map fun e => (e.1, s.inSlot e.1 (g e.2))), dv := d } := by
  induction l with
  | nil => exact fun s => ⟨s.dv, rfl⟩
  | cons e r ih =>
    intro s
    obtain ⟨d, hd⟩ := ih (s.occupy e.1 (s.inSlot e.1 (g e.2)))
    refine ⟨d, ?_⟩
    rw [List.foldl_cons, hd, State.eq_occupy]
    rfl

theorem exec_placeGang (kid core split : Nat) (s : State) :
    exec (.placeGang kid core split) s = execPlaceGang kid core split s := rfl

/-- A context that admits a gang runs once it is placed. -/
theorem Ctx.running_of_admits {c : Ctx} (h : c.admits = true) :
    (if c.st = .ready then { c with st := .running } else c).st = .running := by
  unfold Ctx.admits at h
  split at h <;> simp_all

/-- PLACE where its condition holds: the slots' waves are written, and nothing of memory. -/
theorem exec_placeGang_placed {s : State} {kid core split : Nat} {slots : List Nat} {k : Kernel}
    (hk : s.kernels.get kid = k) (hu : k.unplaced = true) (ha : (s.ctxs.get k.ctx).admits = true)
    (hn : s.placesNext kid = true) (hp : (s.ctxs.get k.ctx).pairs.contains (pairOfCore core) = true)
    (hl : k.desc.level = 2 → s.fab.sync = true) (hs : s.slotsFor k.desc core split = some slots) :
    ∃ t, exec (.placeGang kid core split) s = .next t ∧ t.mem = s.mem ∧
      t.waves = s.waves.putAll
        (slots.zipIdx.map fun e => (e.1, s.inSlot e.1 (startWave kid (s.uid + 1) k k.placed e.2))) ∧
      t.gangs = s.gangs.put (s.uid + 1)
        { (default : Gang) with st := .resident, ctx := k.ctx, kern := kid, index := k.placed, waves := slots } ∧
      t.kernels = s.kernels.modify kid (fun x => { x with st := .running, placed := x.placed + 1 }) ∧
      t.ctxs = s.ctxs.modify k.ctx fun c => if c.st = .ready then { c with st := .running } else c := by
  have hsync : (k.desc.level = 2 && !s.fab.sync) = false := by simpa using hl
  obtain ⟨d, hd⟩ := State.eq_foldl_occupy (startWave kid (s.uid + 1) k k.placed) slots.zipIdx s.fresh.2
  simp only [exec_placeGang, execPlaceGang, orSame, tryPlaceGang, hk, hu, ha, hn, hp, hs, hsync]
  refine ⟨_, rfl, ?_⟩
  simp only [Bool.not_true, Bool.or_self, Bool.false_eq_true, if_false, Option.getD_some, State.fresh] at hd ⊢
  rw [hd]
  exact ⟨rfl, rfl, rfl, rfl, rfl⟩

/-! ### Grant (R159, R277) -/

theorem mem_insertSorted {x y : Nat} : ∀ {l : List Nat}, y ∈ insertSorted x l ↔ y = x ∨ y ∈ l
  | [] => by simp [insertSorted]
  | z :: r => by
    unfold insertSorted
    split_ifs
    · simp
    · simp only [List.mem_cons, mem_insertSorted]; tauto

theorem mem_sortNat {x : Nat} {l : List Nat} : x ∈ sortNat l ↔ x ∈ l := by
  have h : ∀ (l acc : List Nat), x ∈ l.foldl (fun acc y => insertSorted y acc) acc ↔ x ∈ l ∨ x ∈ acc := by
    intro l
    induction l with
    | nil => simp
    | cons y r ih => intro acc; rw [List.foldl_cons, ih, mem_insertSorted, List.mem_cons]; tauto
  simpa [sortNat] using h l []

theorem Gang.mem_cores {g : Gang} {w : Nat} (h : w ∈ g.waves) : coreOf w ∈ g.cores := by
  rw [Gang.cores, List.mem_eraseDups, mem_sortNat]
  exact List.mem_map_of_mem h

theorem CoreSt.mem_freeTiles {c : CoreSt} {p : Nat} : p ∈ c.freeTiles ↔ p < 256 ∧ c.owner.get p = .free := by
  simp [CoreSt.freeTiles]

theorem CoreSt.freeTiles_nodup (c : CoreSt) : c.freeTiles.Nodup := List.nodup_range.filter _

/-- Every tile of a core that is not listed with an owner is free. -/
theorem CoreSt.length_freeTiles (c : CoreSt) : 256 - c.owner.length ≤ c.freeTiles.length := by
  have hsplit := List.length_eq_length_filter_add (l := List.range 256) fun t => c.owner.get t == .free
  have htaken : ((List.range 256).filter fun t => !(c.owner.get t == .free)).length ≤ (Tab.keys c.owner).length := by
    refine (List.subperm_of_subset (List.nodup_range.filter _) fun p hp => ?_).length_le
    by_contra hk
    have hfree : c.owner.get p = .free := Tab.get_of_not_mem hk
    simp [hfree] at hp
  rw [List.length_range] at hsplit
  rw [Tab.keys, List.length_map] at htaken
  unfold CoreSt.freeTiles
  omega

/-- A gang that fits finds a free tile for every own tile of each of its waves (R158). -/
theorem State.fits_tiles {s : State} {g : Gang} (h : s.fits g = true) {w : Nat} (hw : w ∈ g.waves) :
    (g.waves.filter fun x => coreOf x == coreOf w).length * (s.kernels.get g.kern).desc.tiles ≤
      (s.cores.get (coreOf w)).freeTiles.length := by
  have hover := List.all_eq_true.1 h _ (Gang.mem_cores hw)
  refine le_trans ?_ (CoreSt.length_freeTiles _)
  dsimp only at hover
  unfold overPool at hover
  split_ifs at hover with h1 h2 h3
  · exact absurd hover (by simp)
  · exact absurd hover (by simp)
  · exact absurd hover (by simp)
  · exact Nat.le_of_not_lt h3

/-- What stays free once the first n free tiles are owned. -/
theorem CoreSt.freeTiles_give (c c' : CoreSt) (w n : Nat)
    (h : c'.owner = (c.freeTiles.take n).foldl (fun o t => o.put t (.wave w)) c.owner) :
    c'.freeTiles = c.freeTiles.drop n := by
  have hnd : (c.freeTiles.take n ++ c.freeTiles.drop n).Nodup := by
    rw [List.take_append_drop]; exact c.freeTiles_nodup
  have hdisj := (List.nodup_append'.1 hnd).2.2
  have hget (p : Nat) : (c'.owner.get p == .free) = (!(c.freeTiles.take n).contains p && (c.owner.get p == .free)) := by
    rw [h, Tab.get_foldl_put (fun _ => TileOwner.wave w)]
    by_cases hp : p ∈ c.freeTiles.take n <;> simp [hp]
  calc c'.freeTiles = c.freeTiles.filter fun p => !(c.freeTiles.take n).contains p := by
        simp only [CoreSt.freeTiles, hget, List.filter_filter]
    _ = (c.freeTiles.take n ++ c.freeTiles.drop n).filter fun p => !(c.freeTiles.take n).contains p := by
        rw [List.take_append_drop]
    _ = c.freeTiles.drop n := by
        rw [List.filter_append, List.filter_eq_nil_iff.2 (by simp), List.nil_append, List.filter_eq_self]
        exact fun p hp => by simpa using fun hp' => hdisj hp' hp

/-- Tiles 0 to n − 1 of a wave are physical tiles that were free in s, are its own in t, and hold +0 (R277). -/
def GivenTiles (s t : State) (w n : Nat) : Prop :=
  ∀ j, j < n → ∃ p, p < 256 ∧ (t.waves.get w).tiles.get j = p + 1 ∧ (s.cores.get (coreOf w)).owner.get p = .free ∧
    (t.cores.get (coreOf w)).owner.get p = .wave w ∧ ∀ q, q < 1024 → entryOf t (coreOf w) p q = 0

/-- What giving tiles to the waves of a list leaves alone. -/
structure KeepsTiles (s t : State) (ws : List Nat) : Prop where
  mem : t.mem = s.mem
  gangs : t.gangs = s.gangs
  owned : ∀ core p, (s.cores.get core).owner.get p ≠ .free → (t.cores.get core).owner.get p = (s.cores.get core).owner.get p
  zero : ∀ core i, (s.cores.get core).entries.get i = 0 → (t.cores.get core).entries.get i = 0
  waves : ∀ w, w ∉ ws → t.waves.get w = s.waves.get w
  regs : ∀ w, (t.waves.get w).ctl = (s.waves.get w).ctl ∧ (t.waves.get w).vec = (s.waves.get w).vec

theorem KeepsTiles.refl (s : State) (ws : List Nat) : KeepsTiles s s ws :=
  ⟨rfl, rfl, fun _ _ _ => rfl, fun _ _ h => h, fun _ _ => rfl, fun _ => ⟨rfl, rfl⟩⟩

theorem KeepsTiles.trans {s t u : State} {w : Nat} {ws : List Nat} (h : KeepsTiles s t [w]) (h' : KeepsTiles t u ws) :
    KeepsTiles s u (w :: ws) where
  mem := h'.mem.trans h.mem
  gangs := h'.gangs.trans h.gangs
  owned core p hp := (h'.owned core p (by rwa [h.owned core p hp])).trans (h.owned core p hp)
  zero core i hz := h'.zero core i (h.zero core i hz)
  waves x hx := (h'.waves x fun hm => hx (List.mem_cons_of_mem _ hm)).trans
    (h.waves x fun hm => hx (List.mem_singleton.1 hm ▸ List.mem_cons_self))
  regs x := ⟨(h'.regs x).1.trans (h.regs x).1, (h'.regs x).2.trans (h.regs x).2⟩

/-- Tiles given stay given while other waves get theirs. -/
theorem GivenTiles.keep {s t u : State} {w n : Nat} {ws : List Nat} (h : GivenTiles s t w n) (hk : KeepsTiles t u ws)
    (hw : w ∉ ws) : GivenTiles s u w n := fun j hj => by
  obtain ⟨p, hp, htile, hfree, hown, hzero⟩ := h j hj
  refine ⟨p, hp, by rw [hk.waves w hw, htile], hfree, ?_, fun q hq => hk.zero _ _ (hzero q hq)⟩
  rw [hk.owned _ p (by simp [hown]), hown]

/-- A tile free after others have been given was free before. -/
theorem GivenTiles.of_later {s t u : State} {w n : Nat} {ws : List Nat} (hk : KeepsTiles s t ws) (h : GivenTiles t u w n) :
    GivenTiles s u w n := fun j hj => by
  obtain ⟨p, hp, htile, hfree, hrest⟩ := h j hj
  refine ⟨p, hp, htile, ?_, hrest⟩
  by_contra hne
  exact hne ((hk.owned _ p hne).symm.trans hfree)

theorem State.owner_giveTiles (s : State) (w n : Nat) : ((s.giveTiles w n).cores.get (coreOf w)).owner =
    ((s.cores.get (coreOf w)).freeTiles.take n).foldl (fun o t => o.put t (.wave w)) (s.cores.get (coreOf w)).owner := by
  simp [State.giveTiles]

theorem State.cores_giveTiles_ne (s : State) (w n : Nat) {core : Nat} (h : core ≠ coreOf w) :
    (s.giveTiles w n).cores.get core = s.cores.get core :=
  Tab.get_put_ne _ _ h

theorem State.get_owner_giveTiles (s : State) (w n p : Nat) : ((s.giveTiles w n).cores.get (coreOf w)).owner.get p =
    if p ∈ (s.cores.get (coreOf w)).freeTiles.take n then .wave w else (s.cores.get (coreOf w)).owner.get p := by
  rw [State.owner_giveTiles, Tab.get_foldl_put (fun _ => TileOwner.wave w)]

theorem State.get_entries_giveTiles (s : State) (w n i : Nat) :
    ((s.giveTiles w n).cores.get (coreOf w)).entries.get i =
      if i / 1024 ∈ (s.cores.get (coreOf w)).freeTiles.take n then 0 else (s.cores.get (coreOf w)).entries.get i := by
  simp only [State.giveTiles, State.cores_modWave, State.cores_modCore, Tab.get_modify_same]
  rw [Tab.get_filter_keys fun i => !((s.cores.get (coreOf w)).freeTiles.take n).contains (i / 1024)]
  by_cases h : i / 1024 ∈ (s.cores.get (coreOf w)).freeTiles.take n
  · rw [if_pos h, if_neg (by simpa using h)]
    rfl
  · rw [if_neg h, if_pos (by simpa using h)]

theorem State.tiles_giveTiles (s : State) (w n : Nat) {j p : Nat}
    (h : ((s.cores.get (coreOf w)).freeTiles.take n)[j]? = some p) :
    ((s.giveTiles w n).waves.get w).tiles.get j = p + 1 := by
  simp only [State.giveTiles, State.get_modWave, Tab.foldl_put_eq_putAll]
  refine Tab.get_putAll_of_mem (e := (j, p + 1)) _ _ ?_ ?_
  · rw [List.map_map, Function.comp_def, List.zipIdx_map_snd]
    exact List.nodup_range'
  · exact List.mem_map.2 ⟨(p, j), List.mem_zipIdx_iff_getElem?.2 h, rfl⟩

theorem State.keepsTiles_giveTiles (s : State) (w n : Nat) : KeepsTiles s (s.giveTiles w n) [w] where
  mem := rfl
  gangs := rfl
  owned core p hp := by
    by_cases hc : core = coreOf w
    · subst hc
      rw [State.get_owner_giveTiles, if_neg fun hm => hp (CoreSt.mem_freeTiles.1 (List.mem_of_mem_take hm)).2]
    · rw [State.cores_giveTiles_ne s w n hc]
  zero core i hz := by
    by_cases hc : core = coreOf w
    · subst hc
      rw [State.get_entries_giveTiles, hz, ite_self]
    · rwa [State.cores_giveTiles_ne s w n hc]
  waves x hx := Tab.get_put_ne _ _ (by simpa using hx)
  regs x := by
    by_cases hx : x = w
    · subst hx; simp [State.giveTiles]
    · simp [State.giveTiles, Tab.get_put_ne _ _ hx]

theorem State.givenTiles_giveTiles {s : State} {w n : Nat} (h : n ≤ (s.cores.get (coreOf w)).freeTiles.length) :
    GivenTiles s (s.giveTiles w n) w n := fun j hj => by
  have hlen : j < ((s.cores.get (coreOf w)).freeTiles.take n).length := by simp; omega
  have hmem := List.getElem_mem hlen
  obtain ⟨hp, hfree⟩ := CoreSt.mem_freeTiles.1 (List.mem_of_mem_take hmem)
  refine ⟨_, hp, s.tiles_giveTiles w n (List.getElem?_eq_getElem hlen), hfree,
    by rw [State.get_owner_giveTiles, if_pos hmem], fun q hq => ?_⟩
  have hdiv : ∀ p, (1024 * p + q) / 1024 = p := fun p => by omega
  rw [entryOf, State.get_entries_giveTiles, hdiv, if_pos hmem]

/-- Giving tiles to different waves whose cores have enough of them free (R159, R277). -/
theorem State.foldl_giveTiles (n : Nat) (ws : List Nat) : ∀ s : State, ws.Nodup →
    (∀ w ∈ ws, (ws.filter fun x => coreOf x == coreOf w).length * n ≤ (s.cores.get (coreOf w)).freeTiles.length) →
    KeepsTiles s (ws.foldl (fun s w => s.giveTiles w n) s) ws ∧
    ∀ w ∈ ws, GivenTiles s (ws.foldl (fun s w => s.giveTiles w n) s) w n := by
  induction ws with
  | nil => exact fun s _ _ => ⟨KeepsTiles.refl s [], by simp⟩
  | cons w ws ih =>
    intro s hnd hfree
    obtain ⟨hw, hnd⟩ := List.nodup_cons.1 hnd
    have hstep := s.keepsTiles_giveTiles w n
    have hrest : ∀ x ∈ ws, (ws.filter fun y => coreOf y == coreOf x).length * n ≤
        ((s.giveTiles w n).cores.get (coreOf x)).freeTiles.length := by
      intro x hx
      have hfx := hfree x (List.mem_cons_of_mem _ hx)
      by_cases hc : coreOf x = coreOf w
      · rw [hc] at hfx ⊢
        rw [CoreSt.freeTiles_give _ _ w n (s.owner_giveTiles w n), List.length_drop]
        rw [List.filter_cons_of_pos (by simp), List.length_cons, Nat.add_mul] at hfx
        omega
      · rw [State.cores_giveTiles_ne s w n hc]
        rwa [List.filter_cons_of_neg (by simpa using Ne.symm hc)] at hfx
    obtain ⟨hk, hgiven⟩ := ih (s.giveTiles w n) hnd hrest
    refine ⟨hstep.trans hk, fun x hx => ?_⟩
    rcases List.mem_cons.1 hx with rfl | hx
    · have hn : n ≤ (s.cores.get (coreOf x)).freeTiles.length := by
        have := hfree x List.mem_cons_self
        rw [List.filter_cons_of_pos (by simp), List.length_cons, Nat.add_mul] at this
        omega
      exact (State.givenTiles_giveTiles hn).keep hk hw
    · exact GivenTiles.of_later hstep (hgiven x hx)

theorem exec_grantGang (gi : Nat) (s : State) : exec (.grantGang gi) s = execGrantGang gi s := rfl

/-- GRANT where its condition holds. -/
theorem exec_grantGang_granted {s : State} {gi : Nat} (hst : (s.gangs.get gi).st = .resident)
    (hr : (s.gangs.get gi).request = true) (ha : s.requestAhead (s.gangs.get gi) = false)
    (hf : s.fits (s.gangs.get gi) = true) :
    exec (.grantGang gi) s = .next (((s.gangs.get gi).waves.foldl
      (fun t w => t.giveTiles w (s.kernels.get (s.gangs.get gi).kern).desc.tiles) s).modGang gi
        fun g => { g with st := .granted, granted := true, request := false }) := by
  simp [exec_grantGang, execGrantGang, orSame, tryGrantGang, hst, hr, ha, hf]

/-! ### Draining (R155) -/

/-- Two states with the same waves, gangs and kernels. -/
structure SameWork (s t : State) : Prop where
  waves : t.waves = s.waves
  gangs : t.gangs = s.gangs
  kernels : t.kernels = s.kernels

theorem SameWork.refl (s : State) : SameWork s s := ⟨rfl, rfl, rfl⟩

theorem SameWork.trans {s t u : State} (h : SameWork s t) (h' : SameWork t u) : SameWork s u :=
  ⟨h'.waves.trans h.waves, h'.gangs.trans h.gangs, h'.kernels.trans h.kernels⟩

theorem SameWork.foldl {β : Type} {f : State → β → State} (hf : ∀ s e, SameWork s (f s e)) (l : List β) :
    ∀ s, SameWork s (l.foldl f s) := by
  induction l with
  | nil => exact SameWork.refl
  | cons e r ih => exact fun s => (hf s e).trans (ih _)

theorem SameWork.writeDev (s : State) (cs : List (Nat × Byte)) (grp : Nat) : SameWork s (s.writeDev cs grp) := by
  have hn := State.eq_noteLeaves s cs
  generalize (s.noteLeaves cs).ctxs = x at hn
  unfold State.writeDev
  dsimp only
  rw [hn, State.eq_backInvalidate, State.eq_noteMirror]
  split <;> exact ⟨rfl, rfl, rfl⟩

theorem SameWork.homeWrite (s : State) (core : Nat) (q : QStore) : SameWork s (s.homeWrite core q) := by
  have hl1 (t : State) : SameWork t (t.l1Update core q.t.key (bytesLE q.n q.v)) := by
    unfold State.l1Update
    split_ifs <;> exact ⟨rfl, rfl, rfl⟩
  refine SameWork.trans ?_ (hl1 _)
  unfold State.writeAt
  split
  · exact SameWork.writeDev s _ _
  · exact ⟨rfl, rfl, rfl⟩
  · exact SameWork.refl s

theorem SameWork.arriveAll (s : State) (core : Nat) : SameWork s (s.arriveAll core) := by
  unfold State.arriveAll State.arriveIf
  split
  · exact SameWork.refl s
  · refine SameWork.trans ?_ (SameWork.foldl (fun t (e : Nat × QStore) => SameWork.homeWrite t core e.2) _ _)
    exact ⟨rfl, rfl, rfl⟩

theorem State.eq_foldl_dropLocks (l : List PendingOp) : ∀ s : State, ∃ ls,
    l.foldl (fun (s : State) o => s.dropLocks o.uid) s = { s with locks := ls } := by
  induction l with
  | nil => exact fun s => ⟨s.locks, rfl⟩
  | cons o r ih =>
    intro s
    obtain ⟨ls, h⟩ := ih (s.dropLocks o.uid)
    exact ⟨ls, h⟩

/-- A change of a core that leaves its stores on their way. -/
theorem State.out_modCore (s : State) {i : Nat} {f : CoreSt → CoreSt} (hf : ∀ c, (f c).out = c.out) (core : Nat) :
    ((s.modCore i f).cores.get core).out = (s.cores.get core).out := by
  rw [State.cores_modCore]
  by_cases hc : core = i
  · rw [hc, Tab.get_modify_same, hf]
  · rw [Tab.get_modify_ne _ _ hc]

/-- A wave with no store queued leaves its slot empty, and its core's stores on their way are performed; of other waves, gangs
and kernels nothing changes. -/
theorem State.freeWave_spec {s : State} {w : Nat} (h : (s.waves.get w).stq = []) :
    SameWork (s.setWave w default) (s.freeWave w) ∧ (s.freeWave w).mem = (s.arriveAll (coreOf w)).mem ∧
    ∀ core, ((s.freeWave w).cores.get core).out = ((s.arriveAll (coreOf w)).cores.get core).out := by
  have hwork := SameWork.arriveAll s (coreOf w)
  unfold State.freeWave
  rw [State.drainStores_nil h]
  dsimp only
  obtain ⟨ls, hl⟩ := State.eq_foldl_dropLocks _ _
  rw [hl]
  refine ⟨⟨?_, hwork.gangs, hwork.kernels⟩, rfl, fun core => ?_⟩
  · exact congrArg (fun x => Tab.put x w default) hwork.waves
  · simp only [State.cores_setWave, State.withdraw]
    refine State.out_modCore _ ?_ core
    exact fun _ => rfl

/-- The waves of a gang with no store queued leave their slots. -/
theorem State.foldl_freeWave (ws : List Nat) : ∀ s : State, (∀ w, w ∈ ws → (s.waves.get w).stq = []) →
    (ws.foldl (fun s w => s.freeWave w) s).gangs = s.gangs ∧
    (ws.foldl (fun s w => s.freeWave w) s).kernels = s.kernels ∧
    (∀ x, (ws.foldl (fun s w => s.freeWave w) s).waves.get x = if x ∈ ws then default else s.waves.get x) ∧
    ((∀ w ∈ ws, (s.cores.get (coreOf w)).out = []) → (ws.foldl (fun s w => s.freeWave w) s).mem = s.mem) := by
  induction ws with
  | nil => exact fun s _ => ⟨rfl, rfl, by simp, fun _ => rfl⟩
  | cons w ws ih =>
    intro s hq
    obtain ⟨hwork, hmem, hout⟩ := State.freeWave_spec (hq w List.mem_cons_self)
    have hget (x : Nat) : (s.freeWave w).waves.get x = if x = w then default else s.waves.get x := by
      rw [hwork.waves, State.waves_setWave, Tab.get_put]
    obtain ⟨hg, hk, hw, hm⟩ := ih (s.freeWave w) fun x hx => by
      rw [hget]
      split_ifs
      · rfl
      · exact hq x (List.mem_cons_of_mem _ hx)
    refine ⟨hg.trans hwork.gangs, hk.trans hwork.kernels, fun x => ?_, fun ho => ?_⟩
    · rw [List.foldl_cons, hw, hget]
      by_cases h1 : x ∈ ws <;> by_cases h2 : x = w <;> simp [h1, h2]
    · rw [State.arriveAll_nil (ho w List.mem_cons_self)] at hmem hout
      exact (hm fun x hx => (hout _).trans (ho x (List.mem_cons_of_mem _ hx))).trans hmem

/-! ### The end of a kernel's launch (R126, R132) -/

theorem SameWork.modQueue (s : State) (qi : Nat) (f : Queue → Queue) : SameWork s (s.modQueue qi f) := ⟨rfl, rfl, rfl⟩

theorem SameWork.packetDone (s : State) (qi n status : Nat) (ok : Bool) : SameWork s (s.packetDone qi n status ok) := by
  have herror (t : State) (h : SameWork s t) : SameWork s (if ok then t else t.queueError qi 4) := by
    split_ifs
    · exact h
    · exact h.trans (SameWork.modQueue t qi _)
  exact (herror _ (SameWork.modQueue s qi _)).trans (SameWork.modQueue _ qi _)

theorem SameWork.feWrite (s : State) (c : Ctx) (va : Nat) (bs : List Byte) : SameWork s ((s.feWrite c va bs).getD s) := by
  unfold State.feWrite
  cases s.feTargets c va bs.length with
  | none => exact SameWork.refl s
  | some ts => exact (SameWork.writeDev s _ 0).trans ⟨rfl, rfl, rfl⟩

theorem SameWork.putRecord (s : State) (r : LateRecord) : SameWork s (s.putRecord r) := by
  unfold State.putRecord
  dsimp only
  split_ifs
  · exact ⟨rfl, rfl, rfl⟩
  · refine (SameWork.feWrite s (s.ctxs.get r.ctx) r.va r.bytes).trans ?_
    split
    · exact SameWork.packetDone _ _ _ _ _
    · exact SameWork.refl _

theorem SameWork.completeLaunch (s : State) (k : Kernel) (status cause : Nat) (r : Report) :
    SameWork s (s.completeLaunch k status cause r) := by
  unfold State.completeLaunch State.completePacket State.nodeRecord
  split
  · dsimp only
    split_ifs
    · exact SameWork.packetDone _ _ _ _ _
    · exact SameWork.putRecord _ _
  · split_ifs
    · exact SameWork.refl s
    · exact SameWork.putRecord _ _
  · exact SameWork.refl s

/-- A kernel that is not aborting is not ended. -/
theorem State.endAbort_of_not_aborting {s : State} {k : Nat} (h : (s.kernels.get k).st ≠ .aborting) : s.endAbort k = s := by
  simp [State.endAbort, h]

/-- An aborting kernel without gangs becomes Aborted (R126). -/
theorem State.endAbort_aborted {s : State} {k : Nat} (h : (s.kernels.get k).st = .aborting)
    (hg : ∀ e ∈ s.gangs, e.2.kern ≠ k) : ((s.endAbort k).kernels.get k).st = .aborted := by
  have hany : s.gangs.any (fun e => e.2.kern == k) = false := by simpa using hg
  unfold State.endAbort
  simp only [h, hany, ne_eq, not_true_eq_false, decide_false, Bool.or_self, Bool.false_eq_true, if_false]
  rw [(SameWork.completeLaunch _ _ _ _ _).kernels, State.kernels_modKern, Tab.get_modify_same]

/-- The end of a kernel changes no wave and no gang. -/
theorem State.endAbort_frame (s : State) (k : Nat) : (s.endAbort k).waves = s.waves ∧ (s.endAbort k).gangs = s.gangs := by
  unfold State.endAbort
  dsimp only
  split_ifs
  · exact ⟨rfl, rfl⟩
  · have h := SameWork.completeLaunch
      (({ s with adds := s.adds.filter fun a => a.kern ≠ k } : State).modKern k fun x => { x with st := .aborted })
      (s.kernels.get k) (s.kernels.get k).status (s.kernels.get k).cause ((s.kernels.get k).report.getD (rep 0 0 0))
    exact ⟨h.waves, h.gangs⟩

theorem State.stq_of_gangQuiet {s : State} {g : Gang} (h : s.gangQuiet g = true) {w : Nat} (hw : w ∈ g.waves) :
    (s.waves.get w).stq = [] := by
  have := List.all_eq_true.1 h w hw
  simp only [Bool.and_eq_true, List.isEmpty_iff] at this
  exact this.1.1.2

theorem exec_drainedGang (gi : Nat) (s : State) : exec (.drainedGang gi) s = execDrainedGang gi s := rfl

/-- DRAINED where its condition holds. -/
theorem exec_drainedGang_drained {s : State} {gi : Nat} (hst : (s.gangs.get gi).st = .draining)
    (hq : s.gangQuiet (s.gangs.get gi) = true) : exec (.drainedGang gi) s = .next (s.releaseGang gi) := by
  simp [exec_drainedGang, execDrainedGang, orSame, tryDrainedGang, hst, hq]

/-- The state when the waves of a gang have left their slots and the gang its record, before its kernel may end. -/
def State.leftGang (s : State) (gi : Nat) : State :=
  let t := (s.gangs.get gi).waves.foldl (fun s w => s.freeWave w) s
  let t := { t with gangs := t.gangs.put gi default }
  t.modCtx (s.gangs.get gi).ctx fun c =>
    if c.st = .running && !(t.gangs.any fun e => e.2.ctx == (s.gangs.get gi).ctx && e.2.st != .saved)
    then { c with st := .ready } else c

theorem State.releaseGang_eq (s : State) (gi : Nat) : s.releaseGang gi = (s.leftGang gi).endAbort (s.gangs.get gi).kern := rfl

section
variable {s : State} {gi : Nat} (hq : s.gangQuiet (s.gangs.get gi) = true)
include hq

/-- What is left when a gang has gone (R155). -/
theorem State.leftGang_spec : (s.leftGang gi).gangs = s.gangs.put gi default ∧ (s.leftGang gi).kernels = s.kernels ∧
    (∀ w, (s.leftGang gi).waves.get w = if w ∈ (s.gangs.get gi).waves then default else s.waves.get w) ∧
    ((∀ w ∈ (s.gangs.get gi).waves, (s.cores.get (coreOf w)).out = []) → (s.leftGang gi).mem = s.mem) := by
  obtain ⟨hg, hk, hw, hm⟩ := State.foldl_freeWave (s.gangs.get gi).waves s fun w => State.stq_of_gangQuiet hq
  exact ⟨congrArg (fun x => Tab.put x gi default) hg, hk, hw, hm⟩

/-- A gang released leaves no record, and its waves leave their slots; other waves stay (R155). -/
theorem State.releaseGang_frees : (s.releaseGang gi).gangs.get gi = default ∧
    ∀ w, (s.releaseGang gi).waves.get w = if w ∈ (s.gangs.get gi).waves then default else s.waves.get w := by
  obtain ⟨hg, -, hw, -⟩ := State.leftGang_spec hq
  obtain ⟨hew, heg⟩ := State.endAbort_frame (s.leftGang gi) (s.gangs.get gi).kern
  rw [State.releaseGang_eq, heg, hew, hg]
  exact ⟨Tab.get_put_same _ _ _, hw⟩

/-- Unless its kernel is aborting, its release leaves kernels alone, and memory but for stores on their way. -/
theorem State.releaseGang_keeps (hk : (s.kernels.get (s.gangs.get gi).kern).st ≠ .aborting) :
    (s.releaseGang gi).kernels = s.kernels ∧
    ((∀ w ∈ (s.gangs.get gi).waves, (s.cores.get (coreOf w)).out = []) → (s.releaseGang gi).mem = s.mem) := by
  obtain ⟨-, hkern, -, hm⟩ := State.leftGang_spec hq
  rw [State.releaseGang_eq, State.endAbort_of_not_aborting (by rwa [hkern])]
  exact ⟨hkern, hm⟩

/-- The release of the last gang of an aborting kernel ends the kernel (R126). -/
theorem State.releaseGang_last (hk : (s.kernels.get (s.gangs.get gi).kern).st = .aborting)
    (hlast : ∀ e ∈ s.gangs, e.2.kern = (s.gangs.get gi).kern → e.1 = gi) :
    ((s.releaseGang gi).kernels.get (s.gangs.get gi).kern).st = .aborted := by
  obtain ⟨hg, hkern, -, -⟩ := State.leftGang_spec hq
  refine State.endAbort_aborted (s := s.leftGang gi) (by rwa [hkern]) fun e he hek => ?_
  rw [hg] at he
  obtain ⟨hmem, hne⟩ := Tab.mem_put_default he
  exact hne (hlast e hmem hek)

end

/-- Settles O47: PLACE by the waves written to the slots, each at its entry; GRANT by induction on the waves given tiles;
DRAINED by induction on the waves that leave their slots. -/
theorem gangsPlacedGrantedDrained : Obligations.GangsPlacedGrantedDrained := by
  unfold Obligations.GangsPlacedGrantedDrained
  refine fun s => ⟨fun kid core split slots hu ha hn hp hl hs => ?_, fun gi hst hr ha hf hnd => ?_, fun gi hst hq => ?_⟩
  · obtain ⟨t, hx, hmem, hwaves, hgangs, hkern, hctx⟩ := exec_placeGang_placed rfl hu ha hn hp hl hs
    obtain ⟨hlen, hnd, hfree⟩ := State.slotsFor_spec hs
    refine ⟨t, hx, hmem, hlen, by rw [hgangs, Tab.get_put_same], by rw [hkern, Tab.get_modify_same],
      by rw [hctx, Tab.get_modify_same, Ctx.running_of_admits ha], fun m w hw => ?_, fun w hw => ?_⟩
    · have hget : t.waves.get w =
          s.inSlot w (startWave kid (s.uid + 1) (s.kernels.get kid) (s.kernels.get kid).placed m) := by
        rw [hwaves]
        refine Tab.get_putAll_of_mem (e := (w, _)) _ _ ?_ (List.mem_map.2 ⟨(w, m), List.mem_zipIdx_iff_getElem?.2 hw, rfl⟩)
        rwa [List.map_map, Function.comp_def, List.zipIdx_map_fst]
      rw [hget]
      exact ⟨hfree w (List.mem_of_getElem? hw), startsAs_startWave kid (s.uid + 1) (s.kernels.get kid) m, rfl⟩
    · rw [hwaves]
      refine Tab.get_putAll_ne _ _ fun e he hwe => hw ?_
      obtain ⟨x, hx, rfl⟩ := List.mem_map.1 he
      exact hwe ▸ List.fst_mem_of_mem_zipIdx hx
  · obtain ⟨hkeep, hgiven⟩ := State.foldl_giveTiles (s.kernels.get (s.gangs.get gi).kern).desc.tiles _ s hnd
      fun w => State.fits_tiles hf
    refine ⟨_, exec_grantGang_granted hst hr ha hf, hkeep.mem, ?_, hgiven, hkeep.regs⟩
    rw [State.gangs_modGang, Tab.get_modify_same, hkeep.gangs]
  · obtain ⟨hgang, hwaves⟩ := State.releaseGang_frees hq
    exact ⟨_, exec_drainedGang_drained hst hq, hgang, fun w hw => by rw [hwaves, if_pos hw],
      fun w hw => by rw [hwaves, if_neg hw], State.releaseGang_keeps hq, State.releaseGang_last hq⟩

end Sys2Proof.Machine
